-- ==== Sys2Proof/Word.lean ====
section
/-! DEFINITION. The word types of the part: bytes, 32-bit register words (R5), byte strings. -/

namespace Sys2Proof

/-- One byte of a packet, record or memory. -/
abbrev Byte := BitVec 8

/-- One 32-bit register or Draught data word (R5, R22). -/
abbrev Word := BitVec 32

/-- A byte string, first byte first. -/
abbrev Bytes := List Byte

end Sys2Proof
end

