-- ==== Sys2Proof/Syntax.lean ====
section
/-! DEFINITION. The commands of the block: one constructor per row of the spec's table of operations and
events. A command that the part itself originates (a step of a sequencer, an event) carries what the world outside
the model supplies to that step (a measurement, a sample, a frame); everything else the step needs is in the state. -/

namespace Sys2Proof

/-- The two bands (R151). -/
inductive Band where
  | bandA | bandB
deriving DecidableEq, Repr

/-- The two detection families (R166). -/
inductive Family where
  | amconde | fsk
deriving DecidableEq, Repr

/-- Who reaches a register: the executive (a host's command) or an application core through its window (R423). -/
inductive Requester where
  | executive
  | core (n : Fin 8)
deriving DecidableEq, Repr

/-- A command of the Ubfen protocol, named as the host names it: its transport (Table 2.3) and its TAG, which no two
uncompleted commands of one transport share (Table 2.8, check 8). -/
structure CmdRef where
  tr : Fin 11
  tag : Byte
deriving DecidableEq, Repr

/-- A Draught queue: 0–63 the software queues (R38); the crossings of Table 1.3 (R18): 64 and 65 channel samples of RXA
and RXB (R155), 66 OBS samples to Eddy training, 67 and 68 configuration into CD0 and CD1, 69 launch descriptors and frames
into CD2, 70 launch completions out, 71 time reads and increment writes into CD3, 72 time events out, 73 and 74 Ethernet
frames in per port, 75 and 76 frames out, 77 and 78 stamps out, 79 pair messages in, 80 out, 81 memory requests into CD6,
82 memory data, 83 Ubfen packets in from CD7, 84 out, 85 alarm writes into CD8, 86 RTC reads; inside the fabric, 87 receive
descriptors to the frame engine (R222), 88 downlink packets to the frame engine. -/
abbrev QId := Fin 89

/-- One peak that a detector finds in a block at one quarter-symbol phase (R166): what it measured. -/
structure Detection where
  family : Family
  /-- Amconde: K. SUN-FSK: rate index as in FSK_RATES. -/
  mode : Nat
  /-- Symbol phase: how long before the first sample of the block the first symbol of the detection began, 2⁻¹⁶ ns; with the
  block's stamp it gives the stamp of R166. -/
  back : Nat
  /-- Amconde: peak bin and metric (0.1 dB) of each consecutive symbol, oldest first. SUN-FSK: metric of the correlation over
  each consecutive symbol period, with bin 0. -/
  peaks : List (Nat × Int)
  /-- SUN-FSK: coarse carrier offset, Hz. -/
  foff : Int
deriving DecidableEq, Repr

/-- The strongest bins of a symbol's transform (R213): bin, and complex value as real and imaginary part. -/
abbrev Bins := List (Nat × Int × Int)

/-- What a context has measured of its alignment (R204, R219): symbols since the first of its detection; whether the
up-chirp peak is absent at that boundary; the 16 bits that the SFD search of SUN-FSK has just seen, first bit most
significant; preamble symbols or octets; the fine part of the timing in 2⁻¹⁶ ns; running RSSI in 0.1 dBm. -/
structure AlignMeasure where
  symbols : Nat
  found : Bool
  sfd : BitVec 16
  np : Nat
  fine : Int
  level : Int
deriving DecidableEq, Repr

/-- What a context has measured of its reception when it ends (Table 7.5): RSSI and SNR in 0.1 dB, carrier offset in Hz. -/
structure RxMeasure where
  rssi : Int
  snr : Int
  foff : Int
deriving DecidableEq, Repr

/-- What OBS measures on a port (R141): levels in 0.1 dB and 0.1 dBm, phase in 0.1 degree. -/
structure AntMeasure where
  clipped : Bool
  /-- Forward wave relative to the level the launch calls for, 0.1 dB. -/
  fwdRel : Int
  /-- 20 log₁₀ |V_fwd ÷ V_rev|, 0.1 dB, and arg (V_rev ÷ V_fwd), 0.1 degree, both at the coupler. -/
  ratio : Int
  arg : Int
  /-- Reverse coupled power, 0.1 dBm. -/
  rev : Int
  /-- Delay M from the compare unit to OBS_IN that the forward window gives, ps (R242, R244). -/
  delayM : Int
deriving DecidableEq, Repr

/-- A place of MRAM that a boot reads, and whose ECC may fail (R512). -/
inductive MramPlace where
  /-- Header, or entry, of the stored record of a TYPE (R97). -/
  | recordHead (type : BitVec 16)
  | recordEntry (type : BitVec 16) (index : Nat)
  /-- Section of the calibration set (R108). -/
  | calSection (k : Fin 9)
  /-- Slot A or B of the key journal (R396). -/
  | journal (b : Bool)
  /-- Copy A or B of the slot state record (R402). -/
  | slotState (b : Bool)
  /-- Freeze record of Rewind (R489). -/
  | freezeRecord
deriving DecidableEq, Repr

/-- What the memory controllers, the regulator and the PUF answer during a boot step (R512, R467, R367, R471). -/
structure BootEnv where
  flashLog2 : BitVec 5
  flashOctal : Bool
  flashFound : Bool
  dramSize : BitVec 3
  dramTrained : Bool
  dramRate : BitVec 3
  /-- VDD2 and VDDQ stayed within Table 16.6, so LPDDR4X kept its contents. -/
  dramKept : Bool
  /-- VOUT_MODE reports linear mode (R467). -/
  voutLinear : Bool
  /-- PUF reconstruction succeeds (R367). -/
  pufOk : Bool
  /-- The start-up test of the entropy source passes (R397). -/
  entropyOk : Bool
  /-- Words of the records read in this step that the ECC of MRAM corrected, and where it could not (R512). -/
  mramCorr : BitVec 16
  mramBad : List MramPlace
deriving DecidableEq, Repr

/-- What a heartbeat of the peer carries (R348, R350). -/
structure Heartbeat where
  /-- The path: true for the pair link, false for Ethernet. -/
  onLink : Bool
  claim : Word
  serial : BitVec 64
  /-- The peer names this unit as the owner. -/
  namesThisOwner : Bool
  /-- The peer yields ownership (PAIR_YIELD or a handover drill). -/
  yields : Bool
  /-- The peer, as owner, asks for renewal of its lease. -/
  leaseRequest : Bool
  /-- The peer grants a lease; the value is the time, in ns of this unit, at which the answered request was sent. -/
  leaseGrant : Option Nat
deriving DecidableEq, Repr

/-- What a training of the pair link finds (R347, R360). -/
structure PairTraining where
  lanes : BitVec 2
  swapped : Bool
  inv : BitVec 2
  peerSerial : BitVec 64
  peerVersion : Word
  peerDigest : Word
deriving DecidableEq, Repr

/-- Weights of Eddy (R247): the analog stage's bulk delay in steps of 0.3125 ns and its 32 real taps; for each of the four
down-conversion windows, the digital stage's 64 complex taps. A tap that is not listed is 0. -/
structure EddyW where
  delay : Nat
  analog : List Int
  digital : List (List (Int × Int))
deriving DecidableEq, Repr

/-- What a fit of the canceller finds (R247 to R250): residuals with the stage on and off, and the desense, 0.1 dB; the fitted
coupling of the analog stage, 0.1 dB; the weights. -/
structure EddyFit where
  residualOn : Int
  residualOff : Int
  converged : Bool
  desense : Nat
  coupling : Int
  w : EddyW
deriving DecidableEq, Repr

/-- What a PTP instance sends of its own (R271): Delay_Req or Pdelay_Req, Sync, Announce. -/
inductive PtpSend where
  | delay
  | sync
  | announce
deriving DecidableEq, Repr

/-- How a tagged instruction ended up in a sample record (Table 15.14). -/
structure SampleTag where
  pc : BitVec 64
  priv : BitVec 2
  latency : Nat
deriving DecidableEq, Repr

/-- The commands of the block, in the order of the table. -/
inductive Instr where
  -- Draught queues
  | dqWordWrite (q : QId) (clocked : Bool) (data : Word) (pri : BitVec 3) (stream : Byte) (last : Bool)
  | dqBankSwap (q : QId)
  | dqCarryOver (q : QId)
  | dqPacketRead (q : QId)
  | sysDqDataRead (n : Fin 64) (who : Requester)
  | sysDqDataWrite (n : Fin 64) (who : Requester) (data : Word)
  | dqEnable (n : Fin 64) (who : Requester)
  | dqDisable (n : Fin 64) (who : Requester)
  | dqFlush (n : Fin 64) (who : Requester)
  | dqFlushDone (q : QId)
  | descriptorRelease (dseq : Word)
  -- Transports
  | spiWritePacket (data : Bytes)
  | spiReadPacket (count : Nat)
  | spiReadStatus
  | mgmtFrameCommand (p : Fin 2) (frame : Bytes)
  | mailboxCommand (n : Fin 8)
  | commandStart (c : CmdRef)
  | replyRelease (tr : Fin 11) (cls : Fin 16)
  -- Events
  | eventRecordWrite (src : Fin 128)
  | ringOverflowRecord
  | eventPushSend
  -- System commands
  | sysNop (c : CmdRef)
  | sysIdentify (c : CmdRef)
  | sysStatus (c : CmdRef)
  | regRead (c : CmdRef)
  | regWrite (c : CmdRef)
  | regPoll (c : CmdRef)
  | regPollSample (c : CmdRef)
  | sysReset (c : CmdRef)
  | resetBegin
  | streamFlush (c : CmdRef)
  | eventRead (c : CmdRef)
  | eventConfig (c : CmdRef)
  | eventAck (c : CmdRef)
  | eventPushSet (c : CmdRef)
  | eventInject (c : CmdRef)
  -- Resets and boot
  | powerOnReset
  | resetnAssert (lowNs : Nat) (taken : Bool)
  | resetnRelease
  | bootStepEnd (env : BootEnv)
  | soloTimeoutExpiry
  | execLockstepMismatch (pc : Word)
  | execWatchdogExpiry
  -- Configuration and calibration set
  | cfgWrite (c : CmdRef)
  | cfgCommit (c : CmdRef)
  | cfgReportRead (c : CmdRef)
  | cfgRead (c : CmdRef)
  | cfgErase (c : CmdRef)
  | calExport (c : CmdRef)
  | calWrite (c : CmdRef)
  -- RF front-end
  | adcClipReport (conv : Fin 3) (clipped : Word)
  | scsLockLoss (o : Fin 4)
  | scsRelocked (o : Fin 4)
  | refclkLoss
  | refclkRestore
  | steeringEnd
  | bandTransitionDone (b : Band)
  | carrierPark (k : Fin 4)
  | bandDrainDone (b : Band)
  | calibrationDone (b : Band) (failed : Option (Fin 6)) (results : List Bytes)
  | radioCalRestart (b : Band)
  | backgroundTrack (b : Band) (offset gain skew : Int)
  | paBiasRise (e : Fin 64)
  | paEnRise (e : Fin 64)
  | launchStart (e : Fin 64)
  | launchEnd (e : Fin 64)
  | paEnFall (p : Fin 4)
  | paBiasFall
  | lnaBypassStart (b : Band) (clipped samples : Nat) (level : Int)
  | lnaBypassEnd (b : Band)
  | antennaMeasure (p : Fin 4) (m : AntMeasure)
  | tunerCodeWrite (p : Fin 4)
  | antennaProbeDue (p : Fin 4)
  | pinFaultDetect (k : Fin 10) (high : Bool)
  | radioStatus (c : CmdRef)
  | radioCal (c : CmdRef)
  | radioStateSet (c : CmdRef)
  | rffeWrite (c : CmdRef)
  | rffeRead (c : CmdRef) (data : Bytes) (parityFails : Nat)
  | antProbe (c : CmdRef)
  | pinRearm (c : CmdRef) (stillBad : BitVec 10)
  | scsRelock (c : CmdRef)
  -- Channelizer and detection
  | channelBlockOut (ch : Fin 128) (samples : List (BitVec 10 × BitVec 10))
  | nfBusyTimeout (ch : Fin 128)
  | agcRangeAlert (ch : Fin 128)
  | detectorScan (b : Band) (found : List Detection)
  | channelDrainDone (ch : Fin 128)
  | thresholdLoop (ch : Fin 128) (fam : Family)
  | rxWindowSet (c : CmdRef)
  | rxChannelSet (c : CmdRef)
  | rxChannelStatus (c : CmdRef)
  | rxThreshSet (c : CmdRef)
  | rxCountersRead (c : CmdRef)
  -- Mistral
  | contextAllocate
  | contextAlignEnd (x : Fin 96) (m : AlignMeasure)
  | syncDecide (x : Fin 96) (m0 m1 : Nat) (p0 p1 : Int)
  | headerDecide (x : Fin 96) (syms : List Bins) (level : Int)
  | fskSfdTimeout (x : Fin 96)
  | fskPhrDecide (x : Fin 96) (bits : List Bool) (level : Int)
  | payloadGroupDecode (x : Fin 96) (syms : List Bins) (bits : List Bool) (level : Int)
  | contextFinish (x : Fin 96) (m : RxMeasure)
  | contextFree (x : Fin 96)
  | demStatus (c : CmdRef)
  | demCountersRead (c : CmdRef)
  -- Zephyr and Eddy
  | txLaunch (c : CmdRef)
  | heldLaunchPlace (e : Fin 64)
  | holdMaxExpiry (e : Fin 64)
  | launchDescriptorLoad (e : Fin 64)
  | txCancel (c : CmdRef)
  | txStatus (c : CmdRef)
  | txSimcal (c : CmdRef)
  | simcalMeasureDone (e : Fin 64) (delayM : Int) (spread : Nat)
  | txSimcalSet (c : CmdRef)
  | eddyReset (c : CmdRef)
  | eddyDigitalFit (b : Band) (m : EddyFit)
  -- Time unit
  | nsWordWrap
  | rtcRealign
  | tempIncEnd (d : Fin 2)
  | timeRead (c : CmdRef)
  | timeStatus (c : CmdRef)
  | timeSet (c : CmdRef)
  | timeAdjust (c : CmdRef)
  | timeDomainSwitch (c : CmdRef)
  | domainSwitchAt
  | timeAlarmSet (c : CmdRef)
  | alarmFire (u : Fin 16)
  | ptpCounters (c : CmdRef)
  | beaconSet (c : CmdRef)
  | beaconBuild (slot : Fin 8)
  | ptpSyncSample (d : Fin 2) (p : Fin 2) (freqInc : Nat)
  | ptpAnnounceReceive (d : Fin 2) (p : Fin 2)
  | ptpAnnounceTimeout (d : Fin 2) (p : Fin 2)
  | syncLossTimeout (d : Fin 2)
  | ptpMasterSend (d : Fin 2) (p : Fin 2) (kind : PtpSend)
  | ptpTcForward (inPort : Fin 2)
  -- Node store, frame engine, forwarding
  | uplinkFrameProcess
  | groupClose (index : Fin 131072)
  | ageSweepVisit
  | dlInject
  | downlinkFrameProcess
  | nodeStatus (c : CmdRef)
  | nodeSearch (c : CmdRef)
  | nodeNext (c : CmdRef)
  | nodeFlushPort (c : CmdRef)
  | nodeAdd (c : CmdRef)
  | nodeSet (c : CmdRef)
  | nodeDelete (c : CmdRef)
  | fwdStatus (c : CmdRef)
  | fwdRouteAdd (c : CmdRef)
  | fwdRouteDel (c : CmdRef)
  | fwdRouteRead (c : CmdRef)
  | fwdNhSet (c : CmdRef)
  | fwdLookup (c : CmdRef)
  -- Trade
  | headExpire (q : Fin 4096)
  | tradePlan
  | gateListSwitch (l : Fin 16)
  | schStatus (c : CmdRef)
  | schShaperSet (c : CmdRef)
  | schGateListSet (c : CmdRef)
  | schPolicerSet (c : CmdRef)
  | schQueueSet (c : CmdRef)
  | schQueueFlush (c : CmdRef)
  | schQueueStatus (c : CmdRef)
  | schSelectSet (c : CmdRef)
  -- Ethernet and the pair
  | ethLinkUp (p : Fin 2) (speed : Fin 6) (rxInv : Bool)
  | ethLinkDown (p : Fin 2)
  | ethFrameReceive (p : Fin 2) (frame : Bytes) (fcsOk : Bool)
  | rtagRecoveryReset (st : Fin 16)
  | ethTxSubmit (p : Fin 2)
  | ethTxComplete (p : Fin 2)
  | pairLinkUp (t : PairTraining)
  | pairLinkDown
  | heartbeatSend (onLink : Bool)
  | heartbeatReceive (h : Heartbeat)
  | peerSilent
  | leaseExpiry
  | mergeDigestReceive (st : Fin 16) (key : Nat) (digest : Word)
  | watermarkSend
  | watermarkReceive (w : Nat)
  | seqSolo
  | resumeMessageReceive (w0 : Nat) (counters : List (BitVec 16))
  | mirrorReceive (descriptor : Bytes) (node : BitVec 64) (txCtr : Word) (digest : Word)
  | heldIngressExpire
  | takeoverVisitEnd
  | trimExchange (theta : Int)
  | trimStaleTimeout
  | drillStart
  | drillEnd
  | ethStatus (c : CmdRef)
  | ethPortSet (c : CmdRef)
  | ethHostSet (c : CmdRef)
  | ethRtagStatus (c : CmdRef)
  | pairStatus (c : CmdRef)
  | pairYield (c : CmdRef)
  | pairDrill (c : CmdRef)
  -- Security
  | cryptoOpComplete (c : CmdRef)
  | journalCommitDone
  | orphanSweepEnd
  | tamperSample (loop : Fin 2) (r : Nat)
  | drbgReseed
  | entropyHealthFail (code : Fin 4)
  | secStatus (c : CmdRef)
  | keyGenerate (c : CmdRef)
  | keyDerive (c : CmdRef)
  | keyImport (c : CmdRef)
  | keyExport (c : CmdRef)
  | keyInvalidate (c : CmdRef)
  | keyReclaim (c : CmdRef)
  | keyInfo (c : CmdRef)
  | keyAgree (c : CmdRef)
  | sign (c : CmdRef)
  | verify (c : CmdRef)
  | random (c : CmdRef)
  | attest (c : CmdRef)
  | publicRead (c : CmdRef)
  | tamperLogRead (c : CmdRef)
  | tamperClear (c : CmdRef)
  | tamperArm (c : CmdRef) (loopA loopB : List Nat)
  | lifecycleSet (c : CmdRef)
  | operatorKeySet (c : CmdRef)
  | certSet (c : CmdRef)
  | certRead (c : CmdRef)
  | debugSet (c : CmdRef)
  -- Firmware images
  | imageStatus (c : CmdRef)
  | imageBegin (c : CmdRef)
  | imageChunk (c : CmdRef)
  | imageFinish (c : CmdRef)
  | imageConfirm (c : CmdRef)
  | imageAbort (c : CmdRef)
  | imageSessionTimeout
  | confirmWindowExpiry
  | applicationImageLoaded
  -- Application cluster
  | apcStatus (c : CmdRef)
  | apcCoreStart (c : CmdRef)
  | apcCoreStop (c : CmdRef)
  | apcCoreStopTimeout (n : Fin 8)
  | gustTaskSet (c : CmdRef)
  | gustTaskStatus (c : CmdRef)
  | gustPost (c : CmdRef)
  | apcPerfRead (c : CmdRef)
  | apcSampleRead (c : CmdRef)
  | gnextRead (n : Fin 8)
  | gdoneWrite (n : Fin 8)
  | gpost (n : Fin 8) (task : Fin 4096) (arg : BitVec 64)
  | guserWrite (n : Fin 8) (value : BitVec 64)
  | boundQueuePost (q : Fin 24)
  | deferredPost (q : Fin 24)
  | taskLate (task : Fin 4096)
  | apcWatchdog (n : Fin 8)
  | coreFault (n : Fin 8) (cause : Fin 5)
  | eccError (n : Fin 8) (uncorrectedDirty : Bool) (line : BitVec 24)
  | loadUpdate
  | hpmCounterRead (n : Fin 8) (k : Fin 11) (mode : Fin 3) (mcen scen : Bool)
  | counterOverflow (n : Fin 8) (k : Fin 11)
  | msampleClear (n : Fin 8) (value : BitVec 64)
  | sampleRecordWrite (n : Fin 8) (t : SampleTag)
  | machineTimerPending (n : Fin 8)
  | mtimecmpLoWrite (who : Requester) (n : Fin 8) (value : Word)
  | mtimecmpHiWrite (who : Requester) (n : Fin 8) (value : Word)
  | mtimecmpLoRead (who : Requester) (n : Fin 8)
  -- Power and health
  | pwrStatus (c : CmdRef)
  | pwrStateSet (c : CmdRef) (fails : List (Fin 12 × Bool))
  | blockVote (block : Fin 18)
  | prepareTimeout (block : Fin 18)
  | powerCommit
  | statusInputPoll (value : Byte)
  | lullAutoEntry
  | lullAutoReturn (fails : List (Fin 12 × Bool))
  | rtcAlarm
  | wakeStageReady (refclk : Bool)
  | wakeStageTimeout
  | wakeBackoffEnd
  | rtcSet (c : CmdRef)
  | rtcAlarmSet (c : CmdRef)
  | padRelease (c : CmdRef)
  | lullRead (c : CmdRef)
  | ageCheck (c : CmdRef) (index : Nat)
  | canaryMeasure (margin : Int) (failed : Bool)
  | readVoutCheck (mv : Nat) (failed : Bool)
  | statusWordPoll (value : BitVec 16) (failed : Bool)
  | pmbusRetry (ok : Bool)
  | ageingCheck (index : Nat)
  | thermalSample (readings : List Int)
  | thermalShutdown (reading : Int)
  | thermalRestart (reading : Int)
  | railSample (mv : List Nat)
  | brownOut (vsram : Bool)
  -- Rewind
  | rwdPageStart (words : List Word)
  | captureGap (lost : Nat)
  | markOvertaken (k : Fin 16)
  | rwdTrigger (src : Option (Fin 128))
  | rwdPostFreeze
  | rwdStatus (c : CmdRef)
  | rwdArm (c : CmdRef)
  | rwdFreeze (c : CmdRef)
  | rwdMark (c : CmdRef)
  | rwdRead (c : CmdRef)
  | rwdWrite (c : CmdRef)
  | rwdReplay (c : CmdRef)
  | rwdReplayBegin
  | rwdReplayEnd
  | rwdReplayStop (c : CmdRef)
  | rwdSetupRead (c : CmdRef)
  -- Further events
  | registerWrite (who : Requester) (addr : BitVec 24) (value : Word)
  | leaseGuardTakeover
  | pairLaneLockChange (lane : Fin 2) (up : Bool)
  | pauseTimeExpiry (p : Fin 2)
  | rtcCrystalFallback
  | entropySamplesPass
  | coreWfi (n : Fin 8)
  | wakeAfterEntry
  | vaonLoss
deriving DecidableEq, Repr

end Sys2Proof
end

