-- ==== Sys2Proof/Decode.lean ====
section
/-! DEFINITION. Words to commands. The table of operations and events gives no row any bits: a command comes from outside
the part, or from its own sequencers, with the operands that Syntax.lean names, and no word spells one. -/

namespace Sys2Proof

/-- The command that a word spells: none, since no row of the table has bits. -/
def decodeTableWord (_nbits _w : Nat) : Option Instr := none

end Sys2Proof
end

