-- ==== Sys2Proof/Machine/Bits.lean ====
section
/-! DEFINITION. Byte, bit-field and number helpers: little-endian fields (R5), bit fields (R4), two's complement,
serial-number order (R11), and the check codes that the specification gives in full (R49, R96, R186). -/

namespace Sys2Proof.Machine

/-- Value of a little-endian byte string (R5). -/
def leNat : Bytes → Nat
  | [] => 0
  | b :: bs => b.toNat + 256 * leNat bs

/-- The `n`-byte little-endian field at byte `off`; bytes past the end of the string read as zero. -/
def rd (bs : Bytes) (off n : Nat) : Nat := leNat ((bs.drop off).take n)

/-- `n` bytes, little-endian (R5). -/
def wr : Nat → Nat → Bytes
  | 0, _ => []
  | n + 1, v => BitVec.ofNat 8 v :: wr n (v / 256)

/-- `n` zero bytes. -/
def zeros (n : Nat) : Bytes := List.replicate n 0

/-- Bits `lo + w - 1 … lo` (R4). -/
def fld (v lo w : Nat) : Nat := v / 2 ^ lo % 2 ^ w

/-- A flag as a one-bit number. -/
def b2n (b : Bool) : Nat := if b then 1 else 0

/-- Word made of fields (lowest bit, width, value). -/
def pack : List (Nat × Nat × Nat) → Nat
  | [] => 0
  | (lo, w, v) :: fs => (v % 2 ^ w) * 2 ^ lo + pack fs

/-- Replaces bits `lo + w - 1 … lo` by `x`. -/
def setFld (v lo w x : Nat) : Nat := v - fld v lo w * 2 ^ lo + (x % 2 ^ w) * 2 ^ lo

/-- Two's complement value of a `w`-bit field. -/
def toS (w v : Nat) : Int := if v % 2 ^ w < 2 ^ (w - 1) then (v % 2 ^ w : Nat) else ((v % 2 ^ w : Nat) : Int) - (2 ^ w : Nat)

/-- `w`-bit two's complement code of an integer. -/
def ofS (w : Nat) (i : Int) : Nat := (i % (2 ^ w : Nat)).toNat

/-- Counter that saturates at `m`. -/
def satAdd (m a b : Nat) : Nat := min m (a + b)

/-- `lo ≤ x ≤ hi`. -/
def within (lo hi x : Nat) : Bool := decide (lo ≤ x ∧ x ≤ hi)

/-- Nearest value in `lo … hi`. -/
def clampN (lo hi x : Nat) : Nat := max lo (min hi x)

/-- Nearest value in `lo … hi`, signed. -/
def clampI (lo hi x : Int) : Int := max lo (min hi x)

/-- R11: `a` is later than `b` in a serial-number space of `bits` bits. -/
def later (bits a b : Nat) : Bool :=
  let d := (a + 2 ^ bits - b % 2 ^ bits) % 2 ^ bits
  decide (1 ≤ d ∧ d < 2 ^ (bits - 1))

/-- One bit of a reflected shift register with polynomial `poly`. -/
def crcBitR (poly c : Nat) : Nat := if c % 2 = 1 then (c / 2) ^^^ poly else c / 2

/-- One byte of a reflected check code. -/
def crcByteR (poly c : Nat) (b : Byte) : Nat := Nat.repeat (crcBitR poly) 8 (c ^^^ b.toNat)

/-- CRC-32C (R49): polynomial 0x1EDC_6F41 reflected, initial value and final XOR all ones. -/
def crc32c (bs : Bytes) : Nat := (bs.foldl (crcByteR 0x82F63B78) 0xFFFFFFFF) ^^^ 0xFFFFFFFF

/-- CRC-16 of R186: polynomial 0x1021 reflected, initial value 0. -/
def crc16 (bs : Bytes) : Nat := bs.foldl (crcByteR 0x8408) 0

/-- One bit of CRC-8. -/
def crc8Bit (c : Nat) : Nat := if 128 ≤ c then ((2 * c) ^^^ 0x07) % 256 else 2 * c

/-- CRC-8 (R96, R183): polynomial 0x07, initial value 0, not reflected. -/
def crc8 (bs : Bytes) : Nat := bs.foldl (fun c b => Nat.repeat crc8Bit 8 (c ^^^ b.toNat)) 0

/-- A byte string as little-endian words (R57); a last partial word is filled with zeros. -/
def toWords : Nat → Bytes → List Word
  | 0, _ => []
  | n + 1, bs => if bs.isEmpty then [] else BitVec.ofNat 32 (rd bs 0 4) :: toWords n (bs.drop 4)

/-- Words of a byte string (R57). -/
def wordsOf (bs : Bytes) : List Word := toWords bs.length bs

/-- Bytes of a word list (R57). -/
def bytesOf (ws : List Word) : Bytes := ws.flatMap fun w => wr 4 w.toNat

/-- Pads a byte string with zeros up to a multiple of four (R48). -/
def pad4 (bs : Bytes) : Bytes := bs ++ zeros ((4 - bs.length % 4) % 4)

/-- A byte of a number. -/
def byte (v : Nat) : Byte := BitVec.ofNat 8 v

/-- A 32-bit word of a number. -/
def w32 (v : Nat) : Word := BitVec.ofNat 32 v

/-- Bit `i` of a number as a flag. -/
def bitOf (v i : Nat) : Bool := v.testBit i

/-- Bitwise complement within `w` bits. -/
def notN (w v : Nat) : Nat := (2 ^ w - 1) ^^^ (v % 2 ^ w)

/-- Sum of a list. -/
def sumN (l : List Nat) : Nat := l.foldl (· + ·) 0

end Sys2Proof.Machine
end

