-- ==== Sys2Proof/Config.lean ====
section
/-! DEFINITION. What the specification leaves to the part or to a standard that it only names: constants with no
body, so that no proof can see what they are. -/

namespace Sys2Proof

/-- A value that the specification leaves open, fresh for each counter value (DESIGN CHOICE, assumption 3). -/
opaque Config.free : Nat → BitVec 64

/-- Device serial, fixed at manufacture (Table 18.4, "Fuse"). -/
opaque Config.serial : BitVec 64

/-- SHA-512 (FIPS 180-4), as the specification names it. -/
opaque Config.sha512 : Bytes → Bytes

/-- clockIdentity of the part's PTP instances (IEEE 1588). -/
opaque Config.clockId : Nat → BitVec 64

/-- Correction of a level by calibration section 0x07, whose layout the specification does not give: its body and the
channel, to 0.1 dB (R164, R223). -/
opaque Config.levelCorr : Bytes → Nat → Int

/-- The body of calibration section 0x06, whose layout the specification does not give, for the delays in ps: D_TX by
4 × port + carrier, then tau, obs_cable and the receive delay by port, G_B by 4 × port + carrier, D_BALL by carrier (R219, R240 to R243). -/
opaque Config.delayBody : List Int → Bytes

/-- The delay at a place of that list which a body of section 0x06 holds. -/
opaque Config.delayOf : Bytes → Nat → Int

/-- What calibration section 0x04, whose layout the specification does not give, adds to the roll-off of Table 4.1 at a
frequency in 100 kHz units, 0.1 dB (R230). -/
opaque Config.rollFix : Bytes → Nat → Int

/-- The starting weights of Eddy's analog stage that calibration section 0x05, whose layout the specification does not give,
holds: bulk delay and taps (R247). -/
opaque Config.eddyStart : Bytes → Nat × List Int

/-- Built-in nominal values of a calibration section, which the specification does not give (R108). -/
opaque Config.calNominal : Nat → Bytes

/-- What the FEC decoder of a code chooses for a received word that is no code word, which the specification does not state
(R185, R197): 0 the code of R188; 1 + FEC_SCHEME + 2 × FEC_INTERLEAVE a SUN FEC. -/
opaque Config.fecDecode : Nat → List Bool → List Bool

/-- The stored bins of a symbol (R213), as bin and complex value, after the predicted contribution of a source has been
removed (true) or added back (false): the source's symbol as direction and shift, its K and the receiver's K, carrier offset
between them in Hz, and time between the two symbols' begins in 2⁻¹⁶ ns. The specification names the reconstruction and does
not give it (R212, R213). -/
opaque Config.sicAdjust :
  Bool → Bool × Nat → Nat → Nat → Int → Int → List (Nat × Int × Int) → List (Nat × Int × Int)

/-- Instructions that a core has retired by an instant: the programs are not the block's (Table 15.7; DESIGN CHOICE,
assumption 49). -/
opaque Config.retired : Nat → Nat → BitVec 64

/-! ## Cryptography of the standards that the specification names (FIPS 186-5, SP 800-38D, RFC 5869, IEEE 802.15.4) -/

/-- HKDF-SHA-512: input key material, salt, info, output length. -/
opaque Config.hkdf : Bytes → Bytes → Bytes → Nat → Bytes

/-- HMAC-SHA-512: key, text. -/
opaque Config.hmac : Bytes → Bytes → Bytes

/-- Salt of KEY_DERIVE, which the specification does not state (Table 13.13). -/
opaque Config.deriveSalt : Bytes

/-- P-521: public point of a scalar, membership of a point, ECDH, ECDSA signing (scalar, digest, random value) and
verification (point, digest, signature). -/
opaque Config.p521Pub : Bytes → Bytes
opaque Config.p521On : Bytes → Bool
opaque Config.p521Ecdh : Bytes → Bytes → Bytes
opaque Config.p521Sign : Bytes → Bytes → BitVec 64 → Bytes
opaque Config.p521Verify : Bytes → Bytes → Bytes → Bool

/-- AES-GCM: key, IV, additional data, text; and, to open, tag. -/
opaque Config.gcmSeal : Bytes → Bytes → Bytes → Bytes → Bytes × Bytes
opaque Config.gcmOpen : Bytes → Bytes → Bytes → Bytes → Bytes → Option Bytes

/-- CCM*: key, nonce, additional data, text, and MIC length or MIC. -/
opaque Config.ccmSeal : Bytes → Bytes → Bytes → Bytes → Nat → Bytes
opaque Config.ccmOpen : Bytes → Bytes → Bytes → Bytes → Bytes → Option Bytes

/-- Vendor image key of the boot ROM (R404). -/
opaque Config.vendorKey : Bytes

/-- Whether a sealed body opens in BLANK before the first root exists, which the specification leaves open (R366, R407). -/
opaque Config.keylessOpen : Bytes → Bool

/-- Use attribute of the public agreement key 0x0_0028, which the specification does not state (Table 13.1). -/
opaque Config.agreeAttr : BitVec 2

/-- Which of the forms that RFC 6282 admits the frame engine gives part `k` of a header: 0 traffic class and flow label, 1 hop limit, 2
source, 3 destination, 4 UDP ports (R295; DESIGN CHOICE, assumption 56). -/
opaque Config.iphcForm : Nat → Nat

/-- Fields of the outer headers of a packet that the device builds, which the specification does not state: 0 UDP source
port, 1 hop limit, 2 flow label, 3 traffic class where no policer sets it (R302, R348; DESIGN CHOICE, assumption 32). -/
opaque Config.outer : Nat → Nat

/-- Fields of the PTP messages and carriers that the device sends, which neither the specification nor IEEE 1588 fixes: 0 traffic class or
type of service, 1 hop limit or time to live, 2 currentUtcOffset, 3 timeSource, 4 and 5 IPv4 address of port 0 and 1, 6 flow
label (R271; DESIGN CHOICE, assumption 112). -/
opaque Config.ptpOpen : Nat → Nat

/-- Extended address of a unit with PAIR_MODE = 0, which the specification does not state (R359; DESIGN CHOICE, assumption 34). -/
opaque Config.ownEui : BitVec 64

/-- Octets of the MAC header of a downlink data frame up to its auxiliary security header, in a form that IEEE 802.15.4
allows (frame version, PAN identifiers and AR are not stated): sequence number, destination, source (DESIGN CHOICE, assumption 34). -/
opaque Config.macHead : Nat → Bytes → Bytes → Bytes

/-- Configuration digest of a unit of a pair over the settings that R360 names; the specification does not give the
function (DESIGN CHOICE, assumption 46). -/
opaque Config.pairDigest : List Nat → BitVec 32

end Sys2Proof
end

