-- ==== Sys2Proof/Machine/Tab.lean ====
section
/-! DEFINITION. Arrays of like things (registers, queues, contexts, entries), held as plain data: the value that every
index holds at reset, and the indices that have been written since, in rising order. -/

namespace Sys2Proof.Machine

/-- An array: `dflt` at every index that `ents` does not name. -/
structure Tab (α : Type) where
  dflt : α
  ents : List (Nat × α)
deriving DecidableEq, Repr

/-- The array that holds `d` everywhere. -/
def Tab.const {α : Type} (d : α) : Tab α := ⟨d, []⟩

/-- First value that a list of pairs gives an index. -/
def lookupIn {α : Type} : List (Nat × α) → Nat → Option α
  | [], _ => none
  | (k, v) :: es, i => if k = i then some v else lookupIn es i

/-- Writes a value in a list of pairs with rising indices. -/
def insertIn {α : Type} : List (Nat × α) → Nat → α → List (Nat × α)
  | [], i, v => [(i, v)]
  | (k, x) :: es, i, v =>
    if i < k then (i, v) :: (k, x) :: es
    else if i = k then (i, v) :: es
    else (k, x) :: insertIn es i v

/-- Value at an index. -/
def Tab.get {α : Type} (t : Tab α) (i : Nat) : α := (lookupIn t.ents i).getD t.dflt

/-- Writes one index. -/
def Tab.set {α : Type} (t : Tab α) (i : Nat) (v : α) : Tab α := { t with ents := insertIn t.ents i v }

/-- Changes one index. -/
def Tab.upd {α : Type} (t : Tab α) (i : Nat) (f : α → α) : Tab α := t.set i (f (t.get i))

/-- Removes what was written at an index. -/
def Tab.clr {α : Type} (t : Tab α) (i : Nat) : Tab α := { t with ents := t.ents.filter fun e => e.1 ≠ i }

/-- Changes every index of `0 … n - 1`. -/
def Tab.updAll {α : Type} (t : Tab α) (n : Nat) (f : Nat → α → α) : Tab α :=
  (List.range n).foldl (fun t i => t.upd i (f i)) t

/-- Changes every written index. -/
def Tab.mapEnts {α : Type} (t : Tab α) (f : Nat → α → α) : Tab α :=
  { t with ents := t.ents.map fun e => (e.1, f e.1 e.2) }

end Sys2Proof.Machine
end

