-- ==== Sys2Proof/Machine/State.lean ====
section
/-! DEFINITION. The state of the part: every register, queue, buffer, counter, mode and pin that the specification
gives it, as plain data, grouped by subsystem (Table 1.1); the reasons a step can stop; the state after reset.
Numbers that the specification counts are natural numbers; words that software sees as bits are bit vectors. -/

namespace Sys2Proof.Machine

/-! ## Draught queues (R22 to R41) -/

/-- TAG of an item that stands in a queue (Table 1.5); IDLE is only returned, never stored. -/
inductive Tag where
  | data | abort | mark
deriving DecidableEq, Repr

/-- One whole packet, ABORT item or MARK item, standing in a bank in END order. `ref`: on an ABORT item, the reference of
the discarded packet where its chapter puts it into the packet's fourth word (REF, R297); `no`: its number in END order. -/
structure Pkt where
  kind : Tag
  pri : BitVec 3
  stream : Byte
  cause : BitVec 2
  words : List Word
  ref : Word
  no : Nat
deriving DecidableEq, Repr

/-- The packet a producer has open. `first`: it began at its bank's first word (R31, R532). -/
structure OpenPkt where
  pri : BitVec 3
  stream : Byte
  first : Bool
  words : List Word
deriving DecidableEq, Repr

/-- The packet a consumer has under read: the words still to come, and its first word (R34). -/
structure UnderRead where
  pkt : Pkt
  rest : List Word
deriving DecidableEq, Repr

/-- One Draught queue. -/
structure Dq where
  /-- EN (Table 1.7). -/
  en : Bool
  /-- BANK_LOG2 (Table 1.7). -/
  bankLog2 : Nat
  /-- A flush runs: credit withheld, reads return IDLE (R36). -/
  flushing : Bool
  /-- The draining bank's whole packets, in END order. -/
  drain : List Pkt
  /-- The filling bank's whole packets, in END order. -/
  fill : List Pkt
  /-- The packet that the producer has open (R26), and the packet under read (R29). -/
  opn : Option OpenPkt
  under : Option UnderRead
  /-- The producer's words are discarded up to its END (R31, R33). -/
  skip : Bool
  /-- The rest of a packet already lost is lost up to its END (R27). -/
  loseRest : Bool
  /-- Words lost since the last MARK item, and the PRI and STREAM of the first (R27). -/
  lost : Nat
  lostPri : BitVec 3
  lostStream : Byte
  /-- NOCRED, TRUNC, OVERRUN (Table 1.8). -/
  noCred : Bool
  trunc : Bool
  overrun : Bool
  /-- Overrun and truncation counters (R27, R31). -/
  overruns : Nat
  truncs : Nat
  /-- Side fields that software holds for a producer queue (Table 1.9). -/
  sideEnd : Bool
  sideTag : BitVec 2
  sidePri : BitVec 3
  sideStream : Byte
  /-- Items that the block consumer has read and not yet worked on. -/
  hand : List Pkt
  /-- Packets of a self-timed block producer whose words wait for credit; the first may be partly written (R27). -/
  wait : List Pkt
  /-- Whole packets that have entered and of which Gust has not been told (R428, R432). -/
  fresh : Nat
  /-- Number of the next packet or item in END order. -/
  nextNo : Nat
  /-- Completions of ABORT items by a block consumer that has no completion item of its own: reference and status, in the
  items' order (R35). -/
  aborts : List (Word × Nat)
deriving DecidableEq, Repr

/-! ## Ubfen protocol (R47 to R81) -/

/-- An admitted command (R60, R61). -/
structure Cmd where
  tr : Nat
  cls : Nat
  tag : Byte
  seq : Word
  opcode : Nat
  flags : Byte
  status : Nat
  outst : Nat
  params : Bytes
  /-- Where its reply goes: source MAC and VLAN tag bytes of a management frame (R56); empty otherwise. -/
  back : Bytes
  /-- Admission order over all transports, and instant of the admission. -/
  no : Nat
  admittedAt : Nat
  /-- Instant of its start. -/
  startedAt : Option Nat
  accepted : Bool
  /-- Its completion: status, result, and how many raises had been made before it (R66). -/
  done : Option (Nat × Bytes × Nat)
  /-- Scratch of a command that runs over several steps (REG_POLL: last value read, R77). -/
  work : Nat
deriving DecidableEq, Repr

/-- A stream (transport, class): the SEQUENCE expected next (R62) and the newest 16 replies (R63). -/
structure Stream where
  expect : Option Word
  kept : List (Word × Bytes)
  /-- Acceptance points of the last 10 ms in the stream: admission number and instant (R64). -/
  accepts : List (Nat × Nat)
deriving DecidableEq, Repr

/-- SYS_RESET that has been accepted and waits for its delay and its reply (R80). -/
structure ResetWait where
  kind : Nat
  /-- Its admission number, by which its reply is known. -/
  no : Nat
  /-- End of its delay. -/
  due : Nat
deriving DecidableEq, Repr

/-- Command executive and transports. -/
structure Ubfen where
  /-- Admitted commands whose reply has not been sent, in admission order. -/
  cmds : List Cmd
  admitted : Nat
  streams : Tab Stream
  /-- Rejects per transport since its last EV_CMD_REJECT, and the instant of that record (Table 2.13, EV 5). -/
  rejects : Tab (Nat × Option Nat)
  /-- Completions of the last 10 ms on each transport: admission number and instant (FENCE, Table 2.2, R64). -/
  doneAt : Tab (List (Nat × Nat))
  /-- SPI reply queue: packets waiting, oldest first, each with the admission number of the command that it answers
  (none: a push or a reject) and the instant at which it became ready (R54, R80). -/
  spiOut : List (Bytes × Option Nat × Nat)
  /-- Bytes that the last SPI read transaction clocked out. -/
  spiRead : Bytes
  /-- OVERRUN and SHORT (Table 2.5). -/
  spiOverrun : Bool
  spiShort : Bool
  /-- READY (Table 2.5). -/
  ready : Bool
  resetWait : Option ResetWait
  /-- Values returned to whoever reads a register: 0 the executive, 1 + n core n. -/
  loads : Tab Word
deriving DecidableEq, Repr

/-! ## Events (R69 to R75) -/

/-- A raise on its way to the executive. -/
structure Raise where
  src : Nat
  payload : Nat
  stamp : Word
  unlocked : Bool
  no : Nat
deriving DecidableEq, Repr

/-- A record of the ring (Table 2.11). -/
structure EvRec where
  src : Nat
  level : Nat
  unlocked : Bool
  injected : Bool
  seq : Nat
  stamp : Word
  payload : Nat
  /-- Neither read nor pushed. -/
  unread : Bool
  /-- Instant of its writing. -/
  at_ : Nat
deriving DecidableEq, Repr

/-- Event ring, event registers and push settings. -/
structure Ev where
  /-- Raises that have not reached the executive, oldest first. -/
  raised : List Raise
  raiseNo : Nat
  ring : List EvRec
  seq : Nat
  lost : Nat
  /-- An EV_RING_OVERFLOW record is due (R71). -/
  overflow : Bool
  ringEn : BitVec 128
  pin0En : BitVec 128
  pin1En : BitVec 128
  pend : BitVec 128
  pushTr : Nat
  pushCount : Nat
  pushHold : Nat
  pushLevel : Nat
  pushSeq : Nat
  /-- Records lost since the previous push (Table 2.1). -/
  pushLost : Nat
  /-- Raises of sources whose TRIG_EN is 1, on their way to Rewind, oldest first (R486). -/
  trigs : List Nat
  /-- Instant of the newest record of a rate-limited source (key: 65,536 × source + index). -/
  limits : List (Nat × Nat)
deriving DecidableEq, Repr

/-! ## Boot (R83 to R94) -/

/-- What the device waits for while no boot step runs. -/
inductive BootWait where
  /-- A boot step runs, or the boot has ended. -/
  | none
  /-- VAON is down. -/
  | vaon
  /-- RESETn is low. -/
  | resetn
  /-- The boot sequencer of PD0 runs the wake stages (R462). -/
  | wake
  /-- Calm (R455). -/
  | calm
  /-- Thermal shutdown (R473). -/
  | thermal
  /-- Brown-out (R474). -/
  | brownOut
  /-- Tamper-Hold entered before step 2's image load (R92). -/
  | tamperRom
  /-- Tamper-Hold entered with the executive running (R92). -/
  | tamperExec
  /-- Recovery (R93). -/
  | recovery
  /-- CFG_COMMIT (R103). -/
  | commit
deriving DecidableEq, Repr

structure Boot where
  cause : Nat
  stage : Nat
  cfgHold : Bool
  solo : Bool
  slotB : Bool
  committed : Bool
  service : Bool
  tamperHold : Bool
  recovery : Bool
  unlockedOpen : Bool
  openUs : Nat
  /-- Instant of boot start (R85). -/
  start : Nat
  /-- Boot step in progress, 1 to 9; 0 none. -/
  step : Nat
  wait : BootWait
  /-- Instant at which the step in progress began. -/
  stepStart : Nat
  /-- Stored records have been loaded (R86). -/
  loaded : Bool
  /-- Instant of the first Announce received before service opens (R88). -/
  announceAt : Option Nat
  /-- Instant at which the pair SerDes was released (R89). -/
  serdesAt : Nat
  /-- Sources and payloads raised before the ring exists (R85). -/
  early : List (Nat × Nat)
deriving DecidableEq, Repr

/-! ## Configuration records and calibration set (R95 to R110) -/

/-- The stored copy of a record type: entries as read back, with whether CHECK holds; `hcrcOk` and COUNT. -/
structure StoredRec where
  format : Nat
  count : Nat
  hcrcOk : Bool
  entries : List (Nat × Nat × Bool)
deriving DecidableEq, Repr

/-- A report entry (Table 3.8). -/
structure RepEntry where
  type : Nat
  id : Nat
  requested : Nat
  applied : Nat
  reason : Nat
deriving DecidableEq, Repr

structure Report where
  no : Nat
  total : Nat
  status : Nat
  entries : List RepEntry
deriving DecidableEq, Repr

structure Cfg where
  /-- Running value of each field: key 65,536 × TYPE + ID; a field not named runs at its default. -/
  run : List (Nat × Nat)
  /-- Start-up fields, STAMP_DOMAIN and AUTO_ARM in force at this boot (R103, Table 9.8): keyed as `run`. -/
  atBoot : List (Nat × Nat)
  stored : Tab (Option StoredRec)
  /-- GENERATION of the newest stored copy of each type, erased or not (R96). -/
  gens : Tab Nat
  reports : List Report
  reportNo : Nat
deriving DecidableEq, Repr

/-- A section of the calibration set (R107, R108). -/
structure CalSection where
  source : Nat
  gen : Nat
  body : Bytes
  crcOk : Bool
deriving DecidableEq, Repr

structure Cal where
  sections : Tab CalSection
  /-- A section write in staging whose commit mark is set, not yet in place (R108). -/
  staged : Option (Nat × CalSection)
  /-- Sections in use at nominal values since their CRC failed at boot (R108). -/
  nominal : List Nat
  /-- Registers that keep the results of run-time calibrations, by section (R107). -/
  running : Tab (Option Bytes)
deriving DecidableEq, Repr

/-! ## Identity, system and memory registers (R508 to R512) -/

structure Sys where
  /-- Device serial (fuse). -/
  serial : BitVec 64
  /-- SYS_MODE.LC, as loaded from the locked region, and the debug test root of MODE 2 (R368, R508). -/
  lc : Nat
  debugRoot : Bool
  /-- SYS_LOCK_VIOL: COUNT and ADDR; instant of the newest EV_LOCK_VIOL (R509). -/
  lockCount : Nat
  lockAddr : Nat
  lockAt : Option Nat
  scratch : Tab Word
  /-- SYS_VERt: version of the running image of TYPE t. -/
  ver : Tab Word
  /-- FRM_GRPKEYn: HANDLE and KEY_INDEX. -/
  grpHandle : Tab Nat
  grpIndex : Tab Nat
  /-- FWD_NHn: PORTS, VID, TAGGED, MAC octets (octet 0 first). -/
  nhPorts : Tab Nat
  nhVid : Tab Nat
  nhTagged : Tab Bool
  nhMac : Tab Bytes
  /-- MEM_FLASH_STAT: SIZE_LOG2, OCTAL, FOUND. -/
  flashLog2 : Nat
  flashOctal : Bool
  flashFound : Bool
  /-- MEM_MRAM_STAT. -/
  mramCorr : Nat
  mramUncorr : Nat
  /-- MEM_DRAM_STAT: SIZE, TRAINED, SELF_REFRESH, RATE. -/
  dramSize : Nat
  dramTrained : Bool
  dramSelfRefresh : Bool
  dramRate : Nat
deriving DecidableEq, Repr

/-! ## Time unit (R255 to R278) -/

/-- A data set of IEEE 1588 as an Announce carries it: priorities, clock quality, grandmaster, stepsRemoved, and the port that
sent it (R271). -/
structure Announce where
  prio1 : Nat
  cls : Nat
  acc : Nat
  var : Nat
  prio2 : Nat
  gm : BitVec 64
  steps : Nat
  sender : BitVec 64
  senderPort : Nat
deriving DecidableEq, Repr

/-- A Sync received from the master: sequence, port, MII stamp in the instance's domain, correctionField so far, and the
origin time once it is known (one-step, or the Follow_Up of two-step); 2⁻¹⁶ ns (R268, R271). -/
structure SyncIn where
  seq : Nat
  port : Nat
  stamp : Int
  corr : Int
  origin : Option Int
deriving DecidableEq, Repr

/-- A two-step Pdelay_Resp that waits for its Follow_Up: sequence, MII stamp, the responder's receipt time, correctionField. -/
structure RespIn where
  seq : Nat
  stamp : Int
  receipt : Int
  corr : Int
deriving DecidableEq, Repr

/-- The built-in servo and PTP instance of a domain (R261 to R265, R271). -/
structure Servo where
  /-- Consecutive samples within LOCK_THRESH, over 4 × LOCK_THRESH, over JUMP_THRESH. -/
  inLock : Nat
  over4 : Nat
  overJump : Nat
  /-- Since when every offset has agreed within LOCK_THRESH, and with which offset (R265). -/
  holdSince : Option (Nat × Int)
  /-- Latest offset and meanPathDelay, ns; Sync samples since lock; whether a sample was ever taken. -/
  offset : Int
  delay : Int
  syncs : Nat
  sampled : Bool
  lastSync : Nat
  /-- Frequency estimate of the master, 2⁻³² ns per tick (R265). -/
  freq : Nat
  /-- Selected grandmaster (none: not selected), stepsRemoved, and the port it is heard on. -/
  gm : Option (BitVec 64)
  stepsRemoved : Nat
  gmPort : Nat
  /-- Instant of the latest Announce taken on each port; none when no qualified master. -/
  announce : Tab (Option Nat)
  /-- The Announce that waits for the BMCA on each port, and the master that each port hears. -/
  heard : Tab (Option Announce)
  foreign : Tab (Option Announce)
  /-- The Sync that the next sample takes, and t4 − t3 of the newest Delay_Req exchange, 2⁻¹⁶ ns. -/
  sync : Option SyncIn
  ms : Option Int
  /-- The newest Delay_Req or Pdelay_Req of each port: sequence, and its MII stamp once it has left. -/
  req : Tab (Nat × Option Int)
  /-- Two-step Pdelay_Resp under way, and meanPathDelay of the link, per port, 2⁻¹⁶ ns. -/
  resp : Tab (Option RespIn)
  linkDelay : Tab Int
  /-- MII stamp of the Pdelay_Req that each port answers. -/
  turn : Tab (Option Int)
  /-- When each kind of message last went out (4 × port + kind: 0 delay, 1 Sync, 2 Announce), and its next sequenceId. -/
  sentAt : Tab (Option Nat)
  seqs : Tab Nat
deriving DecidableEq, Repr

/-- One time domain (R255). -/
structure TimeDom where
  /-- SEC, NS and FR together, in units of 2⁻³² ns. -/
  t : Nat
  /-- INC in force, and the base increment (R262), in units of 2⁻³² ns. -/
  inc : Nat
  base : Nat
  /-- End of the temporary increment in force (instant). -/
  tempEnd : Option Nat
  /-- Table 9.1. -/
  st : Nat
  epoch : Nat
  steps : Nat
  stepHeld : Bool
  servo : Servo
deriving DecidableEq, Repr

/-- An alarm unit (R275): AT and PERIOD in ns. -/
structure Alarm where
  en : Bool
  dom : Nat
  at_ : Nat
  period : Nat
deriving DecidableEq, Repr

/-- A beacon slot (R273). `t` in ns, `period` in ms, `k` the next index. -/
structure Beacon where
  en : Bool
  desc : Bytes
  psdu : Bytes
  offset : Nat
  period : Nat
  k : Nat
  sent : Nat
  skipped : Nat
  suppressed : Nat
deriving DecidableEq, Repr

/-- A domain switch that waits for its tick (R266). -/
structure SwitchWait where
  target : Nat
  at_ : Nat
  tr : Nat
  tag : Byte
deriving DecidableEq, Repr

structure TimeSt where
  td0 : TimeDom
  td1 : TimeDom
  stampDom : Nat
  switch : Option SwitchWait
  /-- Δ of the last switch, 2⁻³² ns (R266), the domain before it, and its instant. -/
  delta : Int
  prevDom : Nat
  switchAt : Nat
  alarms : Tab Alarm
  beacons : Tab Beacon
  /-- PTP counters: 8 × port + index (Table 9.9). -/
  ptp : Tab Nat
  /-- Nanosecond word's wraps already reported: the upper word of N at the last EV_TIME_WRAP. -/
  wraps : Nat
  /-- Event messages that the transparent clock holds, per ingress port, each with its MII stamp in TC_DOMAIN (2⁻¹⁶ ns), and
  the message that it last sent on: port and correctionField, 2⁻¹⁶ ns (R272). -/
  tcIn : Tab (List (Bytes × Int))
  tcOut : Option (Nat × Int)
deriving DecidableEq, Repr

/-! ## Power and health (R448 to R477) -/

/-- What PD0 holds through the resets of Table 3.1. -/
structure Pd0 where
  /-- RTC seconds and sub-seconds, in ns; its source is the RC oscillator (R522). -/
  rtc : Nat
  rtcRc : Bool
  alarmSec : Nat
  alarmEn : Bool
  /-- The alarm has fallen since it was set, or was set in the past. -/
  alarmDone : Bool
  /-- An RTC alarm fell during entry and is held (R455). -/
  alarmHeld : Bool
  /-- Pad latches, bit k for PDk (R465). -/
  latch : Nat
  /-- SYS_WAKE_CAUSE (Table 16.10). -/
  wakeSource : Nat
  wakeStage : Nat
  attempts : Nat
  calmFault : Bool
  prevState : Nat
  inEntry : Bool
  /-- Stage and attempts of the failed start that led to Calm-Fault (R464). -/
  failStage : Nat
  failAttempts : Nat
  /-- Mirror of each domain's EPOCH (R257). -/
  epoch0 : Nat
  epoch1 : Nat
  /-- Squall alarm latch and tamper log: 16-byte entries (Table 13.9), OVERFLOW, count (R390). -/
  tampLatch : Bool
  tampLog : List Bytes
  tampOver : Bool
  tampCount : Nat
deriving DecidableEq, Repr

/-- A power-state transition (R450). -/
structure Trans where
  target : Nat
  force : Bool
  /-- Domains that go down, bit k for PDk. -/
  down : Nat
  /-- Domains that are to be on afterwards. -/
  onAfter : Nat
  /-- Cores, ports and pair link named off. -/
  coresOff : Nat
  portsOff : Nat
  band : Nat
  retain : Bool
  /-- The command that asked for it; none for an automatic entry. -/
  cmd : Option CmdRef
  /-- Its admission number, by which its reply is known. -/
  cmdNo : Nat
  /-- Blocks that have voted yes. -/
  yes : List Nat
  startedAt : Nat
  /-- All votes are yes and the completion has been made (step 3 of Table 16.2). -/
  voted : Bool
deriving DecidableEq, Repr

/-- A supply rail (R474): MV, LOW, HIGH. -/
structure Rail where
  mv : Nat
  low : Bool
  high : Bool
deriving DecidableEq, Repr

structure Pwr where
  /-- Power state (Table 16.1) and PHASE (Table 16.8). -/
  state : Nat
  phase : Nat
  /-- Domains that are on, bit k for PDk. -/
  domOn : Nat
  trans : Option Trans
  dramLost : Bool
  pmbusFault : Bool
  atCeiling : Bool
  ageValid : Bool
  vcore : Nat
  margin : Int
  index : Nat
  junction : Int
  rails : Tab Rail
  /-- Lull buffer: descriptor words and frame per record; bytes in use follow from it (R459). -/
  lull : List (List Word × Bytes)
  lullLost : Nat
  /-- State and domains held before Lull, for the automatic return (R457). -/
  before : Option (Nat × Nat × Nat × Nat)
  /-- STATUS_INPUT bit 5: its value and since when. -/
  uv : Bool
  uvSince : Nat
  autoLull : Bool
  /-- Voltage loop (R467 to R469): running; failed transactions in a row; ms in a row above target; last reported. -/
  loopOn : Bool
  fails : Nat
  above : Nat
  avsRef : Nat
  /-- Command whose VOUT is to be checked (R468). -/
  voutCheck : Option Nat
  /-- Instants before which the monitors take no further sample: 0 canaries, 1 READ_VOUT, 2 STATUS_WORD, 3 junction,
  4 rails, 5 STATUS_INPUT (R457, R467, R468, R473, R474). -/
  due : Tab Nat
  /-- Thermal: above THERM_WARN, above 115 °C; below 100 °C since (R473). -/
  warm : Bool
  hot : Bool
  coolSince : Option Nat
  afterThermal : Bool
  faultn : Bool
  wakeOut : Bool
  /-- Wake sequencer: stage in progress 1 to 4, 0 none; instant of its start; back-off end (R462). -/
  stage : Nat
  stageAt : Nat
  backoff : Option Nat
  /-- Instant at which WAKE_OUT last fell. -/
  wakeLow : Nat
  /-- Base state of each band held before its power-down (R460). -/
  bandBase : Tab Nat
  /-- Cores, ports and pair link off in Breeze (Table 16.12). -/
  coresOff : Nat
  portsOff : Nat
  liveBand : Nat
  retain : Bool
deriving DecidableEq, Repr

/-- What MRAM holds of the ageing re-plan (R471, R472): GUARD, its date and the last check, in RTC seconds. -/
structure Health where
  guard : Nat
  planned : Option Nat
  checked : Option Nat
deriving DecidableEq, Repr

/-! ## Clocks and REFCLK (R115 to R118) -/

structure Scs where
  /-- LOCK, bit per output (Table 4.4). -/
  lock : Nat
  refOk : Bool
  holdover : Bool
  losses : Nat
  /-- Steering back after REFCLK has returned (R118). -/
  steering : Bool
  /-- Outputs whose loss of lock was a fault, by bit (R117). -/
  faults : Nat
  /-- Instant at which output 2 was last locked for launches (R234). -/
  txLockAt : Nat
deriving DecidableEq, Repr

/-! ## Ethernet ports and backhaul (R338 to R345) -/

/-- Who is told of a frame's end at a port: software by a completion item, as queue and word (R343), or a command whose reply it
carries (R56, R80). -/
inductive FrameEnd where
  | item (q : Nat) (w : Word)
  | reply (no : Nat)
deriving DecidableEq, Repr

/-- A port (Table 12.6). -/
structure EthPort where
  link : Bool
  /-- Instant at which the link came up. -/
  upAt : Nat
  speed : Nat
  rxInv : Bool
  /-- End of the PAUSE in force. -/
  pauseEnd : Option Nat
  downs : Nat
  /-- Frames that wait for the port, per PCP (R342). -/
  egress : Tab (List (Bytes × Option FrameEnd))
  /-- Frames that the port has sent, oldest first. -/
  sent : List Bytes
  /-- FCS errors since the last EV_ETH_ERRORS, rogue frames since the last EV_RTAG_ROGUE. -/
  fcsNew : Nat
  rogueNew : Nat
deriving DecidableEq, Repr

/-! ## Front-end (R111 to R149) -/

/-- A calibration procedure (R123, R124, R126). -/
structure CalRun where
  /-- 0 waits for the contexts of the band, 1 waits for launches (WAIT), 2 the band is in CAL. -/
  phase : Nat
  store : Bool
  wait : Bool
  /-- The command to complete; none for boot step 8. -/
  cmd : Option CmdRef
  /-- RADIO_CAL commands sent again with WAIT = 0 meanwhile, which complete with it (R126). -/
  also : List CmdRef
  /-- RADIO_STATE_SET to RX started it (R123). -/
  toRx : Bool
  /-- Start of the procedure, also of its restart (R126). -/
  begunAt : Nat
  calAt : Nat
deriving DecidableEq, Repr

/-- A band (Tables 4.5 and 4.7). -/
structure RBand where
  state : Nat
  base : Nat
  /-- The state that a transition of Table 4.6 leads to (MOVING). -/
  target : Option Nat
  calValid : Bool
  bypass : Bool
  /-- Instant of the bypass start, and of the last 100 µs that clipped at the bypass rate. -/
  bypassAt : Nat
  clipAt : Nat
  /-- Drain of R122: the base state that it leads to, and its command. -/
  drain : Option (Nat × CmdRef)
  /-- RADIO_STATE_SET to RX that waits for the band's new state. -/
  rxCmd : Option CmdRef
  prevBase : Nat
  /-- Receive is disabled by R122 until the band next enters a receiving state. -/
  mute : Bool
  cal : Option CalRun
  /-- Interleave offset, gain and skew in force (R125). -/
  track : Int × Int × Int
  /-- Its calibration of boot step 8 has failed, and none has succeeded since (R87). -/
  bootFail : Bool
deriving DecidableEq, Repr

/-- A TXD carrier (Tables 4.5 and 8.7): 0 PARKED, 1 READY, 2 ACTIVE. -/
structure Carrier where
  st : Nat
  band : Nat
  freq : Nat
  /-- End of its last launch plus TX_HOLD. -/
  deadline : Nat
  /-- T_end of the emission that made it ACTIVE: READY from then on (R231). -/
  endAt : Nat
deriving DecidableEq, Repr

/-- An antenna port: RFA_ANT_STATn (Table 4.13) and the tuner loop (R143). -/
structure AntPort where
  rl : Nat
  cond : Nat
  ser : Nat
  shunt : Nat
  atLimit : Bool
  /-- R142 refuses launches on the port. -/
  faulted : Bool
  /-- Instant of the last measurement, or of a probe that was skipped (R144). -/
  measuredAt : Nat
  /-- R141: instant of the last measurement of a launch. -/
  launchMeasAt : Option Nat
  /-- Tuner loop: RL before the previous step (none: no step yet); which code; direction; directions failed of this
  code; codes blocked in a row; steps since RL last met the target; codes to be written. -/
  stepRl : Option Nat
  onShunt : Bool
  up : Bool
  failed : Nat
  blocked : Nat
  steps : Nat
  toWrite : Bool
  /-- Instant at which PA_EN of the port is to fall; end of the last launch's span (R143). -/
  enFall : Option Nat
deriving DecidableEq, Repr

structure Rf where
  bands : Tab RBand
  carriers : Tab Carrier
  ports : Tab AntPort
  /-- PA_EN[3:0], PA_BIAS_EN, and the instant at which bias is to fall. -/
  paEn : Nat
  biasOn : Bool
  biasFall : Option Nat
  /-- Ports whose trigger-7 writes are due at the fall of bias. -/
  biasPorts : List Nat
  /-- RFA_PIN_STAT (Table 4.15). -/
  pinFault : Nat
  pinSupply : Nat
  /-- RFFE writes issued, oldest first: bus, USID, register, data. -/
  rffe : List (Nat × Nat × Nat × Nat)
  /-- SCS_RELOCK in progress: its command and its start. -/
  relock : Option (CmdRef × Nat)
deriving DecidableEq, Repr

/-! ## Launches and Eddy (R229 to R254) -/

/-- What a launch serves. -/
inductive LaunchSrc where
  | host | trade | mirror | beacon | probe | simcal
deriving DecidableEq, Repr

/-- A launch in the Zephyr queue: its descriptor (Table 8.1) and its progress. -/
structure Launch where
  /-- Order of submission. -/
  no : Nat
  src : LaunchSrc
  id : Nat
  carrier : Nat
  port : Nat
  dom : Nat
  asap : Bool
  simulcast : Bool
  fsk : Bool
  level : Int
  clamped : Bool
  /-- T of its domain, 2⁻¹⁶ ns; meaningful unless `held`. -/
  t : Nat
  freq : Nat
  len : Nat
  phy : Nat
  psdu : Bytes
  /-- Airtime in ns. -/
  airNs : Nat
  /-- Emitted time in ns when stopped. -/
  emitted : Nat
  held : Bool
  heldAt : Nat
  /-- In its CD2 compare unit. -/
  loaded : Bool
  /-- 0 queued, 1 bias step done, 2 PA_EN raised, 3 ACTIVE, 4 ended. -/
  phase : Nat
  /-- Status of the end that it has reached. -/
  ended : Option Nat
  stopped : Bool
  suppressed : Bool
  unlocked : Bool
  cmd : Option CmdRef
  /-- TX_SIMCAL: STORE. -/
  store : Bool
  /-- ANT_PROBE: RL, phase, COND measured. -/
  probe : Option (Nat × Int × Nat)
  /-- Its antenna measurement is done (R141). -/
  measured : Bool
  /-- DEM_PHY_CFG at its acceptance (R201). -/
  phyCfg : Nat
  /-- Instants of its steps 1 and 2 of Table 4.11, and of its first sample. -/
  biasAt : Option Nat
  enAt : Option Nat
  startAt : Option Nat
  /-- Trade: the frame it carries, and the bytes of shapers booked. -/
  frame : Nat
  /-- EUI-64 of the destination for a Trade launch. -/
  node : BitVec 64
deriving DecidableEq, Repr

/-- Eddy of a band (Table 8.8). -/
structure Eddy where
  converged : Bool
  /-- End of R249's hold. -/
  held : Option Nat
  diverged : Bool
  desense : Nat
  isolation : Nat
  /-- The weights in force, and the starting weights (R247). -/
  w : EddyW
  start : EddyW
  /-- By port: frequency and weights of its last launch that had converged (R248). -/
  saved : Tab (Option (Nat × EddyW))
  /-- Instant from which the bounds of Table 8.5 apply without a further convergence (R248, R249). -/
  boundsAt : Option Nat
  /-- Instant of the last fit. -/
  fitAt : Option Nat
  /-- Since when desense has been at or above the threshold. -/
  desenseAt : Option Nat
  /-- Scale of the digital weights since their last fit, in dB: bypass steps change it (R249). -/
  scale : Int
  /-- Steps since the starting weights. -/
  fits : Nat
deriving DecidableEq, Repr

/-- Delays of calibration section 0x06 (R240 to R244), ps, by 4 × port + carrier, port or carrier. -/
structure Delays where
  dtx : Tab Int
  dtxStored : Tab Int
  tau : Tab Int
  obsCable : Tab Int
  /-- Receive delay of each port beyond the ball (R219). -/
  drx : Tab Int
  gb : Tab Int
  dball : Tab Int
deriving DecidableEq, Repr

/-- An emission as its launch descriptor gives it: Amconde as symbols of direction (true up) and shift, SUN-FSK as frequency
deviations in units of h·Rs÷2 (R177, R195, R197). A and θ are constant for the whole packet (R177). -/
structure Air where
  fsk : Bool
  /-- Centre frequency fc, kHz. -/
  freq : Nat
  /-- K and bandwidth code; SUN-FSK rate index and FSK_MOD. -/
  k : Nat
  bw : Nat
  /-- Gaussian shaping with BT = 1.0 (FSK_GAUSS). -/
  gauss : Bool
  /-- A in 10⁻⁹ of the DAC's full scale (R230), and θ in 2⁻¹⁶ turn, which no rule fixes. -/
  amp : Nat
  theta : Nat
  /-- Instant at which the first sample passes the compare unit, of its domain, 2⁻¹⁶ ns (R240). -/
  sendAt : Int
  syms : List (Bool × Nat)
  devs : List Int
deriving DecidableEq, Repr

structure Tx where
  entries : Tab (Option Launch)
  /-- Launches submitted. -/
  count : Nat
  eddy : Tab Eddy
  delays : Delays
  /-- Each carrier's newest emission (R177, R197). -/
  air : Tab Air
deriving DecidableEq, Repr

/-! ## Channelizer and detection (R150 to R175) -/

/-- A logical channel (Tables 5.6 and 5.7). -/
structure Chan where
  gain : Nat
  frozen : Bool
  /-- A context has been claimed: the next block is frozen (R160). -/
  freezeNext : Bool
  /-- The next block carries STEP. -/
  step : Bool
  bseq : Nat
  lastRise : Nat
  /-- Changes of the LNA bypass that no block has taken up yet: instant, and whether it started (R162). -/
  byp : List (Nat × Bool)
  /-- R163: 1 gain at 0 dB, 2 gain at 60 dB, with the level beyond its limit; and since when. -/
  rangeCase : Nat
  rangeAt : Nat
  nfBusy : Bool
  pendingSet : Bool
  /-- NF in 0.1 dBm, none before the first idle block, when it reads 0; and the average of R164, a sum of |sample|² over a
  block at gain 0, in units of 2⁻³². -/
  nf : Option Int
  nfAvg : Nat
  nfReported : Option Int
  lastIdle : Nat
  /-- A record was issued within the block in progress (R164). -/
  recorded : Bool
  /-- Threshold, quiet count, seconds at THR_MAX, instants of the false detections of the last second; per family. -/
  thr : Nat × Nat
  quiet : Nat × Nat
  atMax : Nat × Nat
  falses : List Nat × List Nat
deriving DecidableEq, Repr

/-- A window or channel change that drains (R157): the channels that it drains, those of them still draining, new values. -/
structure ChnChange where
  all : List Nat
  chans : List Nat
  /-- Window number 0–7 and its new value. -/
  win : Option (Nat × Nat)
  /-- Channel number and its new value. -/
  sets : List (Nat × Nat)
  cmd : CmdRef
  at_ : Nat
deriving DecidableEq, Repr

structure Chn where
  chans : Tab Chan
  changes : List ChnChange
  /-- Bands under a Rewind replay, from its drain until its end, and while it plays: bit b. -/
  replay : Nat
  replayRun : Nat
  /-- Blocks on their way to the detector bank whose stamps belong to an earlier stamping domain: queue, packet number, and
  Δ in 2⁻¹⁶ ns (R267). -/
  old : List (Nat × Nat × Int)
deriving DecidableEq, Repr

/-! ## Mistral (R203 to R228) -/

/-- A detection record on its way to the allocator (R166, R205). -/
structure DetRec where
  ch : Nat
  fsk : Bool
  mode : Nat
  ns : Word
  frac : Nat
  bin : Nat
  foff : Int
  metric : Int
  /-- UNLOCKED of the block. -/
  unlocked : Bool
  /-- DEM_PHY_CFG at the detection: FSK_MAX_PSDU and the FSK options (R201). -/
  phy : Nat
  /-- PRE_MIN and the threshold of the detection, 0.1 dB (R166, R204, R217). -/
  preMin : Nat
  thr : Nat
deriving DecidableEq, Repr

/-- A Mistral context (Table 7.7) and its reception. -/
structure Ctx where
  st : Nat
  fsk : Bool
  ch : Nat
  mode : Nat
  bw : Nat
  /-- Claim order. -/
  no : Nat
  /-- Instant of the claim. -/
  at_ : Nat
  ns : Word
  frac : Nat
  bin : Nat
  foff : Int
  unlocked : Bool
  gainStep : Bool
  /-- Running RSSI, 0.1 dBm (R208; until the first measurement that of the detection, DESIGN CHOICE, assumption 18). -/
  level : Int
  /-- Settings kept from the allocation (R227, R201). -/
  sicEn : Bool
  reportFalse : Bool
  phy : Nat
  preMin : Nat
  thr : Nat
  rxPort : Nat
  mirror : Bool
  /-- FSK_MOD of the channel at the allocation (Table 5.2). -/
  mod : Nat
  /-- Follows replayed samples (R494). -/
  replay : Bool
  /-- Overlapping contexts: claim order, number, level (R211). -/
  overlaps : List (Nat × Nat × Int)
  /-- Symbols from the first of the detection to the sync position or the end of the SFD, preamble measured, and the
  reference instant at the ball, 2⁻¹⁶ ns modulo 2⁴⁸ (R204, R219). -/
  align : Nat
  np : Nat
  ref : Nat
  /-- Bins of the newest 64 header and payload symbols, with their number from the detection's first (R213). -/
  stored : List (Nat × Bins)
  /-- Payload shifts decided, and the groups decoded from them with the coded bits corrected in each (R185). -/
  pay : List Nat
  groups : List (List Bool × Nat)
  /-- When its reception ended, nanosecond word of the stamping domain (R211). -/
  endNs : Nat
  /-- Sources subtracted now; subtracted ever; served as a source; overlapped. -/
  sources : List Nat
  sic : Bool
  sicSource : Bool
  collided : Bool
  waiting : Bool
  netid : Nat
  len : Nat
  /-- Header decoded. -/
  hdrOk : Bool
  fec : Bool
  fcs2 : Bool
  white : Bool
  /-- SUN-FSK: bits received since the SFD. -/
  bits : List Bool
  /-- Source address decoded (R224). -/
  src : Option Bytes
  /-- Sync position or SFD found. -/
  synced : Bool
  /-- OUTCOME and STATUS of the end reached (R45). -/
  ended : Option (Nat × Nat)
deriving DecidableEq, Repr

/-- A reception that has left its context: channel, family, mode, bandwidth, the end of the reception as a nanosecond word,
and the instant of its leaving (R211). -/
structure PastRx where
  ch : Nat
  fsk : Bool
  mode : Nat
  bw : Nat
  endNs : Nat
  level : Int
  at_ : Nat
deriving DecidableEq, Repr

structure Dem where
  recs : List DetRec
  /-- Receptions of the last 2 s that have left their contexts, newest last. -/
  past : List PastRx
  ctxs : Tab Ctx
  claims : Nat
  dseq : Nat
  /-- Exhausted records since the last EV_CTX_EXHAUSTED. -/
  exhausted : Nat
  lastExhausted : Option Nat
deriving DecidableEq, Repr

/-! ## Rewind (R478 to R497) -/

/-- The freeze record in MRAM (R489). -/
structure FreezeRec where
  wptr : Nat
  trig : Nat
  marks : Tab Nat
  mode : Nat
  sources : Nat
  ringLog2 : Nat
  wrapped : Bool
  snapshot : Bytes
deriving DecidableEq, Repr

/-- A replay (R492 to R494). -/
structure Replay where
  bands : Nat
  start : Nat
  /-- Words to play. -/
  total : Nat
  cmd : CmdRef
  running : Bool
  /-- Wideband: the stamp of its first sample, 2⁻¹⁶ ns, and the instant of its start (R494). -/
  stamp : Nat
  begunAt : Nat
  /-- Blocks still to enter the detector bank, each with the words played up to its end. -/
  feed : List (List Word × Nat)
  words : Nat
  descriptors : Nat
deriving DecidableEq, Repr

structure Rwd where
  st : Nat
  mode : Nat
  sources : Nat
  /-- RING_SIZE and CH_MASK in force. -/
  ringLog2 : Nat
  chMask : Nat
  recovered : Bool
  loaded : Bool
  wrapped : Bool
  gapped : Bool
  setupChanged : Bool
  wptr : Nat
  trig : Nat
  skew : Nat
  /-- RWD_MARKn; progress of the mark's word: 1 to be written for the first time, 2 written again; a future mark's AT,
  ns. -/
  marks : Tab Nat
  fresh : Tab Nat
  future : Tab (Option Nat)
  /-- Stamping-domain instant of an AT trigger, ns. -/
  at_ : Option Nat
  code : Nat
  postLeft : Nat
  /-- Loss count that the next page is to carry. -/
  gap : Option Nat
  /-- A captured channel or window has changed since the last record. -/
  changed : Bool
  /-- Words captured that wait for a page record. -/
  backlog : List Word
  /-- RWD_FREEZE commands that wait for the freeze. -/
  waiters : List CmdRef
  snapshot : Bytes
  frz : Option FreezeRec
  replay : Option Replay
deriving DecidableEq, Repr

/-! ## Frame engine, node store, forwarding (R43, R279 to R309) -/

/-- A receive descriptor in the frame engine: its 8 words, its frame, the stamp, the source address (none: not decoded),
and the instant of its arrival. -/
structure RxDesc where
  words : List Word
  frame : Bytes
  src : Option Bytes
  at_ : Nat
deriving DecidableEq, Repr

/-- An observation as PEND keeps it: b6:0 CHANNEL, b7 FAMILY, b11:8 MODE, b13:12 BW, b15:14 PORT; margin 0.1 dB; NETID
and arrival stamp word, which the close of the group needs, kept beside. -/
structure Obs where
  loc : Nat
  netid : Nat
  margin : Int
  ns : Nat
deriving DecidableEq, Repr

/-- A node entry (Table 10.1). Addresses in EUI-64 order. -/
structure NodeEnt where
  eui : BitVec 64
  short : Nat
  hit : Bool
  marked : Bool
  prov : Bool
  locValid : Bool
  /-- Ageing has cleared LOC_VALID, and no observation has set it since (R288). -/
  aged : Bool
  secReq : Bool
  rplValid : Bool
  groupOpen : Bool
  cls : Nat
  /-- LOC_A and LOC_B. -/
  locA : Nat
  locB : Nat
  netid : Nat
  rssi : Int
  margin : Int
  locNs : Nat
  lastNs : Nat
  /-- KEY word: b17:0 handle, b31:24 key index. -/
  key : Nat
  rxCtr : Nat
  txCtr : Nat
  parent : BitVec 64
  pathExp : Nat
  pathSeq : Nat
  depth : Nat
  moveS : Nat
  grpNs : Nat
  pend : Obs
  /-- First stamp of the open group in full form, ns of the stamping domain. -/
  grpAt : Nat
deriving DecidableEq, Repr

/-- A prefix entry (R298, R299). -/
structure Route where
  table : Nat
  len : Nat
  pfx : BitVec 128
  action : Nat
  nh : Nat
deriving DecidableEq, Repr

structure Fe where
  /-- Source addresses that the array has passed (R224) of descriptors on their way in queue 87, by DSEQ. -/
  srcs : List (Word × Option Bytes)
  /-- Descriptors held under R43, in completion order, and those released to step 1. -/
  held : List RxDesc
  uplink : List RxDesc
  /-- Completions of injected frames that wait for an earlier frame: number in queue 32, REF, status (R297). -/
  injDone : List (Nat × Word × Nat)
  /-- Valid node entries by index, rising. -/
  nodes : List (Nat × NodeEnt)
  /-- Short map: short address to index. -/
  shorts : List (Nat × Nat)
  /-- Prefix entries in position order. -/
  routes : List Route
  /-- Sweep: its start second, the next bucket, entries removed or cleared. -/
  sweepStart : Nat
  sweepNext : Nat
  sweepCount : Nat
deriving DecidableEq, Repr

/-! ## Trade (R310 to R337) -/

/-- A frame in a Trade queue: its number, PSDU, direct child, destination, band at enqueue, TX_CTR used, digest of the
ingress packet, instant of its enqueue, and whether it holds a launch entry. -/
structure TFrame where
  no : Nat
  psdu : Bytes
  child : BitVec 64
  node : BitVec 64
  band : Nat
  ctr : Nat
  digest : Nat
  at_ : Nat
  planned : Bool
deriving DecidableEq, Repr

/-- A gate control list (R319): DOMAIN, BASE in ns, entries. -/
structure GList where
  dom : Nat
  base : Nat
  entries : List Nat
deriving DecidableEq, Repr

/-- A list in force (none: UNLOADED) and the list that takes over at its switch instant, ns (R322). -/
structure Gate where
  cur : Option GList
  next : Option (GList × Nat)
  /-- Switch instant that the list in force began at. -/
  since : Nat
deriving DecidableEq, Repr

/-- A booking of the regulatory ledger (R326): launch number (none: TOKENS = zero), T and airtime in ns of the stamping
domain, and OVERHEAD's share in ns. -/
structure Booking where
  no : Option Nat
  t : Nat
  air : Nat
  extra : Int
deriving DecidableEq, Repr

/-- SCH_QUEUE_FLUSH that waits for its cancelled launches (R337): frames discarded, launches cancelled, the entries. -/
structure FlushWait where
  cmd : CmdRef
  frames : Nat
  count : Nat
  entries : List Nat
deriving DecidableEq, Repr

structure Sch where
  queues : Tab (List TFrame)
  frameNo : Nat
  /-- 30-bit count of LAUNCH_IDs (R314). -/
  count : Nat
  /-- Queue last planned at each PRIO. -/
  last : Tab Nat
  gates : Tab Gate
  /-- Tokens of BYTES and AIRTIME shapers in units of 10⁻⁹, and the instant that they are of. -/
  tokens : Tab (Int × Nat)
  ledger : Tab (List Booking)
  /-- Policers: tc and te in units of 10⁻⁹, and their instant. -/
  buckets : Tab (Nat × Nat × Nat)
  /-- Frames dropped since the previous EV_QUEUE_DROP of a queue, EV_POLICER_DROP of a policer. -/
  drops : Tab Nat
  polDrops : Tab Nat
  flushes : List FlushWait
  /-- Head waits for a window, tokens, the ledger (Table 11.4): queue numbers as planned last. -/
  regWait : List Nat
deriving DecidableEq, Repr

/-! ## Uplink frames on their way to the backhaul, and the pair (R344 to R362) -/

/-- An uplink frame that has passed step 6: what leaves (without Ethernet header), whether in a tunnel packet, next hop,
node, policer selector index, NODE_MISS, and what policing charges (L, F, airtime ns, t_byte ns as a fraction). -/
structure UpFrame where
  pkt : Bytes
  tunnel : Bool
  nh : Nat
  node : BitVec 64
  sel : Nat
  miss : Bool
  len : Nat
  fcs : Nat
  air : Nat
  tbyte : Nat × Nat
deriving DecidableEq, Repr

/-- A merge entry of a stream (R353): key in ns of the owner's stamping domain, digest, the local frame with its order of
passing step 6, and whether the peer holds it. -/
structure MergeEnt where
  key : Nat
  digest : Nat
  loc : Option (Nat × UpFrame)
  peer : Bool
deriving DecidableEq, Repr

/-- Vector recovery of a stream (IEEE 802.1CB): take any, last number accepted, history, instant of the last frame. -/
structure Rcvy where
  any : Bool
  last : Nat
  hist : List Nat
  at_ : Nat
deriving DecidableEq, Repr

/-- A downlink ingress packet that a non-owner holds (R356): origin port, bytes, digest, instant. -/
structure HeldPkt where
  port : Nat
  pkt : Bytes
  digest : Nat
  at_ : Nat
deriving DecidableEq, Repr

/-- A drill (R362): KIND, AT in ns of the owner's stamping domain, DURATION in ms, RETURN, its command at this unit;
0 scheduled, 1 running, 2 over and waiting for claims to settle after a silence, 3 waiting for ownership to return;
instant of its start, and when the peer first owned. -/
structure Drill where
  kind : Nat
  at_ : Nat
  dur : Nat
  ret : Bool
  cmd : Option CmdRef
  phase : Nat
  startedAt : Nat
  tookAt : Option Nat
  /-- This unit owned at AT. -/
  mine : Bool
deriving DecidableEq, Repr

/-- A message to the peer. -/
inductive PairMsg where
  | heartbeat (onLink : Bool) (st : Nat) (serial : BitVec 64) (claim : Word) (namesPeer yields leaseRequest leaseGrant : Bool)
  | digest (st key : Nat) (digest : Word)
  | watermark (w : Nat)
  | resume (w0 : Nat) (counters : List Nat)
  | mirror (descriptor : Bytes) (node : BitVec 64) (txCtr : Nat) (digest : Nat)
  | drill (kind at_ dur : Nat) (ret : Bool)
deriving DecidableEq, Repr

structure Pair where
  /-- Table 12.5. -/
  st : Nat
  owner : Bool
  lanes : Nat
  swapped : Bool
  inv : Nat
  linkUp : Bool
  /-- Own claim (MRAM), the peer's last claim; the peer has been heard since reset; claims have settled. -/
  claim : Nat
  peerClaim : Nat
  peerKnown : Bool
  settled : Bool
  peerSerial : BitVec 64
  peerVersion : Nat
  peerDigest : Nat
  /-- Instant of the last message from the peer, on either path. -/
  heard : Option Nat
  /-- End of the lease held; instant of the own last grant; the peer's request awaits a grant. -/
  leaseEnd : Option Nat
  granted : Option Nat
  grantDue : Bool
  /-- Took ownership from a silent peer: owns without a lease until the peer grants one (R350, DEDUCED, assumption 45). -/
  leaseFree : Bool
  /-- Has been PAIRED since reset. -/
  paired : Bool
  /-- Instant of the boot start, from which R350 counts. -/
  bootAt : Nat
  /-- The next heartbeat yields, and its command. -/
  yielding : Bool
  yieldCmd : Option CmdRef
  /-- Trim exchanges kept, ps, newest first; instant of the last. -/
  trims : List Int
  trimAt : Nat
  trimValid : Bool
  /-- Streams: next pair and solo numbers; recovery. -/
  next : Tab Nat
  solo : Tab Nat
  rcvy : Tab Rcvy
  seqSolo : Bool
  wOwn : Nat
  wPeer : Nat
  wPeerAt : Nat
  /-- Merge restart point (R355): keys below it stay solo. -/
  restart : Nat
  resumeSent : Option Nat
  merge : Tab (List MergeEnt)
  /-- Local frames past the merge that wait for an earlier frame of their node (R354): order of passing step 6, sequence
  number and VID (none: no R-TAG), frame. -/
  ready : List (Nat × Option (Nat × Nat) × UpFrame)
  passNo : Nat
  held : List HeldPkt
  /-- Takeover visit: running, buckets visited ahead of their turn. -/
  visiting : Bool
  visited : List Nat
  visitAt : Nat
  drill : Option Drill
  /-- Muted by a silence drill. -/
  silent : Bool
  /-- Messages sent to the peer, oldest first. -/
  out : List PairMsg
deriving DecidableEq, Repr

/-! ## Security (R366 to R400) -/

/-- A key of the vault, named by the first handle of its run (R371, Table 13.4). `st`: 0 valid, 1 orphaned, 2 zeroised.
`counter` and `reserve` serve an encrypt twin that FRM_GRPKEYn names (R377). -/
structure Key where
  handle : Nat
  typ : Nat
  attr : Nat
  level : Nat
  persist : Bool
  exprt : Bool
  twin : Bool
  st : Nat
  parent : Nat
  counter : Nat
  reserve : Nat
  mat : Bytes
deriving DecidableEq, Repr

/-- A journal slot (Table 13.10): the bytes of its record, and what they hold: GENERATION, BOOT_COUNT, whether COMMIT, MAC,
tag and IV hold, and the keys of the opened body. -/
structure JSlot where
  gen : Nat
  boot : Nat
  ok : Bool
  keys : List Key
  image : Bytes
deriving DecidableEq, Repr

/-- A field of the locked region: copies A and B, none where a copy's CRC fails (R369, R370). -/
structure TwoCopy (α : Type) where
  a : Option α
  b : Option α
deriving DecidableEq, Repr

/-- Settings that TAMPER_ARM stores (R389). -/
structure TampSet where
  enA : Bool
  enB : Bool
  por : Bool
  delta : Nat
  baseA : Nat
  baseB : Nat
deriving DecidableEq, Repr

/-- The locked region of MRAM (R369). `helper` stands for the helper data by the root that it binds to the die. -/
structure Locked where
  lc : TwoCopy Nat
  helper : TwoCopy (Option Bytes)
  opKey : TwoCopy (Option Bytes)
  cert : TwoCopy Bytes
  debugEn : TwoCopy Bool
  ctr : TwoCopy Nat
  tamper : TwoCopy TampSet
deriving DecidableEq, Repr

/-- A loop of the PD0 monitor: last sample in 10 Ω, its class (Table 13.12 COND), samples of that class in a row, instant
before which the next sample is not due. -/
structure Loop where
  sample : Nat
  cond : Nat
  row : Nat
  next : Nat
deriving DecidableEq, Repr

/-- A crypto operation of a command, running or waiting (R379): its P-521 share and the keys that it uses. -/
structure CryptoOp where
  cmd : CmdRef
  p521 : Bool
  handles : List Nat
deriving DecidableEq, Repr

/-- What a journal commit makes take effect (R395). -/
inductive JEffect where
  | create (ks : List Key)
  | remove (handle descendants : Nat)
  | boot
deriving DecidableEq, Repr

/-- A journal commit that is being written or waits: its command and its effect. -/
structure JCommit where
  cmd : Option CmdRef
  eff : JEffect
deriving DecidableEq, Repr

structure Sec where
  /-- SEC_STAT.VAULT: 0 sealed, 1 unsealed, 2 zeroised, 3 Tamper-Hold, 4 PUF failure. -/
  vault : Nat
  /-- The rebuilt root inside the engine. -/
  root : Option Bytes
  keys : List Key
  /-- Operations and journal commits in order of submission. -/
  ops : List CryptoOp
  commits : List JCommit
  /-- Journal slots: 0 A, 1 B, 2 TA, 3 TB. -/
  slots : Tab (Option JSlot)
  inB : Bool
  torn : Bool
  gen : Nat
  bootCount : Nat
  attrDenied : Nat
  /-- DRBG: running, requests since the last reseed, its instant; code of the failed test. -/
  drbgOn : Bool
  drbgReqs : Nat
  drbgAt : Nat
  failCode : Nat
  /-- Orphan sweeps in progress: parent and descendants. -/
  sweeps : List (Nat × Nat)
  /-- Handles whose EV_KEY_EXHAUST has been raised. -/
  exhausted : List Nat
  locked : Locked
  loops : Tab Loop
deriving DecidableEq, Repr

/-! ## Firmware images (R401 to R418) -/

/-- An image slot in flash: its header area and sealed body (empty: erased); its header has been marked invalid; it has
passed step 3 at this boot. -/
structure ImgSlot where
  header : Bytes
  body : Bytes
  invalid : Bool
  valid : Bool
deriving DecidableEq, Repr

/-- Slot state of a type (R402): the slot in force, the trial slot is the other one; trial boots left; FAILED marks. -/
structure SlotState where
  inB : Bool
  trial : Bool
  tries : Nat
  failA : Bool
  failB : Bool
deriving DecidableEq, Repr

/-- One copy of the slot state record (R402). -/
structure SlotRec where
  gen : Nat
  ok : Bool
  types : Tab SlotState
deriving DecidableEq, Repr

/-- An installation session (R408 to R411). -/
structure ImgSession where
  typ : Nat
  tr : Nat
  header : Bytes
  toB : Bool
  body : Bytes
  at_ : Nat
deriving DecidableEq, Repr

structure Img where
  /-- Slots in flash, 2 × type, plus 1 for B. -/
  slots : Tab ImgSlot
  recA : SlotRec
  recB : SlotRec
  /-- Stored anti-rollback counters (R413). -/
  arb : Tab (TwoCopy Nat)
  session : Option ImgSession
  /-- Slot running per type (none: no valid image); the type on trial, and the end of its confirm window. -/
  running : Tab (Option Bool)
  trialOf : Option Nat
  confirmDue : Nat
  /-- Record types that took defaults for their FORMAT at this boot (R415). -/
  defaulted : List Nat
  /-- The application image's load of R424: 0 not begun, 1 under way, 2 done, 3 failed. -/
  appLoad : Nat
deriving DecidableEq, Repr

/-! ## Application cluster and Gust (R419 to R447) -/

/-- An open activation: task, argument, instant of its start. -/
structure Act where
  task : Nat
  arg : BitVec 64
  at_ : Nat
deriving DecidableEq, Repr

/-- A core (Tables 15.1, 15.5, 15.7, 15.10, 15.13). -/
structure Core where
  /-- STATE (Table 15.1). -/
  st : Nat
  /-- Open activation, WD and LOAD (Table 15.10). -/
  act : Option Act
  wd : Bool
  load : Nat
  /-- ns of the second in progress with an activation open before the present one; loads at the warning in a row. -/
  busy : Nat
  hot : Nat
  /-- TAKEN; entry address and a1 of the last start (R425); gpostarg (Table 15.5). -/
  taken : Nat
  entry : BitVec 64
  a1 : BitVec 64
  postArg : BitVec 64
  /-- Value of the last CSR read. -/
  csr : BitVec 64
  /-- APC_CORE_STOP that waits, and its start. -/
  stop : Option (CmdRef × Nat)
  /-- In WFI with an activation open: RUNNING, and `cycle` stands (Table 15.7). -/
  wfi : Bool
  /-- Named off by a transition: no dispatch (R438). -/
  hold : Bool
  /-- Counters 0 to 10 (1 is not used), mhpmevent3 to 10, and the latch of a chained read: counter and value. -/
  ctr : Tab Nat
  ev : Tab Nat
  latch : Option (Nat × Nat)
  /-- msample: EVENT, PERIOD, LAT_MIN, EN. -/
  sEvent : Nat
  sPeriod : Nat
  sLatMin : Nat
  sEn : Bool
  samples : List Bytes
  lost : Nat
  /-- Samples have been lost since the last record. -/
  lostMark : Bool
  /-- Machine timer interrupt pending, and mtimecmp (R421, R445). -/
  mtip : Bool
  mtimecmp : BitVec 64
deriving DecidableEq, Repr

/-- A Gust task (Table 15.4): its pending activations with argument and instant of the post, and its counts. -/
structure Task where
  en : Bool
  prio : Nat
  allow : Nat
  multi : Bool
  depth : Nat
  bind : Nat
  entry : BitVec 64
  last : Option Nat
  ring : List (BitVec 64 × Nat)
  taken : Nat
  maxWait : Nat
  backpressed : Nat
  abandoned : Nat
deriving DecidableEq, Repr

structure Apc where
  cores : Tab Core
  tasks : Tab Task
  /-- Packets that have entered a bound queue, are held back and wait to be posted (R432). -/
  unposted : Tab Nat
  imageLoaded : Bool
  /-- R502, per requester and core (key 16 × requester + core): low word written and held, high word latched. -/
  held : Tab (Option Word)
  latch : Tab (Option Word)
  /-- SEC of the stamping domain at the last load update (R439). -/
  loadSec : Nat
deriving DecidableEq, Repr

/-! ## The whole state -/

/-- Everything that the specification gives the device. -/
structure Chip where
  /-- Elapsed time, ns, since VAON rose: the model's own clock. -/
  now : Nat
  /-- The model's own counter of free values (DESIGN CHOICE, assumption 3). -/
  freeCtr : Nat
  dq : Tab Dq
  ubfen : Ubfen
  ev : Ev
  boot : Boot
  cfg : Cfg
  cal : Cal
  sys : Sys
  time : TimeSt
  pd0 : Pd0
  pwr : Pwr
  health : Health
  scs : Scs
  /-- Event counters of the blocks, by register address; they saturate at 0xFFFF_FFFF. -/
  cnt : Tab Nat
  eth : Tab EthPort
  rf : Rf
  tx : Tx
  chn : Chn
  dem : Dem
  rwd : Rwd
  /-- LPDDR4X: listed bytes, addresses rising, none zero; an unlisted byte reads 0 (DESIGN CHOICE, assumption 7). -/
  dram : List Host.Cell
  fe : Fe
  sch : Sch
  pair : Pair
  sec : Sec
  img : Img
  apc : Apc
deriving DecidableEq, Repr

/-- The state of the model: the device, and the commands that wait. -/
structure State extends Chip where
  /-- Commands that wait, first in, first out. -/
  pending : List Instr
deriving DecidableEq, Repr

/-- Reasons to stop with a fault. -/
inductive Fault where
  /-- An operand that no sender can form (WellFormed.lean): safe, the specification has no such command. -/
  | illFormed
deriving DecidableEq, Repr

/-- Reasons to refuse. -/
inductive Refusal where
  /-- The command has no meaning in the model yet: safe. -/
  | notModelled (mnemonic : String)
deriving DecidableEq, Repr

/-! ## Reset -/

/-- A Draught queue at reset (Tables 1.7 to 1.9). -/
def Dq.reset (log2 : Nat) (en : Bool) : Dq where
  en := en
  bankLog2 := log2
  flushing := false
  drain := []
  fill := []
  opn := none
  under := none
  skip := false
  loseRest := false
  lost := 0
  lostPri := 0
  lostStream := 0
  noCred := false
  trunc := false
  overrun := false
  overruns := 0
  truncs := 0
  sideEnd := true
  sideTag := 0b01
  sidePri := 0
  sideStream := 0
  hand := []
  wait := []
  fresh := 0
  nextNo := 0
  aborts := []

/-- BANK_LOG2 at reset: the minimum of Table 1.12 for queues of fixed use, 8 for the others (R41). The crossings of
Table 1.3 and the queues inside the fabric are on at all times and hold 2¹² words a bank (DESIGN CHOICE, assumption 8). -/
def dqReset : Tab Dq :=
  { dflt := Dq.reset 8 false
    ents := [(0, Dq.reset 6 false), (3, Dq.reset 6 false), (4, Dq.reset 6 false)]
      ++ (List.range 8).map (fun i => (24 + i, Dq.reset 12 false))
      ++ [(32, Dq.reset 10 false), (33, Dq.reset 12 false), (34, Dq.reset 12 false)]
      ++ (List.range 8).map (fun i => (56 + i, Dq.reset 12 false))
      ++ (List.range 25).map (fun i => (64 + i, Dq.reset 12 true)) }

def Ubfen.reset : Ubfen where
  cmds := []
  admitted := 0
  streams := Tab.const ⟨none, [], []⟩
  rejects := Tab.const (0, none)
  doneAt := Tab.const []
  spiOut := []
  spiRead := []
  spiOverrun := false
  spiShort := false
  ready := false
  resetWait := none
  loads := Tab.const 0

/-- Sources whose severity in Table 2.13 is ERROR or CRITICAL: PIN0_EN is 1 for them at reset (R74). -/
def errorSources : List Nat :=
  [3, 6, 9, 12, 22, 30, 33, 35, 36, 38, 39, 53, 59, 62, 98, 100, 101, 102, 108, 111, 112, 113, 125]

/-- 128-bit source bitmap with the given sources set. -/
def srcMask (l : List Nat) : BitVec 128 := l.foldl (fun m i => m ||| (1#128 <<< i)) 0

def Ev.reset : Ev where
  raised := []
  raiseNo := 0
  ring := []
  seq := 0
  lost := 0
  overflow := false
  ringEn := ~~~ (srcMask [43, 44, 72])
  pin0En := srcMask errorSources
  pin1En := 0
  pend := 0
  pushTr := 0xFF
  pushCount := 1
  pushHold := 0
  pushLevel := 0
  pushSeq := 0
  pushLost := 0
  trigs := []
  limits := []

/-- The boot sequencer right after a reset with the given cause: wake stage 1 of boot step 1 begins (R462). -/
def Boot.reset (cause now : Nat) : Boot where
  cause := cause
  stage := 0
  cfgHold := false
  solo := false
  slotB := false
  committed := false
  service := false
  tamperHold := false
  recovery := false
  unlockedOpen := false
  openUs := 0
  start := now
  step := 1
  wait := .wake
  stepStart := now
  loaded := false
  announceAt := none
  serdesAt := 0
  early := []

def Cfg.reset : Cfg where
  run := []
  atBoot := []
  stored := Tab.const none
  gens := Tab.const 0
  reports := []
  reportNo := 0

def Cal.reset : Cal where
  sections := Tab.const ⟨0, 0, [], true⟩
  staged := none
  nominal := []
  running := Tab.const none

def Sys.reset : Sys where
  serial := Config.serial
  lc := 0
  debugRoot := false
  lockCount := 0
  lockAddr := 0
  lockAt := none
  scratch := Tab.const 0
  ver := Tab.const 0
  grpHandle := Tab.const 0
  grpIndex := Tab.const 0
  nhPorts := Tab.const 0
  nhVid := Tab.const 0
  nhTagged := Tab.const false
  nhMac := Tab.const [0, 0, 0, 0, 0, 0]
  flashLog2 := 0
  flashOctal := false
  flashFound := false
  mramCorr := 0
  mramUncorr := 0
  dramSize := 0
  dramTrained := false
  dramSelfRefresh := false
  dramRate := 0

/-- Nominal INC, 2 ns (R255). -/
def incNominal : Nat := 0x200000000

def Servo.reset : Servo where
  inLock := 0
  over4 := 0
  overJump := 0
  holdSince := none
  offset := 0
  delay := 0
  syncs := 0
  sampled := false
  lastSync := 0
  freq := incNominal
  gm := none
  stepsRemoved := 0
  gmPort := 0
  announce := Tab.const none
  heard := Tab.const none
  foreign := Tab.const none
  sync := none
  ms := none
  req := Tab.const (0, none)
  resp := Tab.const none
  linkDelay := Tab.const 0
  turn := Tab.const none
  sentAt := Tab.const none
  seqs := Tab.const 0

def TimeDom.reset : TimeDom where
  t := 0
  inc := incNominal
  base := incNominal
  tempEnd := none
  st := 0
  epoch := 0
  steps := 0
  stepHeld := false
  servo := Servo.reset

def TimeSt.reset : TimeSt where
  td0 := TimeDom.reset
  td1 := TimeDom.reset
  stampDom := 0
  switch := none
  delta := 0
  prevDom := 0
  switchAt := 0
  alarms := Tab.const ⟨false, 0, 0, 0⟩
  beacons := Tab.const ⟨false, [], [], 0, 10, 0, 0, 0, 0⟩
  ptp := Tab.const 0
  wraps := 0
  tcIn := Tab.const []
  tcOut := none

/-- PD0 after power-on (R83, cause 0x01). -/
def Pd0.reset : Pd0 where
  rtc := 0
  rtcRc := false
  alarmSec := 0
  alarmEn := false
  alarmDone := false
  alarmHeld := false
  latch := 0
  wakeSource := 4
  wakeStage := 0
  attempts := 1
  calmFault := false
  prevState := 0
  inEntry := false
  failStage := 0
  failAttempts := 0
  epoch0 := 0
  epoch1 := 0
  tampLatch := false
  tampLog := []
  tampOver := false
  tampCount := 0

def Pwr.reset : Pwr where
  state := 0
  phase := 0
  domOn := 1
  trans := none
  dramLost := false
  pmbusFault := false
  atCeiling := false
  ageValid := false
  vcore := 0
  margin := 0
  index := 0
  junction := 0
  rails := Tab.const ⟨0, false, false⟩
  lull := []
  lullLost := 0
  before := none
  uv := false
  uvSince := 0
  autoLull := false
  loopOn := false
  fails := 0
  above := 0
  avsRef := 0
  voutCheck := none
  due := Tab.const 0
  warm := false
  hot := false
  coolSince := none
  afterThermal := false
  faultn := false
  wakeOut := true
  stage := 1
  stageAt := 0
  backoff := none
  wakeLow := 0
  bandBase := Tab.const 0
  coresOff := 0
  portsOff := 0
  liveBand := 0
  retain := false

def Health.reset : Health := ⟨0, none, none⟩

def Scs.reset : Scs := ⟨0, false, false, 0, false, 0, 0⟩

def EthPort.reset : EthPort where
  link := false
  upAt := 0
  speed := 0
  rxInv := false
  pauseEnd := none
  downs := 0
  egress := Tab.const []
  sent := []
  fcsNew := 0
  rogueNew := 0

def RBand.reset : RBand where
  state := 0
  base := 0
  target := none
  calValid := false
  bypass := false
  bypassAt := 0
  clipAt := 0
  drain := none
  rxCmd := none
  prevBase := 0
  mute := false
  cal := none
  track := (0, 0, 0)
  bootFail := false

def AntPort.reset : AntPort where
  rl := 0
  cond := 0
  ser := 0
  shunt := 0
  atLimit := false
  faulted := false
  measuredAt := 0
  launchMeasAt := none
  stepRl := none
  onShunt := false
  up := true
  failed := 0
  blocked := 0
  steps := 0
  toWrite := false
  enFall := none

def Rf.reset : Rf where
  bands := Tab.const RBand.reset
  carriers := Tab.const ⟨0, 0, 0, 0, 0⟩
  ports := Tab.const AntPort.reset
  paEn := 0
  biasOn := false
  biasFall := none
  biasPorts := []
  pinFault := 0
  pinSupply := 0
  rffe := []
  relock := none

/-- No taps. -/
def EddyW.none : EddyW := ⟨0, [], []⟩

def Eddy.reset : Eddy := ⟨false, none, false, 0, 0, EddyW.none, EddyW.none, Tab.const none, none, none, none, 0, 0⟩

def Delays.reset : Delays :=
  ⟨Tab.const 0, Tab.const 0, Tab.const 0, Tab.const 0, Tab.const 0, Tab.const 0, Tab.const 0⟩

/-- No emission. -/
def Air.none : Air := ⟨false, 0, 0, 0, false, 0, 0, 0, [], []⟩

def Tx.reset : Tx := ⟨Tab.const none, 0, Tab.const Eddy.reset, Delays.reset, Tab.const Air.none⟩

def Chan.reset : Chan where
  gain := 0
  frozen := false
  freezeNext := false
  step := false
  bseq := 0
  lastRise := 0
  byp := []
  rangeCase := 0
  rangeAt := 0
  nfBusy := false
  pendingSet := false
  nf := none
  nfAvg := 0
  nfReported := none
  lastIdle := 0
  recorded := false
  thr := (0, 0)
  quiet := (0, 0)
  atMax := (0, 0)
  falses := ([], [])

def Chn.reset : Chn := ⟨Tab.const Chan.reset, [], 0, 0, []⟩

def Ctx.reset : Ctx where
  st := 0
  fsk := false
  ch := 0
  mode := 0
  bw := 0
  no := 0
  at_ := 0
  ns := 0
  frac := 0
  bin := 0
  foff := 0
  unlocked := false
  gainStep := false
  level := 0
  sicEn := false
  reportFalse := false
  phy := 0
  preMin := 0
  thr := 0
  rxPort := 0
  mirror := false
  mod := 0
  replay := false
  overlaps := []
  align := 0
  np := 0
  ref := 0
  stored := []
  pay := []
  groups := []
  endNs := 0
  sources := []
  sic := false
  sicSource := false
  collided := false
  waiting := false
  netid := 0
  len := 0
  hdrOk := false
  fec := false
  fcs2 := false
  white := false
  bits := []
  src := none
  synced := false
  ended := none

def Dem.reset : Dem := ⟨[], [], Tab.const Ctx.reset, 0, 0, 0, none⟩

def Rwd.reset : Rwd where
  st := 0
  mode := 0
  sources := 0
  ringLog2 := 31
  chMask := 2 ^ 128 - 1
  recovered := false
  loaded := false
  wrapped := false
  gapped := false
  setupChanged := false
  wptr := 0
  trig := 0xFFFFFFFF
  skew := 0
  marks := Tab.const 0xFFFFFFFF
  fresh := Tab.const 0
  future := Tab.const none
  at_ := none
  code := 0
  postLeft := 0
  gap := none
  changed := false
  backlog := []
  waiters := []
  snapshot := List.replicate 1108 0
  frz := none
  replay := none

/-- No sweep runs: `sweepNext` at 32,768. -/
def Fe.reset : Fe := ⟨[], [], [], [], [], [], [], 0, 32768, 0⟩

def Sch.reset : Sch where
  queues := Tab.const []
  frameNo := 0
  count := 0
  last := Tab.const 4095
  gates := Tab.const ⟨none, none, 0⟩
  tokens := Tab.const (0, 0)
  ledger := Tab.const []
  buckets := Tab.const (0, 0, 0)
  drops := Tab.const 0
  polDrops := Tab.const 0
  flushes := []
  regWait := []

def Pair.reset : Pair where
  st := 0
  owner := false
  lanes := 0
  swapped := false
  inv := 0
  linkUp := false
  claim := 0
  peerClaim := 0
  peerKnown := false
  settled := false
  peerSerial := 0
  peerVersion := 0
  peerDigest := 0
  heard := none
  leaseEnd := none
  granted := none
  grantDue := false
  leaseFree := false
  paired := false
  bootAt := 0
  yielding := false
  yieldCmd := none
  trims := []
  trimAt := 0
  trimValid := false
  next := Tab.const 0
  solo := Tab.const 0
  rcvy := Tab.const ⟨true, 0, [], 0⟩
  seqSolo := false
  wOwn := 0
  wPeer := 0
  wPeerAt := 0
  restart := 0
  resumeSent := none
  merge := Tab.const []
  ready := []
  passNo := 0
  held := []
  visiting := false
  visited := []
  visitAt := 0
  drill := none
  silent := false
  out := []

/-- Both copies of a field at one value. -/
def TwoCopy.both {α : Type} (v : α) : TwoCopy α := ⟨some v, some v⟩

def Locked.reset : Locked :=
  ⟨TwoCopy.both 0, TwoCopy.both none, TwoCopy.both none, TwoCopy.both [], TwoCopy.both false, TwoCopy.both 0,
    TwoCopy.both ⟨false, false, false, 10, 0, 0⟩⟩

def Sec.reset : Sec where
  vault := 0
  root := none
  keys := []
  ops := []
  commits := []
  slots := Tab.const none
  inB := false
  torn := false
  gen := 0
  bootCount := 0
  attrDenied := 0
  drbgOn := false
  drbgReqs := 0
  drbgAt := 0
  failCode := 0
  sweeps := []
  exhausted := []
  locked := Locked.reset
  loops := Tab.const ⟨0, 0, 0, 0⟩

def SlotRec.reset : SlotRec := ⟨0, true, Tab.const ⟨false, false, 0, false, false⟩⟩

def Img.reset : Img where
  slots := Tab.const ⟨[], [], true, false⟩
  recA := SlotRec.reset
  recB := SlotRec.reset
  arb := Tab.const (TwoCopy.both 0)
  session := none
  running := Tab.const none
  trialOf := none
  confirmDue := 0
  defaulted := []
  appLoad := 0

def Core.reset : Core where
  st := 1
  act := none
  wd := false
  load := 0
  busy := 0
  hot := 0
  taken := 0
  entry := 0
  a1 := 0
  postArg := 0
  csr := 0
  stop := none
  wfi := false
  hold := false
  ctr := Tab.const 0
  ev := Tab.const 0
  latch := none
  sEvent := 0
  sPeriod := 0x400
  sLatMin := 0
  sEn := false
  samples := []
  lost := 0
  lostMark := false
  mtip := false
  mtimecmp := 0

def Task.reset : Task := ⟨false, 0, 0, false, 1, 0xFF, 0, none, [], 0, 0, 0, 0⟩

def Apc.reset : Apc := ⟨Tab.const Core.reset, Tab.const Task.reset, Tab.const 0, false, Tab.const none, Tab.const none, 0⟩


/-- The device right after power-on (R83, cause 0x01): only PD0 is on, RESETn is high, and the boot sequencer begins
wake stage 1 (R462). -/
def Chip.reset : Chip where
  now := 0
  freeCtr := 0
  dq := dqReset
  ubfen := Ubfen.reset
  ev := Ev.reset
  boot := Boot.reset 0x01 0
  cfg := Cfg.reset
  cal := Cal.reset
  sys := Sys.reset
  time := TimeSt.reset
  pd0 := Pd0.reset
  pwr := Pwr.reset
  health := Health.reset
  scs := Scs.reset
  cnt := Tab.const 0
  eth := Tab.const EthPort.reset
  rf := Rf.reset
  tx := Tx.reset
  chn := Chn.reset
  dem := Dem.reset
  rwd := Rwd.reset
  dram := []
  fe := Fe.reset
  sch := Sch.reset
  pair := Pair.reset
  sec := Sec.reset
  img := Img.reset
  apc := Apc.reset

/-- The machine right after power-on: no command waits. -/
def State.reset : State := { toChip := Chip.reset, pending := [] }

end Sys2Proof.Machine
end

