-- ==== Sys2Proof/Machine/Records.lean ====
section
/-! DEFINITION. The configuration record types (R95): the fields of every type with their ranges and defaults, and the
running value of a field. -/

namespace Sys2Proof.Machine

/-- Legal values of a field. -/
inductive Legal where
  /-- `lo`, `lo + step`, … up to `hi`. -/
  | num (lo hi step : Int)
  /-- The values listed, rising. -/
  | oneOf (l : List Int)
  /-- Parts (lowest bit, width, smallest, largest); bits outside every part are reserved. -/
  | parts (l : List (Nat × Nat × Nat × Nat))
  /-- OVERHEAD of a shaper in bits 15:0, signed, −32 to +255 (R324), and TOKENS in bit 16. -/
  | overhead
deriving DecidableEq, Repr

/-- A field of a record type: ID, legal values, default code, and the bits that are RWL. -/
structure FDef where
  id : Nat
  legal : Legal
  dflt : Nat
  rwl : Nat
deriving DecidableEq, Repr

/-- A field of whole numbers. -/
def fN (id : Nat) (lo hi dflt : Int) : FDef := ⟨id, .num lo hi 1, ofS 32 dflt, 0⟩

/-- A field of stepped numbers. -/
def fStep (id : Nat) (lo hi step dflt : Int) : FDef := ⟨id, .num lo hi step, ofS 32 dflt, 0⟩

/-- A field of any 32-bit value. -/
def fAny (id dflt : Nat) : FDef := ⟨id, .parts [(0, 32, 0, 0xFFFFFFFF)], dflt, 0⟩

/-- A field made of parts. -/
def fParts (id : Nat) (ps : List (Nat × Nat × Nat × Nat)) (dflt : Nat) : FDef := ⟨id, .parts ps, dflt, 0⟩

/-- A part whose every value is legal. -/
def part (lo w : Nat) : Nat × Nat × Nat × Nat := (lo, w, 0, 2 ^ w - 1)

/-- Start-up record (Table 3.10). -/
def fieldsStartup : List FDef :=
  [fN 1 0 1 1, fN 2 0 2 0, fN 3 100 5000 500, fN 4 0 10000 1000, fN 5 0 30000 1500, fN 6 0 3 3]

/-- Default of SYS_CMD_CFGt: EN, CREDIT, GROUPS of Table 2.3. -/
def cmdCfgDflt (t : Nat) : Nat :=
  if t = 0 then pack [(0, 1, 1), (1, 8, 64), (9, 16, 0xFFFF)]
  else if t ≤ 2 then pack [(0, 1, 0), (1, 8, 48), (9, 16, 0)]
  else pack [(0, 1, 1), (1, 8, 12), (9, 16, 0xFFFF)]

/-- Ubfen transport record (R59): CREDIT is RWL. -/
def fieldsTransport : List FDef :=
  (List.range 11).map fun t =>
    { id := 1 + t, legal := .parts [part 0 1, (1, 8, 1, 255), part 9 16], dflt := cmdCfgDflt t, rwl := 0x1FE }

/-- Power record (Table 16.11). -/
def fieldsPower : List FDef :=
  [fN 1 1 60000 50, fN 2 0 1 0, fN 3 1 1000 20, fN 4 1 600 5, fN 5 0 1 0, fN 6 0 1 1, fN 7 60 86400 600,
   fParts 8 [part 2 9] 0x0600, fN 9 10 300 50, fN 0xA 20 500 120, fStep 0xB 600 900 5 650,
   fStep 0xC 600 900 5 900, fN 0xD 0x08 0x77 0x40, ⟨0xE, .oneOf [100, 400], 400, 0⟩, fN 0xF 70 110 100]

/-- Fields of domain `i` of the time record (Table 9.8). -/
def fieldsTimeDom (i : Nat) : List FDef :=
  let b := 0x100 + 0x20 * i
  [fN b 0 2 (if i = 0 then 1 else 0), fParts (b + 1) [part 0 2] (if i = 0 then 1 else 0),
   fN (b + 2) 0 127 i, fN (b + 3) 0 1 0, fN (b + 4) 0 2 1, fN (b + 5) 0 1 0, fN (b + 6) (-4) 1 0,
   fN (b + 7) (-3) 3 1, fN (b + 8) 2 10 3, fN (b + 9) (-4) 5 0, fN (b + 10) 0 255 255, fN (b + 11) 0 255 128,
   fN (b + 12) 0 1 1, fN (b + 13) 10 10000 100, fN (b + 14) 2 64 8, fN (b + 15) 10 1000000000 1000,
   fN (b + 16) 1 64 16, fN (b + 17) 0 3600 10, fParts (b + 18) [part 0 12, part 12 1] 0]

/-- Time record (Table 9.8). -/
def fieldsTime : List FDef :=
  [fN 1 0 1 0, fN 2 0 1 0, fN 3 0 1 0] ++ fieldsTimeDom 0 ++ fieldsTimeDom 1 ++
  (List.range 2).flatMap fun j =>
    let b := 0x200 + 0x10 * j
    [fN b 0 100000 0, fN (b + 1) 0 100000 0, fN (b + 2) (-100000) 100000 0]

/-- Front-end record (Table 4.15a). -/
def fieldsFront : List FDef :=
  [fN 1 20 1000 25, fStep 2 500 10000 500 2000, fStep 3 200 5000 100 500, fN 4 2 100 5, fN 5 0 100 2,
   ⟨6, .oneOf [1000, 13000, 26000], 26000, 0⟩, ⟨7, .oneOf [1000, 13000, 26000], 26000, 0⟩,
   fN 8 0 1 0, fN 9 0 1 0, fN 0xA 10 60000 1000, fN 0xB 30 200 100, fN 0xC 5 30 15, fN 0xD 0 500 330,
   fN 0xE 0 1 1, fN 0xF 0 3600 60, fN 0x10 (-300) (-100) (-200), fN 0x11 50 300 150] ++
  (List.range 4).flatMap fun p =>
    let b := 0x100 + 0x10 * p
    [fN b 0 2 (if p < 2 then 1 else 2), fN (b + 1) 0 1 0, fN (b + 2) 100 400 200, fN (b + 3) (-50) 50 0,
     fN (b + 4) 0 1 0, fParts (b + 5) [(0, 4, 1, 15), part 4 1] 0x01, fN (b + 6) 0 255 0, fN (b + 7) 0 255 1,
     fN (b + 8) 300000 2500000 (if p < 2 then 700000 else 2400000)]

/-- RFFE action records (R130, Table 4.9): RWL. -/
def fieldsRffe : List FDef :=
  (List.range 32).map fun n => { id := 1 + n, legal := .parts [part 0 27], dflt := 0, rwl := 0x7FFFFFF }

/-- Transmit record (Table 8.10). -/
def fieldsTx : List FDef :=
  [fN 1 150 10000 150, fN 2 0 60 48, fN 3 1 10000 100, fStep 4 0 1000 50 200, fN 5 0 1 1, fN 6 0 1 1, fN 7 0 1 1,
   fN 8 60 140 100, fN 9 10 200 60]

/-- Channelizer record (Table 5.9) and its windows (Table 5.1). -/
def fieldsChn : List FDef :=
  [fN 1 (-40) (-20) (-30), fN 2 100 10000 1000, fN 3 100 10000 1000, fN 4 5 100 20, fN 5 3 6 4, fN 6 0 1 1,
   fN 7 40 200 80, fN 8 40 200 100, fN 9 40 200 60, fN 0xA 40 200 160, fN 0xB 1 1000 10, fN 0xC 1 20 5,
   fN 0xD 1 600 10, fN 0xE 0 40 30] ++
  (List.range 8).map fun n => fParts (0x10 + n) [part 0 1, part 1 2, part 8 15] 0

/-- Channel record (Table 5.2). -/
def fieldsCh : List FDef := (List.range 128).map fun n => fParts (0x100 + n) [part 0 13, part 14 15] 0

/-- PHY record (Table 6.10). -/
def fieldsPhy : List FDef :=
  [fN 1 0 1 0, fN 2 0 1 1, fN 3 0 1 1, fN 4 0 1 0, fN 5 127 2047 2047, fN 6 0 1 0] ++
  (List.range 8).map fun n => fParts (0x10 + n) [part 0 12, part 31 1] (if n = 0 then 0x80000000 else 0)

/-- Demodulator record (Table 7.10). -/
def fieldsDem : List FDef :=
  [fN 1 0 1 0, fN 2 0 20 3, fN 3 0 48 0, fN 4 0 48 0, fN 5 0 1 1, fN 6 0 1 0, fN 7 0 3 0, fN 8 0 3 2, fN 9 0 1 0]

/-- Frame engine record (Table 10.9, R304). -/
def fieldsFrm : List FDef :=
  [fN 1 0 262143 0, fN 2 5 7 6, fN 3 0 1 0, fN 4 0 1 0, fN 5 1 23 1, fN 6 1 23 2] ++
  (List.range 16).flatMap fun n =>
    let b := 0x100 + 8 * n
    [fAny b 0, fAny (b + 1) 0, fAny (b + 2) 0, fAny (b + 3) 0, fN (b + 4) 0 128 0]

/-- Node store record (Table 10.9): HASH_SEED is RWL. -/
def fieldsNode : List FDef :=
  [{ fAny 1 0 with rwl := 0xFFFFFFFF }, fN 2 0 1 1, fN 3 10 86400 1800, fN 4 1 1000 50, fN 5 0 60000 200, fN 6 0 1 1]

/-- Forwarding record (Table 10.9). -/
def fieldsFwd : List FDef :=
  [fN 1 1024 65535 48740, fAny 2 0, fAny 3 0, fAny 4 0, fAny 5 0, fN 6 0 255 0, fN 7 0 1 0, fN 8 0 3 0, fN 9 0 3 0,
   fN 0xA 1 16 8, fN 0xB 0 7 0, fN 0xC 0 7 0] ++
  (List.range 8).map fun n => fParts (0x10 + n) [(0, 2, 0, 2), part 2 2] 1

/-- Scheduler globals, ranges and profiles (Table 11.7). -/
def fieldsSch : List FDef :=
  [fN 1 300 100000 2000, fN 2 0 1 0, fN 3 0 255 0, fN 4 0 1 0] ++
  (List.range 8).map (fun n => fParts (0x10 + n) [part 0 1, part 1 1, part 2 8]
    (if n = 0 then 0x1 else if n = 1 then pack [(0, 1, 1), (1, 1, 1), (2, 8, 1)] else 0)) ++
  (List.range 8).map (fun n => fParts (0x20 + n) [part 0 15, part 16 15]
    (if n = 0 then pack [(0, 15, 3000), (16, 15, 11000)] else if n = 1 then pack [(0, 15, 23000), (16, 15, 25000)]
     else 0)) ++
  (List.range 16).flatMap fun p =>
    let b := 0x100 + 8 * p
    [fN b 0 3 (if p = 1 then 2 else 0), fN (b + 1) 0 15 15, fN (b + 2) (-400) 0 (-100),
     fN (b + 3) 8 255 12, fN (b + 4) 4 1000 8]

/-- Queue selector: entry e holds queue e by default (R311). -/
def fieldsQSel : List FDef :=
  (List.range 128).map fun i => fParts (1 + i) [part 0 12, part 16 12] (pack [(0, 12, 2 * i), (16, 12, 2 * i + 1)])

/-- Policer selector: 0xFFFF by default (R330). -/
def fieldsPSel : List FDef := (List.range 64).map fun i => fAny (1 + i) 0xFFFFFFFF

/-- Shapers `32 t … 32 t + 31` (Tables 11.2 and 11.7, R328). -/
def fieldsShaper (t : Nat) : List FDef :=
  (List.range 32).flatMap fun i =>
    let b := 0x100 + 4 * i
    let n := 32 * t + i
    [fN b 0 3 (if n < 2 then 3 else 0), fAny (b + 1) (if n = 0 then 10000 else if n = 1 then 1000000 else 0),
     fAny (b + 2) (if n < 2 then 3600 else 0), ⟨b + 3, .overhead, 0, 0⟩]

/-- Policers `16 t … 16 t + 15` (Table 11.7, R331). -/
def fieldsPolicer (t : Nat) : List FDef :=
  (List.range 16).flatMap fun i =>
    let b := 0x100 + 8 * i
    let _n := 16 * t + i
    [fN b 0 1250000000 0, fN (b + 1) 0 0x7FFFFFFF 0, fN (b + 2) 0 1250000000 0, fN (b + 3) 0 0x7FFFFFFF 0,
     fParts (b + 4) [part 0 5, part 16 16] 0xFFFF0000, fN (b + 5) (-32) 255 0]

/-- Queues `64 t … 64 t + 63` (Tables 11.1 and 11.7). -/
def fieldsQueue (t : Nat) : List FDef :=
  (List.range 64).flatMap fun i =>
    let b := 0x100 + 2 * i
    let n := 64 * t + i
    [fParts b [part 0 1, part 1 3, part 4 1, part 5 8, (13, 5, 0, 16), part 18 3, part 21 4]
      (pack [(0, 1, 1), (1, 3, n), (13, 5, 16), (21, 4, if n < 256 then n / 128 else 0)]),
     fParts (b + 1) [(0, 12, 1, 4095), part 16 16] 64]

/-- Port address default: 02-5C, then the serial, with bit 0 of the last octet set to the port number (Table 12.8). -/
def macDflt (p : Nat) : Nat := setFld (Config.serial.toNat % 2 ^ 32) 0 1 p

/-- Ethernet record (Table 12.8). -/
def fieldsEth : List FDef :=
  [fN 1 2 32 16, fN 2 1 10000 100, fN 3 0 1 0, fN 4 1 23 5] ++
  (List.range 16).map (fun i => fParts (0x10 + i) [part 0 14, part 16 12] 0) ++
  (List.range 2).flatMap fun p =>
    let b := 0x100 + 0x20 * p
    [fParts b [part 0 16] 0x025C, fAny (b + 1) (macDflt p), fN (b + 2) 0 1 1, fN (b + 3) 0 6 0,
     fN (b + 4) 1518 9216 2200, fN (b + 5) 0 1 1, fParts (b + 6) [part 0 13] 0, fN (b + 7) 0 7 5,
     fAny (b + 8) 0, fAny (b + 9) 0, fAny (b + 10) 0, fAny (b + 11) 0] ++
    (List.range 4).flatMap fun n => [fParts (b + 12 + 2 * n) [part 0 17] 0, fAny (b + 13 + 2 * n) 0]

/-- Pair record (Table 12.8). -/
def fieldsPair : List FDef :=
  [fN 1 0 1 0, fAny 2 0, fAny 3 0, fAny 4 0, fAny 5 0, fAny 6 0, fAny 7 0, fN 8 1024 65535 48741, fN 9 1 100 10,
   fN 0xA 5 1000 30, fN 0xB 20 2000 200, fN 0xC 1 100 2, fN 0xD 1 1000 20, fN 0xE 50 1000 100, fN 0xF 1 100 2,
   fN 0x10 256 65536 4096]

/-- Cluster record (Table 15.15): PERF_UEN is RWL (Table 18.2). -/
def fieldsApc : List FDef :=
  [fN 1 0 0xFF 1, fN 2 0 10000 50, fN 3 50 100 90, fN 4 0 10000 0, fN 5 0 2 0,
   { fN 6 0 0x7FF 0 with rwl := 0xFFFFFFFF }]

/-- Rewind record (Table 17.7). -/
def fieldsRwd : List FDef :=
  [fN 1 24 31 31, fN 2 0 1 1, fN 3 0 3 0, fN 4 0 255 128, fN 5 0 1 0, fN 6 1 23 6] ++
  (List.range 4).map (fun i => fAny (0x10 + i) 0xFFFFFFFF) ++ (List.range 4).map (fun i => fAny (0x20 + i) 0)

/-- The fields of a record type, in ascending ID; none for an unknown type. -/
def fieldsOf (type : Nat) : List FDef :=
  if type = 0x0001 then fieldsStartup
  else if type = 0x0002 then [fN 1 60 3600 600, fN 2 1 3 3]
  else if type = 0x0003 then fieldsTransport
  else if type = 0x0101 then fieldsPower
  else if type = 0x0201 then fieldsTime
  else if type = 0x0301 then fieldsFront
  else if type = 0x0302 ∨ type = 0x0402 then fieldsRffe
  else if type = 0x0501 then fieldsTx
  else if type = 0x0601 then fieldsChn
  else if type = 0x0602 then fieldsCh
  else if type = 0x0701 then fieldsPhy
  else if type = 0x0702 then fieldsDem
  else if type = 0x0801 then fieldsFrm
  else if type = 0x0901 then fieldsNode
  else if type = 0x0A01 then fieldsFwd
  else if type = 0x0B01 then fieldsSch
  else if type = 0x0B02 then fieldsQSel
  else if type = 0x0B03 then fieldsPSel
  else if 0x0B10 ≤ type ∧ type < 0x0B18 then fieldsShaper (type - 0x0B10)
  else if 0x0B20 ≤ type ∧ type < 0x0B30 then fieldsPolicer (type - 0x0B20)
  else if 0x0B40 ≤ type ∧ type < 0x0B80 then fieldsQueue (type - 0x0B40)
  else if type = 0x0C01 then fieldsEth
  else if type = 0x0D01 then fieldsPair
  else if type = 0x0F01 then fieldsApc
  else if type = 0x1001 then fieldsRwd
  else []

/-- Every record type, ascending. -/
def recordTypes : List Nat :=
  [0x0001, 0x0002, 0x0003, 0x0101, 0x0201, 0x0301, 0x0302, 0x0402, 0x0501, 0x0601, 0x0602, 0x0701, 0x0702, 0x0801,
   0x0901, 0x0A01, 0x0B01, 0x0B02, 0x0B03] ++ (List.range 8).map (0x0B10 + ·) ++ (List.range 16).map (0x0B20 + ·) ++
  (List.range 64).map (0x0B40 + ·) ++ [0x0C01, 0x0D01, 0x0F01, 0x1001]

/-- The type is known (R97, step 1). -/
def knownType (type : Nat) : Bool := !(fieldsOf type).isEmpty

/-- The field with an ID of a type. -/
def fieldOf (type id : Nat) : Option FDef := (fieldsOf type).find? fun f => f.id = id

/-- Default of a field (R97). -/
def fieldDflt (type id : Nat) : Nat := ((fieldOf type id).map FDef.dflt).getD 0

/-- Key of a field in the maps of the configuration. -/
def fkey (type id : Nat) : Nat := 0x10000 * type + id

/-- Running value of a field, as its 32-bit code. -/
def cfgGet (s : Chip) (type id : Nat) : Nat := (lookupIn s.cfg.run (fkey type id)).getD (fieldDflt type id)

/-- Running value of a signed field. -/
def cfgGetI (s : Chip) (type id : Nat) : Int := toS 32 (cfgGet s type id)

/-- Sets a running value. -/
def cfgSet (type id v : Nat) (s : Chip) : Chip :=
  { s with cfg := { s.cfg with run := insertIn s.cfg.run (fkey type id) v } }

/-- VALUE as the number it stands for: signed only in a field whose range starts below 0 (R95, R277, R335). -/
def valueOf (lo : Int) (v : Nat) : Int := if lo < 0 then toS 32 v else (v : Int)

/-- A value brought into its field's range, and the report reason of the change, 0 for none (R97). A value that is both
below a part's minimum and nonzero in reserved bits has one reason, by whether the parts as read sum below the parts as
applied (R59: CREDIT 0 with reserved bits is 0x01; DESIGN CHOICE, assumption 98). -/
def Legal.fix (l : Legal) (v : Nat) : Nat × Nat :=
  match l with
  | .num lo hi step =>
    let x := valueOf lo v
    if x < lo then (ofS 32 lo, 0x01)
    else if hi < x then (ofS 32 hi, 0x02)
    else
      let r := (x - lo) % step
      if r = 0 then (v, 0)
      else if 2 * r ≤ step then (ofS 32 (x - r), 0x03)
      else (ofS 32 (min hi (x - r + step)), 0x03)
  | .oneOf l =>
    let x := valueOf (l.head?.getD 0) v
    if l.contains x then (v, 0)
    else
      match l.head?, l.getLast? with
      | some lo, some hi =>
        if x < lo then (ofS 32 lo, 0x01)
        else if hi < x then (ofS 32 hi, 0x02)
        else
          let best := l.foldl (fun b y => if (x - y).natAbs < (x - b).natAbs then y else b) lo
          (ofS 32 best, 0x03)
      | _, _ => (v, 0)
  | .parts ps =>
    let fixed := sumN (ps.map fun p => clampN p.2.2.1 p.2.2.2 (fld v p.1 p.2.1) * 2 ^ p.1)
    let kept := sumN (ps.map fun p => fld v p.1 p.2.1 * 2 ^ p.1)
    if fixed = v then (v, 0)
    else if kept < fixed then (fixed, 0x01)
    else if fixed < kept then (fixed, 0x02)
    else (fixed, 0x03)
  | .overhead =>
    let o := toS 16 v
    let fixed := ofS 16 (clampI (-32) 255 o) + 65536 * fld v 16 1
    if o < -32 then (fixed, 0x01)
    else if 255 < o then (fixed, 0x02)
    else if fixed = v then (v, 0)
    else (fixed, 0x03)

end Sys2Proof.Machine
end

