-- ==== Sys2Proof/Machine/Ops.lean ====
section
/-! DEFINITION. The operations that the commands share: time and stamps, raising an event, looking up, checking and
completing a command of the Ubfen protocol, power domains, free values. -/

namespace Sys2Proof.Machine

/-- What a meaning answers. -/
abbrev Out := Host.Outcome State Fault Refusal

/-- A command's effect on everything but the queue. -/
abbrev Eff := Host.Outcome Chip Fault Refusal

/-- A meaning: its effect on the chip; the queue of waiting commands stays as it is. -/
def State.on (s : State) (f : Chip → Eff) : Out :=
  match f s.toChip with
  | .next c => .next { s with toChip := c }
  | .fault r => .fault r
  | .refused r => .refused r

/-! ## Status codes (Table 2.9) -/

def stOk : Nat := 0x0000
def stClamped : Nat := 0x0001
def stBusy : Nat := 0x0010
def stTimeout : Nat := 0x0011
def stBadOpcode : Nat := 0x0020
def stBadParam : Nat := 0x0021
def stBadCrc : Nat := 0x0022
def stNoCredit : Nat := 0x0023
def stBadVersion : Nat := 0x0024
def stTagInUse : Nat := 0x0025
def stSeqGap : Nat := 0x0026
def stBadLength : Nat := 0x0027
def stNotFound : Nat := 0x0028
def stDenied : Nat := 0x0029
def stAbortedDisabled : Nat := 0x0030
def stAbortedFlush : Nat := 0x0031
def stAbortedPreempt : Nat := 0x0032
def stTxLate : Nat := 0x0040
def stTxLateSynth : Nat := 0x0041
def stTxQueueFull : Nat := 0x0042
def stRxLostCollision : Nat := 0x0048
def stRxHdrCrc : Nat := 0x0049
def stRxPayloadCrc : Nat := 0x004A
def stRxAuthFail : Nat := 0x004B
def stSleepRefused : Nat := 0x0050
def stWakeFail : Nat := 0x0051
def stTampered : Nat := 0x0060
def stKeyExhausted : Nat := 0x0061
def stKeyOrphaned : Nat := 0x0062
def stAttrDenied : Nat := 0x0063
def stSigInvalid : Nat := 0x0064
def stLifecycle : Nat := 0x0065
def stTamperHold : Nat := 0x0066
def stImageRejected : Nat := 0x0070
def stRollback : Nat := 0x0071
def stIncompatible : Nat := 0x0072
def stTimeJumpRefused : Nat := 0x0080
def stTimeUnlocked : Nat := 0x0081
def stTornRecord : Nat := 0x0090
def stDefaulted : Nat := 0x0091

/-! ## Durations in ns -/

def nsUs : Nat := 1000
def nsMs : Nat := 1000000
def nsSec : Nat := 1000000000

/-! ## Time domains and stamps (R255, R256, R258) -/

/-- Domain `d`. -/
def tdGet (s : Chip) (d : Nat) : TimeDom := if d = 0 then s.time.td0 else s.time.td1

/-- Changes domain `d`. -/
def tdUpd (d : Nat) (f : TimeDom → TimeDom) (s : Chip) : Chip :=
  if d = 0 then { s with time := { s.time with td0 := f s.time.td0 } }
  else { s with time := { s.time with td1 := f s.time.td1 } }

/-- SEC × 10⁹ + NS of a domain. -/
def TimeDom.ns (d : TimeDom) : Nat := d.t / 2 ^ 32

/-- SEC. -/
def TimeDom.sec (d : TimeDom) : Nat := d.ns / nsSec

/-- NS. -/
def TimeDom.nsPart (d : TimeDom) : Nat := d.ns % nsSec

/-- The fraction in units of 2⁻¹⁶ ns. -/
def TimeDom.frac16 (d : TimeDom) : Nat := d.t % 2 ^ 32 / 2 ^ 16

/-- The stamping domain. -/
def stampTd (s : Chip) : TimeDom := tdGet s s.time.stampDom

/-- The nanosecond word of the stamping domain (R256). -/
def nsWord (s : Chip) : Word := w32 (stampTd s).ns

/-- UNLOCKED of a stamp of domain `d` taken now (R258). -/
def unlockedAt (s : Chip) (d : Nat) : Bool := decide ((tdGet s d).st ≠ 1) || !bitOf s.scs.lock 3

/-! ## Free values (DESIGN CHOICE, assumption 3) -/

/-- Draws a value of `w` bits that nothing constrains. -/
def freeNat (w : Nat) (s : Chip) : Nat × Chip :=
  ((Config.free s.freeCtr).toNat % 2 ^ w, { s with freeCtr := s.freeCtr + 1 })

/-! ## Events -/

/-- Severity of a source (Table 2.13): 0 INFO, 1 WARN, 2 ERROR, 3 CRITICAL. -/
def evLevel (src : Nat) : Nat :=
  if [6, 100, 101, 102, 111].contains src then 3
  else if errorSources.contains src then 2
  else if [2, 4, 5, 7, 13, 14, 17, 20, 25, 26, 37, 40, 41, 42, 45, 46, 49, 52, 56, 57, 58, 60, 63, 64, 66, 67, 68, 76,
      77, 78, 79, 81, 82, 84, 85, 86, 90, 91, 96, 97, 104, 105, 109, 110, 114, 115, 118, 121, 123, 127].contains src then 1
  else 0

/-- A reserved source of Table 2.13. -/
def evReserved (src : Nat) : Bool := [54, 55, 69, 70, 71].contains src

/-- TRIG_EN of a source (Table 17.7). -/
def trigEn (s : Chip) (src : Nat) : Bool := bitOf (cfgGet s 0x1001 (0x20 + src / 32)) (src % 32)

/-- A raise of source `src` in the stamping domain; it reaches the executive at EVENT_RECORD_WRITE (R70), and Rewind,
while it captures or is frozen, at RWD_TRIGGER (R486). -/
def raise (src payload : Nat) (s : Chip) : Chip :=
  { s with ev := { s.ev with
      trigs := if trigEn s src && within 1 3 s.rwd.st then s.ev.trigs ++ [src] else s.ev.trigs
      raised := s.ev.raised ++ [⟨src, payload % 2 ^ 64, nsWord s, unlockedAt s s.time.stampDom, s.ev.raiseNo⟩]
      raiseNo := s.ev.raiseNo + 1 } }

/-- Key of a rate limit. -/
def limKey (src idx : Nat) : Nat := 65536 * src + idx

/-- No record of this limit within the last `period` ns. -/
def limFree (src idx period : Nat) (s : Chip) : Bool :=
  match lookupIn s.ev.limits (limKey src idx) with
  | none => true
  | some t => decide (t + period ≤ s.now)

/-- A raise that is made at most once per `period` ns. -/
def raiseLim (src idx period payload : Nat) (s : Chip) : Chip :=
  if limFree src idx period s then
    raise src payload { s with ev := { s.ev with limits := insertIn s.ev.limits (limKey src idx) s.now } }
  else s

/-- A raise of which at most `n` are made per second (limits `idx + 0 … idx + n - 1`). -/
def raiseUpTo (src idx n payload : Nat) (s : Chip) : Chip :=
  match (List.range n).find? fun i => limFree src (idx + i) nsSec s with
  | some i => raiseLim src (idx + i) nsSec payload s
  | none => s

/-- Counts in an event counter. -/
def bump (addr k : Nat) (s : Chip) : Chip := { s with cnt := s.cnt.upd addr fun x => satAdd 0xFFFFFFFF x k }

/-- A start-up field in force at this boot (R103). -/
def bootCfg (s : Chip) (id : Nat) : Nat := (lookupIn s.cfg.atBoot (fkey 0x0001 id)).getD (fieldDflt 0x0001 id)

/-- PAIR_MODE (Table 3.10). -/
def pairMode (s : Chip) : Nat := bootCfg s 2

/-! ## Power domains and registers -/

/-- PDk is on (R19). -/
def pdOn (s : Chip) (k : Nat) : Bool := bitOf s.pwr.domOn k

/-- The port (2: the pair link) is named off in Breeze, or its pads are latched (Tables 16.1 and 16.7). -/
def portHeld (s : Chip) (p : Nat) : Bool := bitOf s.pwr.portsOff p || bitOf s.pd0.latch 9

/-- PDk goes down in the transition under way: its blocks start no new work (Table 16.2). -/
def goingDown (s : Chip) (k : Nat) : Bool :=
  match s.pwr.trans with
  | some t => bitOf t.down k
  | none => false

/-- An application core. -/
def coreOf (s : Chip) (n : Nat) : Core := s.apc.cores.get n

/-- RUNNING or IDLE (Table 15.1). -/
def coreLive (s : Chip) (n : Nat) : Bool := within 2 3 (coreOf s n).st && pdOn s 2

/-- Index of a band: 0 A, 1 B. -/
def bandIdx : Band → Nat
  | .bandA => 0
  | .bandB => 1

/-- Power domain of a band's receiver. -/
def bandPd (b : Nat) : Nat := 3 + b

/-! ## Commands (R61, R64, R65) -/

/-- The uncompleted command that a reference names. -/
def findCmd (c : CmdRef) (s : Chip) : Option Cmd :=
  s.ubfen.cmds.find? fun m => m.tr = c.tr.val && m.tag = c.tag && m.done.isNone

/-- Changes the uncompleted command that a reference names. -/
def updCmd (c : CmdRef) (f : Cmd → Cmd) (s : Chip) : Chip :=
  { s with ubfen := { s.ubfen with
      cmds := s.ubfen.cmds.map fun m => if m.tr = c.tr.val && m.tag = c.tag && m.done.isNone then f m else m } }

/-- Key of a stream (R51). -/
def streamKey (tr cls : Nat) : Nat := 16 * tr + cls

/-- Adds an admission number with its instant to the ones of the last 10 ms, all that R64's wait looks back to. -/
def noteNo (no now : Nat) (l : List (Nat × Nat)) : List (Nat × Nat) :=
  l.filter (fun p => decide (now < p.2 + 10 * nsMs)) ++ [(no, now)]

/-- Newest instant noted for an admission number before `no`. -/
def newestBefore (no : Nat) (l : List (Nat × Nat)) : Nat :=
  ((l.filter fun p => decide (p.1 < no)).map Prod.snd).foldl max 0

/-- Notes the acceptance point of a command in its stream. -/
def noteAccept (m : Cmd) (s : Chip) : Chip :=
  { s with ubfen := { s.ubfen with
      streams := s.ubfen.streams.upd (streamKey m.tr m.cls) fun r => { r with accepts := noteNo m.no s.now r.accepts } } }

/-- A packet: header (Table 2.1), field, CRC (R49). -/
def packet (flags opcode tag cls : Nat) (seq status outst : Nat) (body : Bytes) : Bytes :=
  let h := wr 1 1 ++ wr 1 flags ++ wr 2 opcode ++ wr 1 tag ++ wr 1 cls ++ wr 2 body.length ++ wr 4 seq ++ wr 2 status ++
    wr 2 outst ++ body
  h ++ wr 4 (crc32c h)

/-- Admitted, uncompleted commands of a transport (R60, Table 2.1). -/
def uncompleted (tr : Nat) (s : Chip) : Nat := (s.ubfen.cmds.filter fun m => m.tr = tr && m.done.isNone).length

/-- The reply of a completed command (Table 2.1). -/
def replyPacket (m : Cmd) (st : Nat) (res : Bytes) (s : Chip) : Bytes :=
  packet 1 m.opcode m.tag.toNat m.cls m.seq.toNat st (uncompleted m.tr s) res

/-- Keeps the reply of a command that has just completed among the stream's newest 16 (R63). -/
def keepReply (m : Cmd) (st : Nat) (res : Bytes) (s : Chip) : Chip :=
  { s with ubfen := { s.ubfen with
      streams := s.ubfen.streams.upd (streamKey m.tr m.cls) fun r =>
        { r with kept := ((m.seq, replyPacket m st res s) :: r.kept).take 16 } } }

/-- The command reaches its acceptance point (R64). -/
def acceptCmd (c : CmdRef) (s : Chip) : Chip :=
  match findCmd c s with
  | some m =>
    if m.accepted then s else noteAccept m (updCmd c (fun m => { m with accepted := true }) s)
  | none => s

/-- The command completes: its status and its result, padded (R48), and its reply is kept (R63). -/
def complete (c : CmdRef) (st : Nat) (res : Bytes) (s : Chip) : Chip :=
  match findCmd c s with
  | some m =>
    let s := if m.accepted then s else noteAccept m s
    let s := { s with ubfen := { s.ubfen with doneAt := s.ubfen.doneAt.upd m.tr (noteNo m.no s.now) } }
    keepReply m st (pad4 res)
      (updCmd c (fun m => { m with accepted := true, done := some (st, pad4 res, s.ev.raiseNo) }) s)
  | none => s

/-- Result of ST_BAD_PARAM: the offset of the first offending byte (Table 2.9). -/
def badOff (off : Nat) : Bytes := wr 2 off ++ zeros 2

/-- Completion with ST_BAD_PARAM at an offset. -/
def badParam (c : CmdRef) (off : Nat) (s : Chip) : Chip := complete c stBadParam (badOff off) s

/-- The command that runs: named, started, not yet at its acceptance point, and of this opcode. -/
def runnable (c : CmdRef) (op : Nat) (s : Chip) : Option Cmd :=
  match findCmd c s with
  | some m => if m.startedAt.isSome && !m.accepted && m.opcode = op then some m else none
  | none => none

/-- Runs a command's effect; a reference that names no such command changes nothing (DESIGN CHOICE, assumption 5). -/
def runCmd (c : CmdRef) (op : Nat) (s : Chip) (f : Cmd → Chip → Chip) : Eff :=
  match runnable c op s with
  | some m => .next (f m s)
  | none => .next s

/-- First failing check of a list of (offset, passes). -/
def firstBad : List (Nat × Bool) → Option Nat
  | [] => none
  | (off, ok) :: l => if ok then firstBad l else some off

/-- A check of the byte at `off`. -/
def ck (off : Nat) (ok : Prop) [Decidable ok] : Nat × Bool := (off, decide ok)

/-- The `n` bytes at `off` must be zero (R8, ST_BAD_PARAM of Table 2.9). -/
def zeroAt (p : Bytes) (off n : Nat) : List (Nat × Bool) := (List.range n).map fun i => ck (off + i) (rd p (off + i) 1 = 0)

/-- Bits of a byte outside `mask` must be zero. -/
def maskAt (p : Bytes) (off mask : Nat) : List (Nat × Bool) := [ck off (rd p off 1 &&& mask = rd p off 1)]

/-- Parameter checks of a command, then its effect. -/
def checked (c : CmdRef) (checks : List (Nat × Bool)) (f : Chip → Chip) (s : Chip) : Chip :=
  match firstBad checks with
  | some off => badParam c off s
  | none => f s

/-- Reference of a command. -/
def Cmd.ref (m : Cmd) : CmdRef := ⟨⟨m.tr % 11, Nat.mod_lt _ (by decide)⟩, m.tag⟩

/-- EN, CREDIT, GROUPS of a transport (Table 2.7): the running values of its record (R59). -/
def trEn (s : Chip) (t : Nat) : Bool := bitOf (cfgGet s 0x0003 (1 + t)) 0
def trCredit (s : Chip) (t : Nat) : Nat := fld (cfgGet s 0x0003 (1 + t)) 1 8
def trGroups (s : Chip) (t : Nat) : Nat := fld (cfgGet s 0x0003 (1 + t)) 9 16

/-- Applies a step to each index of a list. -/
def forEach {α : Type} (l : List α) (f : α → Chip → Chip) (s : Chip) : Chip := l.foldl (fun s x => f x s) s

/-- R9, R509: a write that an RWL field refuses is counted, and raises EV_LOCK_VIOL at most once per second. -/
def lockViol (addr : Nat) (s : Chip) : Chip :=
  let s := { s with sys := { s.sys with lockCount := satAdd 255 s.sys.lockCount 1, lockAddr := addr % 2 ^ 24 } }
  match s.sys.lockAt with
  | some t => if t + nsSec ≤ s.now then raise 4 (addr % 2 ^ 24) { s with sys := { s.sys with lockAt := some s.now } } else s
  | none => raise 4 (addr % 2 ^ 24) { s with sys := { s.sys with lockAt := some s.now } }

end Sys2Proof.Machine
end

