-- ==== Sys2Proof/Machine/Draught.lean ====
section
/-! DEFINITION. Draught queues (R22 to R41, R532): words, items, credits, banks, reading order, flush, disable, and the
commands of the queues and of the descriptor hold. -/

namespace Sys2Proof.Machine

/-- Words of a list of packets. -/
def pktWords (l : List Pkt) : Nat := sumN (l.map fun p => p.words.length)

/-- Words in the filling bank. -/
def Dq.used (q : Dq) : Nat :=
  pktWords q.fill + (match q.opn with | some p => p.words.length | none => 0)

/-- Bank depth (R41). -/
def Dq.depth (q : Dq) : Nat := 2 ^ q.bankLog2

/-- Credits that the producer holds (R26): the free words of the filling bank; none while the queue is disabled or a
flush runs (R36, R37). -/
def Dq.credit (q : Dq) : Nat := if q.en && !q.flushing then q.depth - q.used else 0

/-- Whole packets waiting (R30): those of both banks, and the ABORT item of a packet that a flush cut under read (R34). -/
def Dq.pkts (q : Dq) : Nat := q.drain.length + q.fill.length + b2n (q.under.any fun u => decide (u.pkt.kind = .abort))

/-- The first data word of a packet. -/
def firstWord (ws : List Word) : Word := ws.headD 0

/-- An item of one word (R24, R25). -/
def item (k : Tag) (pri : BitVec 3) (stream : Byte) (cause : BitVec 2) (w : Word) (no : Nat) : Pkt :=
  ⟨k, pri, stream, cause, [w], 0, no⟩

/-- R27: when credit is there, the words lost give one MARK item, EV_DQ_OVERRUN and an overrun. -/
def dqMark (n : Nat) (s : Chip) : Chip :=
  let q := s.dq.get n
  if q.lost > 0 && !q.skip && !q.loseRest && q.opn.isNone && q.credit > 0 then
    let m := item .mark q.lostPri q.lostStream 0 (w32 (min q.lost 0xFFFFFFFF)) q.nextNo
    raise 3 (pack [(0, 16, n), (32, 32, min q.lost 0xFFFFFFFF)])
      { s with dq := s.dq.set n { q with fill := q.fill ++ [m], nextNo := q.nextNo + 1, lost := 0, overrun := true,
                                          overruns := satAdd 0xFFFFFFFF q.overruns 1 } }
  else s

/-- A clocked producer's word is lost (R27): an open packet is lost with it, and so is the rest of that packet even where
credit returns before its END, which R27 leaves open (DESIGN CHOICE, assumption 84). -/
def Dq.lose (q : Dq) (pri : BitVec 3) (stream : Byte) (last : Bool) : Dq :=
  let (pri, stream, k) := match q.opn with
    | some p => (p.pri, p.stream, p.words.length + 1)
    | none => (pri, stream, 1)
  { q with opn := none, loseRest := !last, lost := min 0xFFFFFFFF (q.lost + k)
           lostPri := if q.lost = 0 then pri else q.lostPri
           lostStream := if q.lost = 0 then stream else q.lostStream }

/-- The producer's word meets credit (R26, R31): it opens or continues a packet, and the packet ends with it, or at its
bank's end when it began at the bank's first word. -/
def Dq.accept (q : Dq) (data : Word) (pri : BitVec 3) (stream : Byte) (last : Bool) : Dq :=
  let p : OpenPkt := match q.opn with
    | some p => { p with words := p.words ++ [data] }
    | none => ⟨pri, stream, q.fill.isEmpty, [data]⟩
  if last then
    { q with opn := none, fill := q.fill ++ [⟨.data, p.pri, p.stream, 0, p.words, 0, q.nextNo⟩], fresh := q.fresh + 1
             nextNo := q.nextNo + 1 }
  else if p.first && q.depth ≤ p.words.length then
    { q with opn := none, fill := q.fill ++ [⟨.data, p.pri, p.stream, 0, p.words, 0, q.nextNo⟩], skip := true, trunc := true
             truncs := satAdd 0xFFFFFFFF q.truncs 1, fresh := q.fresh + 1, nextNo := q.nextNo + 1 }
  else { q with opn := some p }

/-- One word from the producer (R26, R27, R31, R33). A software or self-timed producer without credit sets NOCRED, and
the word is discarded; a clocked producer loses it. -/
def dqWrite (n : Nat) (clocked : Bool) (data : Word) (pri : BitVec 3) (stream : Byte) (last : Bool) (s : Chip) : Chip :=
  let q := s.dq.get n
  if q.skip then
    dqMark n { s with dq := s.dq.set n { q with skip := !last } }
  else if q.loseRest then
    dqMark n { s with dq := s.dq.set n { q with loseRest := !last, lost := min 0xFFFFFFFF (q.lost + 1) } }
  else if q.credit = 0 then
    if clocked then dqMark n { s with dq := s.dq.set n (q.lose pri stream last) }
    else { s with dq := s.dq.set n { q with noCred := true } }
  else { s with dq := s.dq.set n (q.accept data pri stream last) }

/-- The words of the packets that wait are written while there is credit, each in turn (R26, R27); the rest of a packet
that was truncated, or that was open when a flush struck, is discarded (R31, R33). -/
def pumpGo : Nat → Dq → Dq
  | 0, q => q
  | k + 1, q =>
    match q.wait with
    | [] => q
    | p :: rest =>
      if q.skip then pumpGo k { q with wait := rest, skip := false }
      else if q.credit = 0 then q
      else
        let last := decide (p.words.length ≤ 1)
        let q := { q with wait := if last then rest else { p with words := p.words.drop 1 } :: rest }
        pumpGo k (q.accept (firstWord p.words) p.pri p.stream last)

/-- The words that can be written are. -/
def Dq.pump (q : Dq) : Dq := pumpGo (pktWords q.wait + q.wait.length) q

/-- Changes queue `n`. -/
def dqUpd (n : Nat) (f : Dq → Dq) (s : Chip) : Chip := { s with dq := s.dq.upd n f }

/-- A self-timed block writes a whole packet, which waits for credit where there is none (R26, R27). -/
def dqPutPacket (n : Nat) (pri : BitVec 3) (stream : Byte) (ws : List Word) (s : Chip) : Chip :=
  if ws.isEmpty then s
  else dqUpd n (fun q => Dq.pump { q with wait := q.wait ++ [⟨.data, pri, stream, 0, ws, 0, 0⟩] }) s

/-- A downlink packet waits for the frame engine in queue 88, behind a word with its origin, priority and length, the
model's form of it: origin 0 or 1 a port, 2 a routed uplink frame, 4 or 5 a TYPE 2 packet of a port. -/
def putDown (origin pri : Nat) (pkt : Bytes) (s : Chip) : Chip :=
  dqPutPacket 88 0 0 (w32 (origin + 16 * pri + 256 * pkt.length) :: wordsOf pkt) s

/-- The banks may swap (R28). -/
def Dq.canSwap (q : Dq) : Bool :=
  q.drain.isEmpty && q.under.isNone && !q.fill.isEmpty && q.opn.isNone && !q.flushing

/-- The banks swap (R28). -/
def Dq.swap (q : Dq) : Dq := { q with drain := q.fill, fill := [] }

/-- The open packet may be carried over (R532): it did not begin at its bank's first word, its bank is full, and the
draining bank holds nothing. -/
def Dq.canCarry (q : Dq) : Bool :=
  match q.opn with
  | some p => !p.first && decide (q.depth ≤ q.used) && q.drain.isEmpty && q.under.isNone && !q.flushing
  | none => false

/-- The carry-over: the open packet moves to the start of the newly filling bank (R532). -/
def Dq.carry (q : Dq) : Dq :=
  { q with drain := q.fill, fill := [], opn := q.opn.map fun p => { p with first := true } }

/-- The packet that R29 selects from the draining bank. -/
def selectPkt : List Pkt → Option Pkt
  | [] => none
  | p :: l =>
    match selectPkt l with
    | some r => if p.pri.toNat < r.pri.toNat then some r else some p
    | none => some p

/-- The word that the next read returns, with its sideband: END, TAG, PRI, STREAM, CAUSE, data; the IDLE item when
there is none (R23, R29, R30). -/
structure Head where
  last : Bool
  tag : Nat
  pri : BitVec 3
  stream : Byte
  cause : BitVec 2
  data : Word
deriving DecidableEq, Repr

/-- The IDLE item (R23). -/
def idleHead : Head := ⟨true, 0b01, 0, 0, 0, 0x000003FF⟩

/-- TAG code (Table 1.5). -/
def Tag.code : Tag → Nat
  | .data => 0b00
  | .abort => 0b10
  | .mark => 0b11

/-- A word of a packet with `rest` words from it on. -/
def headOf (p : Pkt) (rest : List Word) : Head :=
  ⟨decide (rest.length ≤ 1), p.kind.code, p.pri, p.stream, p.cause, firstWord rest⟩

/-- The head word of a queue (R39). -/
def Dq.head (q : Dq) : Head :=
  if q.flushing then idleHead
  else match q.under with
    | some u => headOf u.pkt u.rest
    | none => match selectPkt q.drain with
      | some p => headOf p p.words
      | none => idleHead

/-- Removes the head word (R29, R30). -/
def Dq.pop (q : Dq) : Dq :=
  if q.flushing then q
  else match q.under with
    | some u => { q with under := if u.rest.length ≤ 1 then none else some { u with rest := u.rest.drop 1 } }
    | none => match selectPkt q.drain with
      | some p => { q with drain := q.drain.erase p
                           under := if p.words.length ≤ 1 then none else some ⟨p, p.words.drop 1⟩ }
      | none => q

/-- Removes the whole next packet, as a block consumer reads it (R29). -/
def Dq.popPacket (q : Dq) : Option Pkt × Dq :=
  if q.flushing then (none, q)
  else match selectPkt q.drain with
    | some p => (some p, { q with drain := q.drain.erase p })
    | none => (none, q)

/-- A packet of DATA words turns into its ABORT item; ABORT and MARK items stay (R24, R32). -/
def Pkt.aborted (cause : BitVec 2) (p : Pkt) : Pkt :=
  match p.kind with
  | .data => { item .abort p.pri p.stream cause (firstWord p.words) p.no with ref := p.words.getD 3 0 }
  | _ => p

/-- A flush (R32 to R34, R36): both banks turn into ABORT items; that of the packet under read is what the consumer's next
read returns, that of the open packet comes last, and the rest of the open packet will be discarded. -/
def Dq.flush (cause : BitVec 2) (q : Dq) : Dq :=
  if q.flushing then q
  else
    let back := match q.opn with
      | some p => [{ item .abort p.pri p.stream cause (firstWord p.words) q.nextNo with ref := p.words.getD 3 0 }]
      | none => []
    { q with flushing := true, drain := q.drain.map (Pkt.aborted cause)
             fill := q.fill.map (Pkt.aborted cause) ++ back, opn := none
             under := q.under.map fun u => ⟨Pkt.aborted cause u.pkt, (Pkt.aborted cause u.pkt).words⟩
             skip := q.skip || q.opn.isSome, nextNo := q.nextNo + b2n q.opn.isSome }

/-- Disable (R37). -/
def Dq.disable (q : Dq) : Dq := if q.en then { q.flush 0b01 with en := false } else q

/-- Re-enable (R37): the items not yet read are counted in one MARK item. -/
def Dq.enable (q : Dq) : Dq :=
  if q.en then q
  else
    let k := q.drain.length + q.fill.length + b2n q.under.isSome
    { q with en := true, under := none, opn := none, fill := []
             drain := if k = 0 then [] else [item .mark 0 0 0 (w32 k) q.nextNo], nextNo := q.nextNo + 1 }

/-- Software is the consumer of queues 0–31 and the producer of queues 32–63 (R38). -/
def swConsumer (n : Nat) : Bool := decide (n < 32)

/-- The software queues that core `c` reaches through its window (R423): its mailbox pair and the queues that are no
core's mailbox. -/
def coreQueue (c n : Nat) : Bool :=
  decide (n = 24 + c ∨ n = 56 + c) || !(within 24 31 n || within 56 63 n)

/-- Whether a requester reaches queue `n`: a core does while it runs. -/
def reaches (who : Requester) (n : Nat) (s : Chip) : Bool :=
  match who with
  | .executive => true
  | .core c => coreLive s c.val && coreQueue c.val n

/-- Index of a requester in the registers of returned values. -/
def reqIdx : Requester → Nat
  | .executive => 0
  | .core c => 1 + c.val

/-- Gives a requester the value it reads. -/
def setLoad (who : Requester) (v : Word) (s : Chip) : Chip :=
  { s with ubfen := { s.ubfen with loads := s.ubfen.loads.set (reqIdx who) v } }

/-- SYS_DQ_CTRLn (Table 1.7). -/
def dqCtrl (q : Dq) : Nat := pack [(0, 1, b2n q.en), (8, 4, q.bankLog2)]

/-- SYS_DQ_STATn (Table 1.8). -/
def dqStat (q : Dq) : Nat :=
  pack [(0, 14, q.pkts), (14, 13, q.credit), (27, 1, b2n q.flushing), (28, 1, b2n q.noCred), (29, 1, b2n q.trunc),
    (30, 1, b2n q.overrun)]

/-- SYS_DQ_SIDEn (Table 1.9, R39). -/
def dqSide (n : Nat) (q : Dq) : Nat :=
  if swConsumer n then
    let h := q.head
    pack [(0, 1, b2n h.last), (1, 2, h.tag), (3, 3, h.pri.toNat), (6, 2, h.cause.toNat), (8, 8, h.stream.toNat)]
  else pack [(0, 1, b2n q.sideEnd), (1, 2, q.sideTag.toNat), (3, 3, q.sidePri.toNat), (8, 8, q.sideStream.toNat)]

/-- SYS_DQ_DATAn as a read returns it (Table 1.10). -/
def dqData (n : Nat) (q : Dq) : Word := if swConsumer n then q.head.data else 0x000003FF

/-- The completion status of an ABORT item (R35). -/
def causeStatus (c : BitVec 2) : Nat :=
  if c = 0 then stAbortedFlush else if c = 1 then stAbortedDisabled else if c = 2 then stAbortedPreempt else stTampered

/-- Software queue on which the block consumer of a queue completes its items: injections on 3 (R297), Ethernet
transmissions on 4 (R343). -/
def complQueue (n : Nat) : Option Nat := if n = 32 then some 3 else if n = 33 ∨ n = 34 then some 4 else none

/-- Completions of injected frames leave in injection order (R297): each whose frame has no earlier one still in queue 32.
`k` bounds the number that leave. -/
def injectOut : Nat → Chip → Chip
  | 0, s => s
  | k + 1, s =>
    let q := s.dq.get 32
    let waits := fun n => (q.drain ++ q.fill ++ q.hand ++ (q.under.map UnderRead.pkt).toList).any fun p =>
      decide (p.kind ≠ .mark ∧ p.no < n)
    match s.fe.injDone.find? fun d => !waits d.1 && s.fe.injDone.all fun e => decide (d.1 ≤ e.1) with
    | some d =>
      injectOut k (dqPutPacket 3 0 0 [d.2.1, w32 d.2.2] { s with fe := { s.fe with injDone := s.fe.injDone.erase d } })
    | none => s

/-- The frame with number `no` of queue 32 completes: REF and status (R297). -/
def injectDone (no : Nat) (ref : Word) (st : Nat) (s : Chip) : Chip :=
  let s := { s with fe := { s.fe with injDone := s.fe.injDone ++ [(no, ref, st)] } }
  injectOut s.fe.injDone.length s

/-- A block consumer completes an ABORT item in its place (R35): an injection with its REF on queue 3, an Ethernet frame
with its first word on queue 4. For every other queue no rule gives a completion item: the reference and the status are
noted at the queue (DESIGN CHOICE, assumption 83). -/
def abortCompletion (n : Nat) (p : Pkt) (s : Chip) : Chip :=
  if n = 32 then injectDone p.no p.ref (causeStatus p.cause) s
  else match complQueue n with
    | some r => dqPutPacket r 0 p.stream [firstWord p.words, w32 (causeStatus p.cause)] s
    | none => dqUpd n (fun q => { q with aborts := q.aborts ++ [(firstWord p.words, causeStatus p.cause)] }) s

/-- A receive descriptor as its packet holds it (R222): 8 words, and the LEN bytes of a frame when there is one; with the
source address that the array has passed (R224). -/
def descOf (s : Chip) (p : Pkt) : RxDesc :=
  let ws := p.words.take 8
  ⟨ws, (bytesOf (p.words.drop 8)).take (fld (ws.getD 3 0).toNat 16 11),
    (s.fe.srcs.find? fun e => e.1 = ws.getD 7 0).bind fun e => e.2, s.now⟩

/-- A descriptor packet enters the hold of the frame engine (R43). -/
def takeDesc (p : Pkt) (s : Chip) : Chip :=
  let d := descOf s p
  { s with fe := { s.fe with srcs := s.fe.srcs.filter fun e => e.1 ≠ d.words.getD 7 0, held := s.fe.held ++ [d] } }

/-- The banks swap when R28 holds; words lost before give their MARK item (R27), and waiting words enter. -/
def swapBanks (n : Nat) (s : Chip) : Chip :=
  if (s.dq.get n).canSwap then dqUpd n Dq.pump (dqMark n (dqUpd n Dq.swap s)) else s

/-- What a block consumer does with an item that it takes: an ABORT item completes (R35), a receive descriptor enters the
hold, and every other packet waits at hand. -/
def consume (n : Nat) (p : Pkt) (s : Chip) : Chip :=
  match p.kind with
  | .abort => abortCompletion n p s
  | .mark => dqUpd n (fun q => { q with hand := q.hand ++ [p] }) s
  | .data => if n = 87 then takeDesc p s else dqUpd n (fun q => { q with hand := q.hand ++ [p] }) s

/-! ## The commands -/

/-- DQ_WORD_WRITE: a block producer writes one word (R26, R27, R31). Software queues 32–63 have no block producer. -/
def execDqWordWrite (n : QId) (clocked : Bool) (data : Word) (pri : BitVec 3) (stream : Byte) (last : Bool) (s : State) : Out :=
  s.on fun s =>
  if 32 ≤ n.val ∧ n.val < 64 then .fault .illFormed
  else if (s.dq.get n.val).credit = 0 ∧ !clocked ∧ !(s.dq.get n.val).skip then .next s
  else .next (dqWrite n.val clocked data pri stream last s)

/-- DQ_BANK_SWAP (R28). -/
def execDqBankSwap (n : QId) (s : State) : Out :=
  s.on fun s =>
  .next (swapBanks n.val s)

/-- DQ_CARRY_OVER (R532). -/
def execDqCarryOver (n : QId) (s : State) : Out :=
  s.on fun s =>
  .next (if (s.dq.get n.val).canCarry then dqUpd n.val Dq.pump (dqMark n.val (dqUpd n.val Dq.carry s)) else s)

/-- DQ_PACKET_READ: a block consumer takes the next packet (R29), and completes an ABORT item (R35). -/
def execDqPacketRead (n : QId) (s : State) : Out :=
  s.on fun s =>
  if n.val < 32 then .fault .illFormed
  else match (s.dq.get n.val).popPacket with
    | (none, _) => .next s
    | (some p, q) => .next (consume n.val p { s with dq := s.dq.set n.val q })

/-- SYS_DQ_DATA_READ: a software read of SYS_DQ_DATAn (R30, R38, R39, R503). -/
def execSysDqDataRead (n : Fin 64) (who : Requester) (s : State) : Out :=
  s.on fun s =>
  .next (if !reaches who n.val s then s
    else
      let q := s.dq.get n.val
      let s := setLoad who (dqData n.val q) s
      if swConsumer n.val then { s with dq := s.dq.set n.val q.pop } else s)

/-- The word that software appends to a producer queue with the sideband of SYS_DQ_SIDEn (Table 1.10, R40). -/
def swAppend (n : Nat) (data : Word) (s : Chip) : Chip :=
  let q := s.dq.get n
  dqWrite n false data q.sidePri q.sideStream q.sideEnd s

/-- SYS_DQ_DATA_WRITE: a software write to SYS_DQ_DATAn; ignored on a consumer queue. -/
def execSysDqDataWrite (n : Fin 64) (who : Requester) (data : Word) (s : State) : Out :=
  s.on fun s =>
  .next (if reaches who n.val s && !swConsumer n.val then swAppend n.val data s else s)

/-- DQ_ENABLE: EN is written 1 (R37). -/
def execDqEnable (n : Fin 64) (who : Requester) (s : State) : Out :=
  s.on fun s =>
  .next (if reaches who n.val s then
      let s := dqUpd n.val Dq.pump (dqMark n.val (dqUpd n.val Dq.enable s))
      if n.val = 32 then injectOut s.fe.injDone.length s else s
    else s)

/-- DQ_DISABLE: EN is written 0 (R37). -/
def execDqDisable (n : Fin 64) (who : Requester) (s : State) : Out :=
  s.on fun s =>
  .next (if reaches who n.val s then dqUpd n.val Dq.disable s else s)

/-- DQ_FLUSH: FLUSH is written 1 (R32, R36). -/
def execDqFlush (n : Fin 64) (who : Requester) (s : State) : Out :=
  s.on fun s =>
  .next (if reaches who n.val s then dqUpd n.val (Dq.flush 0b00) s else s)

/-- DQ_FLUSH_DONE: the flush ends, credit returns (Table 1.6, step 3; R27). -/
def execDqFlushDone (n : QId) (s : State) : Out :=
  s.on fun s =>
  .next (if (s.dq.get n.val).flushing then
      dqUpd n.val Dq.pump (dqMark n.val (dqUpd n.val (fun q => { q with flushing := false }) s))
    else s)

end Sys2Proof.Machine
end

