-- ==== Sys2Proof/Machine/Ubfen.lean ====
section
/-! DEFINITION. The Ubfen protocol: packets, transports, admission, start, order and replies (R47 to R68, R80). -/

namespace Sys2Proof.Machine

/-! ## Packets (R47 to R50) -/

/-- The empty packet (R50). -/
def emptyPacket : Bytes := wr 4 0x000003FF ++ zeros 16

/-- The CRC trailer of a packet holds (R49). -/
def crcOk (pkt : Bytes) : Bool :=
  decide (crc32c (pkt.take (pkt.length - 4)) = rd pkt (pkt.length - 4) 4)

/-! ## Sending -/

/-- Address octets of a port (Table 12.8, R511). -/
def macOf (hi lo : Nat) : Bytes :=
  [byte (hi / 256), byte hi, byte (lo / 2 ^ 24), byte (lo / 2 ^ 16), byte (lo / 2 ^ 8), byte lo]

/-- ID of field `k` of port `p` in the Ethernet record (R364). -/
def ethId (p k : Nat) : Nat := 0x100 + 0x20 * p + k

/-- MAC address of port `p`. -/
def portMac (p : Nat) (s : Chip) : Bytes := macOf (cfgGet s 0x0C01 (ethId p 0)) (cfgGet s 0x0C01 (ethId p 1))

/-- A management frame without its FCS (Table 2.6); `tag` is its 802.1Q tag, or nothing. -/
def mgmtFrame (dst src tag pkt : Bytes) : Bytes :=
  let f := dst ++ src ++ tag ++ [0x88, 0xB5, 0x55, 0x42, 0x01, 0x00] ++ pkt
  f ++ zeros (60 - f.length)

/-! ## Egress queues of the Ethernet ports (R339, R342, R343) -/

def ethUpd (p : Nat) (f : EthPort → EthPort) (s : Chip) : Chip := { s with eth := s.eth.upd p f }

/-- Address of a counter of port `p` (Table 12.6). -/
def ethCnt (p off : Nat) : Nat := 0x0C0010 + 0x100 * p + off

/-- Field `k` of port `p`. -/
def ethCfg (s : Chip) (p k : Nat) : Nat := cfgGet s 0x0C01 (ethId p k)

/-- Completion of a software frame (R343): its first word, and the status. -/
def ethCompl (t : Option FrameEnd) (st : Nat) (s : Chip) : Chip :=
  match t with
  | some (.item q w) => dqPutPacket q 0 0 [w, w32 st] s
  | _ => s

/-- A software frame that is too long completes; any other counts in OVERSIZE (R342, R343). -/
def oversize (p : Nat) (t : Option FrameEnd) (s : Chip) : Chip :=
  match t with
  | some (.item _ _) => ethCompl t stBadParam s
  | _ => bump (ethCnt p 0x10) 1 s

/-- A frame without its FCS enters an egress queue of a port; one that is too long is discarded, and at a port that is down
it is aborted. -/
def ethQueue (p pcp : Nat) (f : Bytes) (t : Option FrameEnd) (s : Chip) : Chip :=
  if ethCfg s p 4 < f.length + 4 then oversize p t s
  else if !pdOn s 9 || !(s.eth.get p).link then ethCompl t stAbortedDisabled (bump (ethCnt p 0x18) 1 s)
  else ethUpd p (fun e => { e with egress := e.egress.upd pcp fun l => l ++ [(f ++ zeros (60 - f.length), t)] }) s

/-- Sends a packet over a transport; `back` gives a management reply's host address and VLAN tag (R56), `no` the command
that it answers. On Ethernet the frame joins the port's PCP 7 (R342). A mailbox whose queue is disabled discards it (R57). -/
def sendPacket (tr : Nat) (back pkt : Bytes) (no : Option Nat) (s : Chip) : Chip :=
  if tr = 0 then { s with ubfen := { s.ubfen with spiOut := s.ubfen.spiOut ++ [(pkt, no, s.now)] } }
  else if tr ≤ 2 then
    ethQueue (tr - 1) 7 (mgmtFrame (back.take 6) (portMac (tr - 1) s) (back.drop 6) pkt) (no.map .reply) s
  else if (s.dq.get (21 + tr)).en then dqPutPacket (21 + tr) 0 0 (wordsOf pkt) s
  else s

/-! ## Admission (R60 to R63) -/

/-- EV_CMD_REJECT: the rejects of a transport since its previous record, at most one record per 1 ms (Table 2.13). -/
def noteReject (tr tag st : Nat) (s : Chip) : Chip :=
  let (k, at_) := s.ubfen.rejects.get tr
  let due := match at_ with
    | none => true
    | some t => decide (t + nsMs ≤ s.now)
  if due then
    raise 5 (pack [(0, 8, tr), (8, 8, tag), (16, 16, st), (32, 16, k + 1)])
      { s with ubfen := { s.ubfen with rejects := s.ubfen.rejects.set tr (0, some s.now) } }
  else { s with ubfen := { s.ubfen with rejects := s.ubfen.rejects.set tr (k + 1, at_) } }

/-- An admission reject: its reply echoes the header and is sent at once (R60). -/
def reject (tr : Nat) (back pkt : Bytes) (st : Nat) (res : Bytes) (s : Chip) : Chip :=
  let r := packet 1 (rd pkt 2 2) (rd pkt 4 1) (rd pkt 5 1) (rd pkt 8 4) st (uncompleted tr s) res
  noteReject tr (rd pkt 4 1) st (sendPacket tr back r none s)

/-- Check 6 of Table 2.8 (R63): resend a kept reply, or discard a copy of a command in hand. -/
inductive Dup where
  | no
  | kept (reply : Bytes)
  | inHand
deriving DecidableEq, Repr

/-- Whether a SEQUENCE repeats a command of the stream (R63). After STREAM_FLUSH the stream takes any SEQUENCE (R62), and one
that repeats a kept reply or a command in hand is still its duplicate (DESIGN CHOICE, assumption 100). -/
def duplicate (tr cls : Nat) (seq : Word) (s : Chip) : Dup :=
  match (s.ubfen.streams.get (streamKey tr cls)).kept.find? fun k => k.1 = seq with
  | some k => .kept k.2
  | none => if s.ubfen.cmds.any fun m => m.tr = tr && m.cls = cls && m.seq = seq then .inHand else .no

/-- An admitted command takes its place in its stream (R60, R62). -/
def takeIn (tr : Nat) (back pkt : Bytes) (s : Chip) : Chip :=
  let cls := rd pkt 5 1
  let m : Cmd :=
    { tr := tr, cls := cls, tag := byte (rd pkt 4 1), seq := w32 (rd pkt 8 4), opcode := rd pkt 2 2
      flags := byte (rd pkt 1 1), status := rd pkt 12 2, outst := rd pkt 14 2
      params := (pkt.drop 16).take (rd pkt 6 2), back := back, no := s.ubfen.admitted + 1, admittedAt := s.now
      startedAt := none, accepted := false, done := none, work := 0 }
  { s with ubfen := { s.ubfen with
      cmds := s.ubfen.cmds ++ [m], admitted := s.ubfen.admitted + 1
      streams := s.ubfen.streams.upd (streamKey tr cls) fun r => { r with expect := some (w32 (rd pkt 8 4 + 1)) } } }

/-- The admission checks of Table 2.8, in their order (R60). The packet has at least 16 bytes. -/
def admitPacket (tr : Nat) (back pkt : Bytes) (s : Chip) : Chip :=
  if !trEn s tr then s
  else
    let len := rd pkt 6 2
    let cls := rd pkt 5 1
    let seq := w32 (rd pkt 8 4)
    let stream := s.ubfen.streams.get (streamKey tr cls)
    if pkt.length ≠ 20 + len ∨ len % 4 ≠ 0 ∨ 8192 < len then reject tr back pkt stBadLength [] s
    else if rd pkt 0 1 ≠ 1 then reject tr back pkt stBadVersion (wr 4 1) s
    else if !crcOk pkt then reject tr back pkt stBadCrc [] s
    else if rd pkt 1 1 % 4 ≠ 0 then s
    else if 15 < cls then reject tr back pkt stBadParam (badOff 0xFF05) s
    else match duplicate tr cls seq s with
      | .kept r => sendPacket tr back r none s
      | .inHand => s
      | .no =>
        if stream.expect.isSome ∧ stream.expect ≠ some seq then
          reject tr back pkt stSeqGap (wr 4 (stream.expect.getD 0).toNat) s
        else if s.ubfen.cmds.any fun m => m.tr = tr && m.tag.toNat = rd pkt 4 1 && m.done.isNone then
          reject tr back pkt stTagInUse [] s
        else if trCredit s tr ≤ uncompleted tr s then reject tr back pkt stNoCredit [] s
        else if s.ubfen.resetWait.isSome || s.ubfen.cmds.any fun m => m.opcode = 0x0006 && m.done.isNone then
          reject tr back pkt stBusy [] s
        else takeIn tr back pkt s

/-- Size of the SPI input queue (Table 2.5); every packet leaves it within the step that brings it (R53). -/
def spiInputSize : Nat := 16384

/-- SPI_WRITE_PACKET (R53): SHORT and OVERRUN mark every such transaction, also while READY = 0 (Table 2.5). -/
def execSpiWritePacket (data : Bytes) (s : State) : Out :=
  s.on fun s =>
  .next (if !pdOn s 1 then s
    else if data.length < 16 then { s with ubfen := { s.ubfen with spiShort := true } }
    else if spiInputSize < data.length then { s with ubfen := { s.ubfen with spiOverrun := true } }
    else if !s.ubfen.ready then s
    else admitPacket 0 [] data s)

/-- SPI_READ_PACKET: `count` bytes are clocked out; the packet is removed when all of its bytes were (R50, R54). -/
def execSpiReadPacket (count : Nat) (s : State) : Out :=
  s.on fun s =>
  .next (if !pdOn s 1 then s
    else match s.ubfen.spiOut with
      | [] => { s with ubfen := { s.ubfen with spiRead := (emptyPacket ++ zeros (count - 20)).take count } }
      | (p, _) :: rest =>
        let s := { s with ubfen := { s.ubfen with spiRead := (p ++ zeros (count - p.length)).take count } }
        if p.length ≤ count then { s with ubfen := { s.ubfen with spiOut := rest } } else s)

/-- Unread records (Table 2.12). -/
def evFill (s : Chip) : Nat := (s.ev.ring.filter fun r => r.unread).length

/-- The SPI status word (Table 2.5). -/
def spiStatus (s : Chip) : Nat :=
  pack [(0, 1, b2n s.ubfen.ready), (1, 1, b2n s.boot.tamperHold), (2, 1, b2n (decide (0 < evFill s))),
    (3, 1, b2n s.ubfen.spiOverrun), (4, 1, b2n s.ubfen.spiShort), (8, 8, min 255 s.ubfen.spiOut.length),
    (16, 16, spiInputSize)]

/-- SPI_READ_STATUS, from the end of wake stage 4 on (R52). -/
def execSpiReadStatus (s : State) : Out :=
  s.on fun s =>
  .next (if !pdOn s 1 then s
    else { s with ubfen := { s.ubfen with spiRead := wr 4 (spiStatus s), spiOverrun := false, spiShort := false } })

/-- A host address of port `p` is enabled and equals `mac` (Table 12.8). -/
def permittedHost (p : Nat) (mac : Bytes) (s : Chip) : Bool :=
  (List.range 4).any fun n =>
    let hi := cfgGet s 0x0C01 (ethId p (12 + 2 * n))
    bitOf hi 16 && decide (macOf hi (cfgGet s 0x0C01 (ethId p (13 + 2 * n))) = mac)

/-- The 802.1Q tag bytes of a frame, nothing when it has none. -/
def vlanTag (f : Bytes) : Bytes := if (f.drop 12).take 2 = [0x81, 0x00] then (f.drop 12).take 4 else []

/-- Big-endian 16-bit field of a frame. -/
def be16 (f : Bytes) (off : Nat) : Nat := (f.getD off 0).toNat * 256 + (f.getD (off + 1) 0).toNat

/-- The frame arrives on the port's management VLAN (MGMT_VLAN, Table 12.8). -/
def onMgmtVlan (p : Nat) (f : Bytes) (s : Chip) : Bool :=
  let v := cfgGet s 0x0C01 (ethId p 6)
  if bitOf v 12 then !(vlanTag f).isEmpty && decide (be16 f 14 % 4096 = v % 4096) else (vlanTag f).isEmpty

/-- A frame of EtherType 0x88B5 that reaches port `p`'s management (R55): one command packet, or a discard that is
counted when the frame is addressed to the port; while READY = 0 none is accepted. Bytes after the packet's 20 + LENGTH are
padding, whatever the length of the frame (R60, check 1; DESIGN CHOICE, assumption 101). -/
def mgmtReceive (p : Nat) (f : Bytes) (s : Chip) : Chip :=
  let tag := vlanTag f
  let body := f.drop (14 + tag.length)
  let pkt := body.drop 4
  if s.ubfen.ready ∧ f.take 6 = portMac p s ∧ trEn s (1 + p) ∧ onMgmtVlan p f s ∧ permittedHost p ((f.drop 6).take 6) s ∧
      body.take 3 = [0x55, 0x42, 0x01] ∧ 16 ≤ pkt.length then
    admitPacket (1 + p) ((f.drop 6).take 6 ++ tag) (pkt.take (20 + rd pkt 6 2)) s
  else if f.take 6 = portMac p s then bump (ethCnt p 0x14) 1 s
  else s

/-- MGMT_FRAME_COMMAND: a management frame arrives on a port whose domain is on (R55). -/
def execMgmtFrameCommand (p : Fin 2) (frame : Bytes) (s : State) : Out :=
  s.on fun s =>
  .next (if pdOn s 9 && pdOn s 1 && decide (be16 frame (12 + (vlanTag frame).length) = 0x88B5) then
      mgmtReceive p.val frame s
    else s)

/-- The next packet of a queue inside the fabric, whose banks swap by themselves (R28): ABORT items before it complete
(R35), MARK items pass. `k` bounds the items. -/
def pullPacket (n : Nat) : Nat → Chip → Option Pkt × Chip
  | 0, s => (none, s)
  | k + 1, s =>
    let s := swapBanks n s
    let q := s.dq.get n
    match (match q.hand with
      | p :: r => (some p, { q with hand := r })
      | [] => q.popPacket) with
    | (none, _) => (none, s)
    | (some p, q) =>
      let s := { s with dq := s.dq.set n q }
      match p.kind with
      | .data => (some p, s)
      | .abort => pullPacket n k (abortCompletion n p s)
      | .mark => pullPacket n k s

/-- Items that a queue holds. -/
def Dq.items (q : Dq) : Nat := q.hand.length + q.drain.length + q.fill.length + q.wait.length

/-- The next packet that a block of the fabric takes. -/
def pull (n : Nat) (s : Chip) : Option Pkt × Chip := pullPacket n (s.dq.get n).items s

/-- The next item of a queue that a block consumer works on: one it has already read, or the next of the queue. -/
def nextItem (n : Nat) (s : Chip) : Option (Pkt × Chip) :=
  let q := s.dq.get n
  match q.hand with
  | p :: rest => some (p, { s with dq := s.dq.set n { q with hand := rest } })
  | [] =>
    match q.popPacket with
    | (some p, q) => some (p, { s with dq := s.dq.set n q })
    | (none, _) => none

/-- MAILBOX_COMMAND: the executive takes the next packet of core n's mailbox (R57). A flushed packet's ABORT item completes
with its first word, the only reference that R24 leaves of it, and brings no reply (DESIGN CHOICE, assumption 83). A packet
of fewer than four words holds no header to echo: it is dropped with no reply, a case that the spec states for SPI alone
(R53; DESIGN CHOICE, assumption 85). -/
def execMailboxCommand (n : Fin 8) (s : State) : Out :=
  s.on fun s =>
  .next (if !s.ubfen.ready then s
    else match nextItem (56 + n.val) s with
      | none => s
      | some (p, s) =>
        match p.kind with
        | .data => if p.words.length < 4 then s else admitPacket (3 + n.val) [] (bytesOf p.words) s
        | .abort => abortCompletion (56 + n.val) p s
        | .mark => s)

/-! ## Start (R61, R64) -/

/-- Opcodes of the device (Tables 2.14 and 2.16, and each chapter's table), per group. -/
def opcodesOf (g : Nat) : List Nat :=
  match g with
  | 0x00 => [0x00, 0x01, 0x02, 0x03, 0x04, 0x05, 0x06, 0x07, 0x10, 0x11, 0x12, 0x13, 0x14]
  | 0x01 => [0, 1, 2, 3, 4, 5, 6]
  | 0x02 => [0, 1, 2, 3, 4, 5, 6, 7]
  | 0x03 => [0, 1, 2, 3, 4, 5, 6, 7]
  | 0x04 => [0x01, 0x02, 0x03, 0x04, 0x05, 0x10, 0x11]
  | 0x05 => [0, 1, 2, 3, 4, 5]
  | 0x06 => [0, 1, 2, 3, 4, 5, 6]
  | 0x07 => [0, 1, 2, 3, 4, 5]
  | 0x08 => [0, 1, 2, 3, 4, 5, 6, 7]
  | 0x09 => [0, 1, 2, 3]
  | 0x0A => [0, 1, 3]
  | 0x0B => [0, 1, 2, 3, 4, 5, 6, 7, 8, 9, 0xA, 0xB, 0xC, 0xD, 0x10, 0x11, 0x12, 0x20, 0x21, 0x22, 0x23, 0x24]
  | 0x0C => [0, 1, 2, 3, 4, 5, 6, 7]
  | 0x0D => [0, 1, 2, 3, 4, 5, 6, 7, 8]
  | 0x0E => [0, 1, 2, 3, 4, 5]
  | 0x0F => [1, 2, 3, 4, 5, 0x10, 0x11]
  | _ => []

/-- The opcode is known (R61). -/
def knownOpcode (op : Nat) : Bool := (opcodesOf (op / 256)).contains (op % 256)

/-- The Tamper-Hold set (R76). -/
def holdSet (op : Nat) : Bool := [0x0000, 0x0001, 0x0002, 0x0010, 0x0012, 0x0B10, 0x0B11].contains op

/-- First offending header byte of a command (R61, check 4). -/
def badHeader (m : Cmd) : Option Nat :=
  if m.flags.toNat / 8 ≠ 0 then some 0xFF01
  else if m.status % 256 ≠ 0 then some 0xFF0C
  else if m.status / 256 ≠ 0 then some 0xFF0D
  else if m.outst % 256 ≠ 0 then some 0xFF0E
  else if m.outst / 256 ≠ 0 then some 0xFF0F
  else none

/-- R86: before step 4 ends only the Tamper-Hold set and groups 0x0E and 0x0F run, CFG_WRITE from the load on and
CFG_COMMIT not at all; until service opens, groups 0x03, 0x04, 0x05 and 0x08 wait. R93: in recovery only groups 0x00 and
0x0E run. -/
def bootBusy (op : Nat) (s : Chip) : Bool :=
  let g := op / 256
  if s.boot.recovery then !(g = 0x00 || g = 0x0E)
  else if s.boot.stage < 4 then
    if op = 0x0F01 then !s.boot.loaded
    else if op = 0x0F02 then true
    else !(holdSet op || g = 0x0E || g = 0x0F)
  else !s.boot.service && [0x03, 0x04, 0x05, 0x08].contains g

/-- The power domain that every command of a group needs (Tables 1.1 and 18.1); 0 where no one domain serves the group. -/
def groupPd (g : Nat) : Nat :=
  match g with
  | 0x05 => 5
  | 0x06 => 7
  | 0x07 => 7
  | 0x08 => 7
  | 0x09 => 9
  | 0x0A => 9
  | 0x0C => 2
  | 0x0D => 10
  | _ => 0

/-- Commands that start new work in a block (R452). -/
def startsWork (op : Nat) : Bool :=
  [0x0301, 0x0302, 0x0305, 0x0307, 0x0501, 0x0503, 0x0402, 0x0401, 0x0604, 0x0601, 0x0602, 0x0603, 0x0701, 0x0702,
    0x0802, 0x0805, 0x0A03, 0x0C01, 0x0C05, 0x0D01, 0x0D06, 0x0207].contains op

/-- A group's block has received PREPARE and its domain goes down (R452). -/
def preparing (op : Nat) (s : Chip) : Bool :=
  match s.pwr.trans with
  | some t => startsWork op && (bitOf t.down (groupPd (op / 256)) || decide (op / 256 = 3 ∧ t.down &&& 0x38 ≠ 0) ||
      decide (op / 256 = 4 ∧ t.down &&& 0x58 ≠ 0)) && decide (groupPd (op / 256) ≠ 0 ∨ op / 256 = 3 ∨ op / 256 = 4)
  | none => false

/-- R64, Table 2.2: the command may start: every earlier command of its stream has reached its acceptance point, and with
FENCE every earlier command of its transport has completed. STREAM_FLUSH waits for neither (R79). -/
def startable (m : Cmd) (s : Chip) : Bool :=
  m.startedAt.isNone && m.done.isNone &&
  (decide (m.opcode = 0x0007) ||
    s.ubfen.cmds.all fun e =>
      !(decide (e.no < m.no) && e.tr = m.tr &&
        ((e.cls = m.cls && !e.accepted) || (bitOf m.flags.toNat 2 && e.done.isNone))))

/-- Since when a startable command has been startable: its admission, the last acceptance point that it waited for, and with
FENCE the last completion that it waited for. -/
def startableSince (m : Cmd) (s : Chip) : Nat :=
  max m.admittedAt (max (newestBefore m.no (s.ubfen.streams.get (streamKey m.tr m.cls)).accepts)
    (if bitOf m.flags.toNat 2 then newestBefore m.no (s.ubfen.doneAt.get m.tr) else 0))

/-- The executive starts this command next (R64): a STREAM_FLUSH, which starts on admission, before everything else (R79);
then the lowest CLASS first, and before it one startable for 10 ms. -/
def startsNext (m : Cmd) (s : Chip) : Bool :=
  let ready := s.ubfen.cmds.filter fun e => startable e s
  let flushes := ready.filter fun e => decide (e.opcode = 0x0007)
  let overdue := ready.filter fun e => startableSince e s + 10 * nsMs ≤ s.now
  startable m s &&
    (if !flushes.isEmpty then decide (m.opcode = 0x0007) && flushes.all fun e => m.no ≤ e.no
     else if overdue.isEmpty then ready.all fun e => m.cls ≤ e.cls
     else decide (startableSince m s + 10 * nsMs ≤ s.now))

end Sys2Proof.Machine
end

