-- ==== Sys2Proof/Machine/Events.lean ====
section
/-! DEFINITION. The event ring, the event pins, pushes, and the event commands (R69 to R75, R81); the release of
replies, which waits for the records of a command (R65, R66). -/

namespace Sys2Proof.Machine

/-- Slots of the ring (R71). -/
def ringSize : Nat := 1024

/-- Free slots: those that hold no unread record (R71). -/
def evFree (s : Chip) : Nat := ringSize - evFill s

/-- Removes the oldest record that has been read or pushed. -/
def dropRead : List EvRec → List EvRec
  | [] => []
  | r :: l => if r.unread then r :: dropRead l else l

/-- The part of a record that its raise gives. -/
def evRecord (src level : Nat) (unlocked injected : Bool) (stamp : Word) (payload : Nat) (s : Chip) : EvRec :=
  ⟨src, level, unlocked, injected, s.ev.seq, stamp, payload, true, s.now⟩

/-- Appends a record; it takes the next SEQ (R69) and the slot of a read record when the ring is full of records. -/
def ringPut (r : EvRec) (s : Chip) : Chip :=
  let ring := if s.ev.ring.length < ringSize then s.ev.ring else dropRead s.ev.ring
  { s with ev := { s.ev with ring := ring ++ [{ r with seq := s.ev.seq }], seq := (s.ev.seq + 1) % 65536 } }

/-- A raise that the ring drops (R71). -/
def ringDrop (s : Chip) : Chip :=
  { s with ev := { s.ev with lost := satAdd 0xFFFF s.ev.lost 1, overflow := true, pushLost := satAdd 0xFFFF s.ev.pushLost 1 } }

/-- R71: a CRITICAL record takes any free slot; every other record needs more than 16 and no drop unreported. -/
def ringWrite (r : EvRec) (s : Chip) : Chip :=
  if r.level = 3 then (if evFree s = 0 then ringDrop s else ringPut r s)
  else if s.ev.overflow || decide (evFree s ≤ 16) then ringDrop s
  else ringPut r s

/-- A source's bit in a 128-bit map. -/
def srcBit (src : Nat) : BitVec 128 := 1#128 <<< (src % 128)

/-- Splits off the oldest raise of a source. -/
def takeRaise (src : Nat) : List Raise → Option (Raise × List Raise)
  | [] => none
  | r :: l => if r.src = src then some (r, l) else (takeRaise src l).map fun x => (x.1, r :: x.2)

/-- The executive handles a raise: PENDING, and the record where RING_EN holds (R70, R72). -/
def recordRaise (r : Raise) (s : Chip) : Chip :=
  let s := { s with ev := { s.ev with pend := s.ev.pend ||| srcBit r.src } }
  if s.ev.ringEn.getLsbD (r.src % 128) then
    ringWrite (evRecord r.src (evLevel r.src) r.unlocked false r.stamp r.payload s) s
  else s

/-- R270: the record of a source may be written now. No EV_TIME_WRAP stands before its oldest raise, and EV_TIME_WRAP itself stands
before every other raise. -/
def inWrapOrder (src : Nat) (l : List Raise) : Bool :=
  if src = 16 then l.head?.any fun r => decide (r.src = 16)
  else (l.takeWhile fun r => decide (r.src ≠ src)).all fun r => decide (r.src ≠ 16)

/-- EVENT_RECORD_WRITE: the oldest raise of a source reaches the executive (R70, R72), unless the place of an EV_TIME_WRAP record holds it
(R270). -/
def execEventRecordWrite (src : Fin 128) (s : State) : Out :=
  s.on fun s =>
  .next (if !s.ubfen.ready || !inWrapOrder src.val s.ev.raised then s
    else match takeRaise src.val s.ev.raised with
    | none => s
    | some (r, rest) => recordRaise r { s with ev := { s.ev with raised := rest } })

/-- The raises up to the last EV_TIME_WRAP that waits are written: what is stamped after it goes behind it (R270). -/
def settleWraps (s : Chip) : Chip :=
  let n := s.ev.raised.length - (s.ev.raised.reverse.takeWhile fun r => decide (r.src ≠ 16)).length
  forEach (s.ev.raised.take n) recordRaise { s with ev := { s.ev with raised := s.ev.raised.drop n } }

/-- RING_OVERFLOW_RECORD: once more than 16 slots are free after a drop (R71). -/
def execRingOverflowRecord (s : State) : Out :=
  s.on fun s =>
  .next (if s.ev.overflow && decide (16 < evFree s) && s.ev.raised.all fun r => decide (r.src ≠ 16) then
      let r := evRecord 2 (evLevel 2) (unlockedAt s s.time.stampDom) false (nsWord s) s.ev.lost s
      let s := ringPut r s
      { s with ev := { s.ev with lost := 0, overflow := false, pend := s.ev.pend ||| srcBit 2 } }
    else s)

/-- EVENT0n or EVENT1n is asserted (R72). -/
def eventPin (k : Nat) (s : Chip) : Bool :=
  decide (s.ev.pend &&& (if k = 0 then s.ev.pin0En else s.ev.pin1En) ≠ 0)

/-- The bytes of a record (Table 2.11). -/
def recBytes (r : EvRec) : Bytes :=
  wr 1 r.src ++ wr 1 (pack [(0, 2, r.level), (2, 1, b2n r.unlocked), (3, 1, b2n r.injected)]) ++ wr 2 r.seq ++
    wr 4 r.stamp.toNat ++ wr 8 r.payload

/-- A record is unsent (R73). -/
def unsent (s : Chip) (r : EvRec) : Bool := r.unread && decide (s.ev.pushLevel ≤ r.level)

/-- A push is due (R73). The hold-off counts from the write of the oldest unsent record, also of one that was in the ring
before EVENT_PUSH_SET (DESIGN CHOICE, assumption 102). -/
def pushDue (s : Chip) : Bool :=
  let l := s.ev.ring.filter (unsent s)
  decide (s.ev.pushTr ≤ 10) && !l.isEmpty &&
    (decide (s.ev.pushCount ≤ l.length) || (l.any fun r => r.level = 3) ||
      (match l.head? with
        | some r => decide (r.at_ + s.ev.pushHold * nsUs ≤ s.now)
        | none => false))

/-- Marks the first `k` unsent records as pushed. -/
def markPushed (lvl : Nat) : Nat → List EvRec → List EvRec
  | _, [] => []
  | 0, l => l
  | k + 1, r :: l =>
    if r.unread && decide (lvl ≤ r.level) then { r with unread := false } :: markPushed lvl k l
    else r :: markPushed lvl (k + 1) l

/-- Management VLAN tag bytes of a port at a PCP; nothing when it is untagged (Table 12.8). -/
def mgmtTag (p pcp : Nat) (s : Chip) : Bytes :=
  let v := cfgGet s 0x0C01 (ethId p 6)
  if bitOf v 12 then [0x81, 0x00, byte (pcp * 32 + v % 4096 / 256), byte v] else []

/-- Enabled host addresses of a port (R55). -/
def hostsOf (p : Nat) (s : Chip) : List Bytes :=
  (List.range 4).filterMap fun n =>
    let hi := cfgGet s 0x0C01 (ethId p (12 + 2 * n))
    if bitOf hi 16 then some (macOf hi (cfgGet s 0x0C01 (ethId p (13 + 2 * n)))) else none

/-- Sends a push packet: on Ethernet to every enabled host of the port (DEDUCED, assumption 12). -/
def sendPush (tr pcp : Nat) (pkt : Bytes) (s : Chip) : Chip :=
  if tr = 1 ∨ tr = 2 then
    forEach (hostsOf (tr - 1) s) (fun h => sendPacket tr (h ++ mgmtTag (tr - 1) pcp s) pkt none) s
  else sendPacket tr [] pkt none s

/-- A push packet of records (R47, Table 2.1). -/
def pushPacket (l : List EvRec) (s : Chip) : Bytes :=
  packet 2 0x0010 0 0xFF s.ev.pushSeq 0 (min 0xFFFF s.ev.pushLost) (l.flatMap recBytes)

/-- EVENT_PUSH_SEND (R73). -/
def execEventPushSend (s : State) : Out :=
  s.on fun s =>
  .next (if pushDue s then
      let l := (s.ev.ring.filter (unsent s)).take s.ev.pushCount
      let pkt := pushPacket l s
      let s := { s with ev := { s.ev with ring := markPushed s.ev.pushLevel s.ev.pushCount s.ev.ring
                                          pushSeq := (s.ev.pushSeq + 1) % 2 ^ 32, pushLost := 0 } }
      sendPush s.ev.pushTr 7 pkt s
    else s)

/-! ## Event commands (Table 2.14) -/

/-- Records that EVENT_READ returns: the oldest unread ones, or those from a SEQ on. -/
def readSet (from_ : Bool) (seq n : Nat) (ring : List EvRec) : List EvRec :=
  if from_ then (ring.dropWhile fun r => r.seq ≠ seq).take n else (ring.filter EvRec.unread).take n

/-- EVENT_READ (R71, R76). -/
def execEventRead (c : CmdRef) (s : State) : Out :=
  s.on fun s =>
  runCmd c 0x0010 s fun m =>
    let p := m.params
    checked c ([(0, within 1 511 (rd p 0 2))] ++ maskAt p 2 3 ++ zeroAt p 3 1 ++ zeroAt p 6 2) fun s =>
      let l := readSet (bitOf (rd p 2 1) 1) (rd p 4 2) (rd p 0 2) s.ev.ring
      if bitOf (rd p 2 1) 1 && l.isEmpty then complete c stNotFound [] s
      else
        let s := if bitOf (rd p 2 1) 0 then s else
          { s with ev := { s.ev with
              ring := s.ev.ring.map fun r => if l.any (fun x => x.seq = r.seq) then { r with unread := false } else r } }
        complete c stOk (wr 2 l.length ++ wr 2 (evFill s) ++ wr 2 s.ev.lost ++ zeros 2 ++ l.flatMap recBytes) s

/-- Sources `first … last` as a bitmap. -/
def srcRange (first last : Nat) : BitVec 128 := srcMask ((List.range 128).filter (within first last))

/-- Sets and clears bits of an enable register. -/
def setClear (reg m : BitVec 128) (set clear : Bool) : BitVec 128 :=
  if set then reg ||| m else if clear then reg &&& ~~~ m else reg

/-- EVENT_CONFIG (R81). -/
def execEventConfig (c : CmdRef) (s : State) : Out :=
  s.on fun s =>
  runCmd c 0x0011 s fun m =>
    let p := m.params
    let (a, b, st, cl) := (rd p 0 1, rd p 1 1, rd p 2 1, rd p 3 1)
    checked c ([ck 0 (a ≤ b), ck 1 (b ≤ 127)] ++ maskAt p 2 7 ++ maskAt p 3 7 ++ [ck 3 (st &&& cl = 0)])
      fun s =>
        let k := srcRange a b
        complete c stOk [] { s with ev := { s.ev with
          ringEn := setClear s.ev.ringEn k (bitOf st 0) (bitOf cl 0)
          pin0En := setClear s.ev.pin0En k (bitOf st 1) (bitOf cl 1)
          pin1En := setClear s.ev.pin1En k (bitOf st 2) (bitOf cl 2) } }

/-- EVENT_ACK (R72). -/
def execEventAck (c : CmdRef) (s : State) : Out :=
  s.on fun s =>
  runCmd c 0x0012 s fun m s =>
    complete c stOk [] { s with ev := { s.ev with pend := s.ev.pend &&& ~~~ (BitVec.ofNat 128 (rd m.params 0 16)) } }

/-- EVENT_PUSH_SET (R73). -/
def execEventPushSet (c : CmdRef) (s : State) : Out :=
  s.on fun s =>
  runCmd c 0x0013 s fun m =>
    let p := m.params
    checked c ([ck 0 (rd p 0 1 = 0xFF ∨ rd p 0 1 ≤ 10), (1, within 1 64 (rd p 1 1)), ck 4 (rd p 4 1 ≤ 3)] ++
        zeroAt p 5 3) fun s =>
      complete c stOk [] { s with ev := { s.ev with pushTr := rd p 0 1, pushCount := rd p 1 1, pushHold := rd p 2 2
                                                    pushLevel := rd p 4 1, pushSeq := 0 } }

/-- EVENT_INJECT (R81): no PENDING bit, no pin, no trigger; refused in DEPLOYED. The parameters are checked before the life-cycle
state (DESIGN CHOICE, assumption 103). -/
def execEventInject (c : CmdRef) (s : State) : Out :=
  s.on fun s =>
  runCmd c 0x0014 s fun m =>
    let p := m.params
    let (src, lvl) := (rd p 0 1, rd p 1 1)
    checked c ([(0, decide (src ≤ 127) && !evReserved src), ck 1 (lvl ≤ 3)] ++ zeroAt p 2 6) fun s =>
      if s.sys.lc = 2 then complete c stLifecycle [] s
      else
        let s := settleWraps s
        complete c stOk [] (ringWrite (evRecord src lvl (unlockedAt s s.time.stampDom) true (nsWord s) (rd p 8 8) s) s)

/-! ## Replies (R65, R66) -/

/-- The oldest command of a stream whose reply has not been sent. -/
def streamHead (tr cls : Nat) (s : Chip) : Option Cmd := s.ubfen.cmds.find? fun m => m.tr = tr && m.cls = cls

/-- Its reply may leave: it has completed, and every raise made before that is in the ring or dropped (R66). -/
def replyReady (m : Cmd) (s : Chip) : Bool :=
  match m.done with
  | some (_, _, mark) => s.ev.raised.all fun r => decide (mark ≤ r.no)
  | none => false

/-- Sends a command's reply; the copy kept for its duplicates is then the one sent (R63). -/
def releaseReply (m : Cmd) (st : Nat) (res : Bytes) (s : Chip) : Chip :=
  let pkt := replyPacket m st res s
  let s := { s with ubfen := { s.ubfen with
      cmds := s.ubfen.cmds.filter fun e => e.no ≠ m.no
      streams := s.ubfen.streams.upd (streamKey m.tr m.cls) fun r =>
        { r with kept := r.kept.map fun k => if k.1 = m.seq then (k.1, pkt) else k } } }
  sendPacket m.tr m.back pkt (some m.no) s

/-- REPLY_RELEASE: the reply of the oldest command of a stream leaves (R65, R66, R42 promise 1). -/
def execReplyRelease (tr : Fin 11) (cls : Fin 16) (s : State) : Out :=
  s.on fun s =>
  .next (match streamHead tr.val cls.val s with
    | none => s
    | some m =>
      match m.done with
      | some (st, res, _) => if replyReady m s then releaseReply m st res s else s
      | none => s)

/-- A command's reply has left its transport (R80): sent, on SPI read by the host or ready for 100 ms, on Ethernet no longer in
its port's egress queue. -/
def replyLeft (no : Nat) (s : Chip) : Bool :=
  (s.ubfen.cmds.all fun m => m.no ≠ no) && ((List.range 2).all fun p => ((s.eth.get p).egress.get 7).all fun f => f.2 ≠ some (.reply no)) &&
  (s.ubfen.spiOut.all fun p => decide (p.2.1 ≠ some no) || decide (p.2.2 + 100 * nsMs ≤ s.now))

end Sys2Proof.Machine
end

