-- ==== Sys2Proof/Machine/CfgRec.lean ====
section
/-! DEFINITION. Configuration records (R95 to R102): checks, clamping, tears, dependencies between fields, stored
copies and reports. The commands of the group are in CfgCmds.lean. -/

namespace Sys2Proof.Machine

/-- CHECK of a field entry (Table 3.7, R96). -/
def entryCheck (gen : Nat) (e : Bytes) : Nat := crc8 (wr 4 gen ++ e.take 3 ++ (e.drop 4).take 4)

/-- The announced entries of a record: absent, or ID, value as read, and whether CHECK holds. -/
abbrev Entries := List (Option (Nat × Nat × Bool))

/-- The entries of a record as CFG_WRITE carries it. -/
def entriesOf (rec : Bytes) (count gen : Nat) : Entries :=
  (List.range count).map fun i =>
    let e := (rec.drop (16 + 8 * i)).take 8
    if e.length < 8 then none else some (rd e 0 2, rd e 4 4, decide (rd e 3 1 = entryCheck gen e))

/-- Progress of a record: what it has done so far. -/
structure Walk where
  /-- Type of the record; 0 at configuration commit. -/
  typ : Nat
  st : Chip
  /-- Last in-order ID (R97, step 3). -/
  mark : Option Nat
  reps : List RepEntry
  /-- Fields that the record sets, with their checked values (R96). -/
  sets : List (Nat × Nat)
  torn : Bool
  /-- Fields that took their default from the tear on (R97, step 4). -/
  defd : List Nat := []


/-- Adds a report entry. -/
def Walk.report (w : Walk) (type id req app reason : Nat) : Walk :=
  { w with reps := w.reps ++ [⟨type, id, req, app, reason⟩] }

/-- Register that shows a field with RWL bits, for SYS_LOCK_VIOL (R9, R100). No register shows HASH_SEED: its refusals give
ADDR 0 (DESIGN CHOICE, assumption 99). -/
def rwlAddr (type id : Nat) : Nat :=
  if type = 0x0003 then 0x000100 + 4 * (id - 1)
  else if type = 0x0302 then 0x030100 + 4 * (id - 1)
  else if type = 0x0402 then 0x040100 + 4 * (id - 1)
  else if type = 0x0F01 then 0x0F0004
  else 0

/-- R100: the bits of `v` that may take effect, given the bits that are RWL. -/
def rwlMerge (committed : Bool) (rwl cur v : Nat) : Nat :=
  if committed then (v &&& notN 32 rwl) ||| (cur &&& rwl) else v

/-- Fields that name a software queue: 3 and 4 are not applied (R305). -/
def namesQueue (type id : Nat) : Bool :=
  (type = 0x0801 && (id = 5 || id = 6)) || (type = 0x0C01 && id = 4) || (type = 0x1001 && id = 6)

/-- Some transport keeps EN = 1 and GROUPS bit 0 = 1 (R505). -/
def reachable (s : Chip) : Bool := (List.range 11).any fun t => trEn s t && bitOf (trGroups s t) 0

/-- Reason of a fix; bits of TUNER_ADDR above b4 count as above the maximum, also beside a USID of 0 (Table 4.15a). -/
def fixReason (type id v reason : Nat) : Nat :=
  if type = 0x0301 ∧ 0x100 ≤ id ∧ id % 16 = 5 ∧ 32 ≤ v then 0x02 else reason

/-- One entry before the tear point (R97, step 3; R100, R305, R505). -/
def Walk.entry (w : Walk) (type id v : Nat) : Walk :=
  if w.mark.any fun m => id ≤ m then w.report type id v (cfgGet w.st type id) 0x09
  else
    let w := { w with mark := some id }
    match fieldOf type id with
    | none => w.report type id v 0 0x09
    | some f =>
      let cur := cfgGet w.st type id
      let (x, reason) := f.legal.fix v
      if namesQueue type id ∧ (x = 3 ∨ x = 4) then w.report type id v cur 0x08
      else
        let y := rwlMerge w.st.boot.committed f.rwl cur x
        let st := cfgSet type id y w.st
        if type = 0x0003 ∧ !reachable st then w.report type id v cur 0x08
        else
          let w := { w with st := st, sets := w.sets ++ [(id, x)] }
          if y ≠ x then { w with st := lockViol (rwlAddr type id) w.st }.report type id v y 0x04
          else if reason ≠ 0 then w.report type id v y (fixReason type id v reason)
          else w

/-- A field takes its default at or after the tear (R97, step 4); R9 counts a default that a committed RWL field refuses. -/
def Walk.default (w : Walk) (type id req reason : Nat) : Walk :=
  let (x, y) := match fieldOf type id with
    | some f => (f.dflt, rwlMerge w.st.boot.committed f.rwl (cfgGet w.st type id) f.dflt)
    | none => (0, 0)
  let st := cfgSet type id y w.st
  let st := if y = x then st else lockViol (rwlAddr type id) st
  { w with st := st, defd := w.defd ++ [id] }.report type id req y reason

/-- The entries up to the tear point, and where it lies: the tear entry and how many more COUNT announces. -/
def Walk.run (type : Nat) : Entries → Walk → Walk × Option (Option (Nat × Nat) × Nat)
  | [], w => (w, none)
  | none :: rest, w => (w, some (none, rest.length))
  | some (id, v, ok) :: rest, w =>
    if ok then Walk.run type rest (w.entry type id v) else (w, some (some (id, v), rest.length))

/-- The fields that take defaults from the tear on, in ascending ID (R97, step 4). -/
def tornIds (type : Nat) (mark tearId : Option Nat) (more : Nat) : List Nat :=
  let above := fun (m : Option Nat) (i : Nat) => !(m.any fun x => i ≤ x)
  let ids := ((fieldsOf type).map FDef.id).filter (above mark)
  match tearId with
  | some t =>
    if ids.contains t then t :: (ids.filter fun i => t < i).take more else ids.take (more + 1)
  | none => ids.take (more + 1)

/-- From the tear point on (R97, step 4). -/
def Walk.tear (w : Walk) (type : Nat) (entry : Option (Nat × Nat)) (more : Nat) : Walk :=
  let ids := tornIds type w.mark (entry.map Prod.fst) more
  let req := match entry with
    | some (_, v) => v
    | none => 0xFFFFFFFF
  match ids with
  | [] => { w with torn := true }
  | i :: rest =>
    let w := { w with torn := true }.default type i req 0x05
    rest.foldl (fun w j => w.default type j 0xFFFFFFFF 0x06) w

/-! ## Dependencies (R98) -/

/-- A dependency sets a field, of this record or of another, and reports it with reason 0x08: an entry that reports the
field already keeps the value requested (Table 3.8). -/
def Walk.depend (w : Walk) (type id v : Nat) : Walk :=
  let cur := cfgGet w.st type id
  if v = cur then w
  else
    let sets := if type ≠ w.typ then w.sets
      else if w.sets.any fun p => p.1 = id then w.sets.map fun p => if p.1 = id then (id, v) else p
      else w.sets ++ [(id, v)]
    let w := { w with st := cfgSet type id v w.st, sets := sets }
    let mine := fun (e : RepEntry) => e.type = type && e.id = id && (within 1 3 e.reason || e.reason == 0x08)
    if w.reps.any mine then { w with reps := w.reps.map fun e => if mine e then { e with applied := v, reason := 0x08 } else e }
    else w.report type id cur v 0x08

/-- The record sets a field. -/
def Walk.names (w : Walk) (id : Nat) : Bool := w.sets.any fun p => p.1 = id

/-- R98 for a pair with `b ≤ a` required less `gap`: `a`'s range names `b`; a record that sets only `b` has `b` clamped. -/
def Walk.pairMin (w : Walk) (type a b gap : Nat) : Walk :=
  let (va, vb) := (cfgGet w.st type a, cfgGet w.st type b)
  if vb + gap ≤ va then w
  else if w.names b && !w.names a then w.depend type b (va - gap)
  else w.depend type a (vb + gap)

/-- Band of port `p` (front-end record): 0 unused, 1 A, 2 B. -/
def portBand (s : Chip) (p : Nat) : Nat := cfgGet s 0x0301 (0x100 + 0x10 * p)

/-- R227: RX_PORT of a band whose port belongs to another band moves to the lowest-numbered port of the band. -/
def fixRxPort (b : Nat) (w : Walk) : Walk :=
  let cur := cfgGet w.st 0x0702 (7 + b)
  if portBand w.st cur = 1 + b then w
  else match (List.range 4).find? fun p => portBand w.st p = 1 + b with
    | some p => w.depend 0x0702 (7 + b) p
    | none => w

/-- R253: LEAD_MIN is at least BIAS_LEAD + EN_LEAD + 100 µs, in whole microseconds. -/
def fixLeadMin (w : Walk) : Walk :=
  let least := cfgGet w.st 0x0301 1 + (cfgGet w.st 0x0301 2 + 999) / 1000 + 100
  if cfgGet w.st 0x0501 1 < least then w.depend 0x0501 1 least else w

/-- Edges of a band in units of 100 kHz (R150). -/
def bandLow (b : Nat) : Nat := if b = 0 then 3000 else 23000
def bandHigh (b : Nat) : Nat := if b = 0 then 11000 else 25000

/-- Width of a window in units of 100 kHz (Table 5.1). -/
def winWidth (code : Nat) : Nat := 32 * 2 ^ code

/-- A window's span lies wholly within its band (R150); spans are compared in units of 50 kHz. -/
def winInBand (b v : Nat) : Bool :=
  let (w, c) := (winWidth (fld v 1 2), fld v 8 15)
  decide (2 * bandLow b + w ≤ 2 * c ∧ 2 * c + w ≤ 2 * bandHigh b)

/-- Bandwidth of a channel in units of 100 kHz (Table 5.2). -/
def chBw (code : Nat) : Nat := 2 ^ code

/-- A channel fits an enabled window of its band (R152); in units of 50 kHz. -/
def chFits (s : Chip) (n v : Nat) : Bool :=
  let win := cfgGet s 0x0601 (0x10 + 4 * (n / 64) + fld v 5 2)
  let (ww, wc, b, c) := (winWidth (fld win 1 2), fld win 8 15, chBw (fld v 3 2), fld v 14 15)
  bitOf win 0 && winInBand (n / 64) win &&
    decide (2 * wc + 2 + b ≤ 2 * c + ww ∧ 2 * c + b + 2 ≤ 2 * wc + ww)

/-- Smallest bandwidth code of a SUN-FSK rate under a modulation (Table 5.3). -/
def rateMinBw (rate mod : Nat) : Nat :=
  match rate with
  | 0 => 0
  | 1 => 1
  | 2 => if mod = 2 then 1 else 2
  | _ => 2

/-- FSK_RATES without the rates that R154 excludes. -/
def scanRates (bw mod rates : Nat) : Nat :=
  sumN ((List.range 4).map fun r => if bitOf rates r && decide (rateMinBw r mod ≤ bw) then 2 ^ r else 0)

/-- Range of RATE and of BURST under a shaper's MODE (Table 11.2). -/
def rateRange (mode : Nat) : Nat × Nat :=
  if mode = 1 then (1, 1250000000) else if mode = 0 then (0, 0xFFFFFFFF) else (1, 1000000)
def burstRange (mode : Nat) : Nat × Nat :=
  if mode = 3 then (60, 3600) else if mode = 0 then (0, 0xFFFFFFFF) else (1, 0x7FFFFFFF)

/-- Dependencies of the time record (R277). -/
def depTime (w : Walk) : Walk :=
  let dom := fun (w : Walk) (d : Nat) =>
    let (l, j) := (0x100 + 0x20 * d + 13, 0x100 + 0x20 * d + 15)
    let (vl, vj) := (cfgGet w.st 0x0201 l, cfgGet w.st 0x0201 j)
    let w :=
      if vl < vj then w
      else if w.names j && !w.names l then w.depend 0x0201 j (vl + 1)
      else if 11 ≤ vj then w.depend 0x0201 l (vj - 1)
      else (w.depend 0x0201 l 10).depend 0x0201 j 11
    let (mode, ports) := (0x100 + 0x20 * d, 0x100 + 0x20 * d + 1)
    if cfgGet w.st 0x0201 mode = 2 ∧ cfgGet w.st 0x0201 ports ≠ 3 then w.depend 0x0201 mode 1 else w
  let w := dom (dom w 0) 1
  if cfgGet w.st 0x0201 0x100 ≠ 0 ∧ cfgGet w.st 0x0201 0x120 ≠ 0 ∧
      cfgGet w.st 0x0201 0x101 &&& cfgGet w.st 0x0201 0x121 ≠ 0 ∧
      cfgGet w.st 0x0201 0x102 = cfgGet w.st 0x0201 0x122 then w.depend 0x0201 0x120 0
  else w

/-- Default of PROBE_FREQ by the port's band (Table 4.15a): a port left at the other band's default follows its band. -/
def probeDflt (b : Nat) : Nat := if b = 0 then 700000 else 2400000

/-- Band that holds a frequency in kHz: 0 A, 1 B; the nearer one where neither holds it. -/
def probeBand (khz : Nat) : Nat := if khz ≤ 1700000 then 0 else 1

/-- PROBE_FREQ of port `p` against its band's edges (R98, Table 4.15a). The record's own PROBE_FREQ is clamped; a field that
took its default takes the default of the band in force; a record that sets only BAND has BAND clamped. -/
def probeFix (w : Walk) (p : Nat) : Walk :=
  let id := 0x100 + 0x10 * p + 8
  let b := portBand w.st p
  let v := cfgGet w.st 0x0301 id
  let fits := fun (b : Nat) => decide (100 * bandLow (b - 1) ≤ v ∧ v ≤ 100 * bandHigh (b - 1))
  if b = 0 ∨ fits b then w
  else if !w.names id && w.defd.contains id then { w with st := cfgSet 0x0301 id (probeDflt (b - 1)) w.st }
  else if !w.names id && w.names (0x100 + 0x10 * p) then w.depend 0x0301 (0x100 + 0x10 * p) (1 + probeBand v)
  else w.depend 0x0301 id (clampN (100 * bandLow (b - 1)) (100 * bandHigh (b - 1)) v)

/-- MONITOR is 0 in band B (R98, Table 4.15a): a record that sets only BAND has BAND clamped. -/
def monitorFix (w : Walk) (p : Nat) : Walk :=
  let (b, m) := (0x100 + 0x10 * p, 0x100 + 0x10 * p + 1)
  if portBand w.st p ≠ 2 ∨ cfgGet w.st 0x0301 m = 0 then w
  else if w.names b && !w.names m && !w.defd.contains m then w.depend 0x0301 b 1
  else w.depend 0x0301 m 0

/-- Dependencies of the front-end record (Table 4.15a). -/
def depFront (w : Walk) : Walk :=
  let w := if cfgGet w.st 0x0301 0xB < cfgGet w.st 0x0301 0xC then
      (if w.names 0xB && !w.names 0xC then w.depend 0x0301 0xB (cfgGet w.st 0x0301 0xC)
       else w.depend 0x0301 0xC (cfgGet w.st 0x0301 0xB)) else w
  let port := fun (w : Walk) (p : Nat) =>
    probeFix (monitorFix w p) p
  (List.range 4).foldl port w

/-- R231: RAMP_NS is at most min(EN_LEAD, EN_TAIL) − 100. -/
def fixRamp (w : Walk) : Walk :=
  let most := (min (cfgGet w.st 0x0301 2) (cfgGet w.st 0x0301 3) - 100) / 50 * 50
  if most < cfgGet w.st 0x0501 4 then w.depend 0x0501 4 most else w

/-- Dependencies of the transmit record (Table 8.10). -/
def depTx (w : Walk) : Walk := fixLeadMin (fixRamp w)

/-- R335: PLAN_AHEAD is at least LEAD_MIN + 100 µs. -/
def fixPlanAhead (w : Walk) : Walk :=
  let least := cfgGet w.st 0x0501 1 + 100
  if cfgGet w.st 0x0B01 1 < least then w.depend 0x0B01 1 least else w

/-- LEAD_MIN of a CFG_WRITE that sets it: at most PLAN_AHEAD − 100 (R98, R335), but never below the minimum of R253. -/
def capLeadMin (w : Walk) : Walk :=
  let most := cfgGet w.st 0x0B01 1 - 100
  fixLeadMin (if w.names 1 && decide (most < cfgGet w.st 0x0501 1) then w.depend 0x0501 1 most else w)

/-- What a CFG_WRITE checks in other records (assumption 80). The transmit record: its LEAD_MIN against PLAN_AHEAD. The
front-end record: its own EN_LEAD and EN_TAIL against RAMP_NS, the one field of that pair that it sets (R98, R231; DEDUCED),
the RX_PORT fields (R227), LEAD_MIN (R253), and PLAN_AHEAD, which a raise of LEAD_MIN takes with it (R335). -/
def crossFix (type : Nat) (w : Walk) : Walk :=
  if type = 0x0501 then fixPlanAhead (capLeadMin w)
  else if type ≠ 0x0301 then w
  else
    let least := cfgGet w.st 0x0501 4 + 100
    let w := if cfgGet w.st 0x0301 2 < least then w.depend 0x0301 2 ((least + 499) / 500 * 500) else w
    let w := if cfgGet w.st 0x0301 3 < least then w.depend 0x0301 3 ((least + 99) / 100 * 100) else w
    fixPlanAhead (fixLeadMin (fixRxPort 1 (fixRxPort 0 w)))

/-- Dependencies of the channelizer record (Table 5.9, R173); a channel that no longer fits its window is disabled (R158). -/
def depChn (w : Walk) : Walk :=
  let w := w.pairMin 0x0601 0xA 9 0
  let init := fun (w : Walk) (i : Nat) =>
    let (lo, hi, v) := (cfgGet w.st 0x0601 9, cfgGet w.st 0x0601 0xA, cfgGet w.st 0x0601 i)
    if lo ≤ v ∧ v ≤ hi then w
    else if w.names i then w.depend 0x0601 i (clampN lo hi v)
    else if v < lo then w.depend 0x0601 9 v
    else w.depend 0x0601 0xA v
  let w := init (init w 7) 8
  let w := (List.range 8).foldl (fun w n =>
    let v := cfgGet w.st 0x0601 (0x10 + n)
    if bitOf v 0 && !winInBand (n / 4) v then w.depend 0x0601 (0x10 + n) (setFld v 0 1 0) else w) w
  (List.range 128).foldl (fun w n =>
    let v := cfgGet w.st 0x0602 (0x100 + n)
    if bitOf v 0 && !chFits w.st n v then w.depend 0x0602 (0x100 + n) (setFld v 0 1 0) else w) w

/-- Dependencies of the channel record (R154, R173). -/
def depCh (w : Walk) : Walk :=
  (w.sets.map Prod.fst).foldl (fun w id =>
    let v := cfgGet w.st 0x0602 id
    let r := scanRates (fld v 3 2) (fld v 11 2) (fld v 7 4)
    let v' := setFld v 7 4 r
    let v' := if bitOf v' 0 && !chFits w.st (id - 0x100) v' then setFld v' 0 1 0 else v'
    w.depend 0x0602 id v') w

/-- Dependencies of the scheduler's globals and ranges (R335). -/
def depSch (w : Walk) : Walk :=
  let w := fixPlanAhead w
  (List.range 8).foldl (fun w n =>
    let (r, sp) := (cfgGet w.st 0x0B01 (0x10 + n), cfgGet w.st 0x0B01 (0x20 + n))
    let (lo, hi, b) := (fld sp 0 15, fld sp 16 15, fld r 1 1)
    if bitOf r 0 && !decide (bandLow b ≤ lo ∧ lo ≤ hi ∧ hi ≤ bandHigh b) then
      w.depend 0x0B01 (0x10 + n) (setFld r 0 1 0) else w) w

/-- Dependencies of a shaper record (R335). -/
def depShaper (type : Nat) (w : Walk) : Walk :=
  (List.range 32).foldl (fun w i =>
    let b := 0x100 + 4 * i
    if w.names b || w.names (b + 1) || w.names (b + 2) || w.names (b + 3) then
      let mode := cfgGet w.st type b
      let w := w.depend type (b + 1) (clampN (rateRange mode).1 (rateRange mode).2 (cfgGet w.st type (b + 1)))
      w.depend type (b + 2) (clampN (burstRange mode).1 (burstRange mode).2 (cfgGet w.st type (b + 2)))
    else w) w

/-- Dependencies of a policer record: a NEXT that it sets to name the policer itself is 0xFFFF (R335). -/
def depPolicer (type : Nat) (w : Walk) : Walk :=
  (List.range 16).foldl (fun w i =>
    let id := 0x100 + 8 * i + 4
    let v := cfgGet w.st type id
    if w.names id && decide (fld v 16 16 = 16 * (type - 0x0B20) + i) then w.depend type id (setFld v 16 16 0xFFFF) else w) w

/-- Dependencies of the Ethernet record: of two enabled streams with one PAIR_VID the later is disabled (R364). -/
def depEth (w : Walk) : Walk :=
  (List.range 16).foldl (fun w i =>
    let v := cfgGet w.st 0x0C01 (0x10 + i)
    let dup := (List.range i).any fun j =>
      let u := cfgGet w.st 0x0C01 (0x10 + j)
      bitOf u 12 && decide (fld u 0 12 = fld v 0 12)
    if bitOf v 12 && dup then w.depend 0x0C01 (0x10 + i) (setFld v 12 1 0) else w) w

/-- PEER_ADDR is set (R348). -/
def peerAddrSet (s : Chip) : Bool := (List.range 4).any fun i => cfgGet s 0x0D01 (4 + i) ≠ 0

/-- Dependencies between the fields of a record (R97 step 5, R98). -/
def depFix (type : Nat) (w : Walk) : Walk :=
  if type = 0x0101 then (w.pairMin 0x0101 0xA 9 10).pairMin 0x0101 0xC 0xB 0
  else if type = 0x0201 then depTime w
  else if type = 0x0301 then depFront w
  else if type = 0x0501 then depTx w
  else if type = 0x0601 then depChn w
  else if type = 0x0602 then depCh w
  else if type = 0x0702 then fixRxPort 1 (fixRxPort 0 w)
  else if type = 0x0B01 then depSch w
  else if 0x0B10 ≤ type ∧ type < 0x0B18 then depShaper type w
  else if 0x0B20 ≤ type ∧ type < 0x0B30 then depPolicer type w
  else if type = 0x0C01 then depEth w
  else if type = 0x0D01 then
    (if peerAddrSet w.st ∧ cfgGet w.st 0x0D01 0xA < 3 * cfgGet w.st 0x0D01 9 then
      w.depend 0x0D01 0xA (3 * cfgGet w.st 0x0D01 9) else w)
  else w

/-- Status of a record (R101). -/
def Walk.status (w : Walk) : Nat := if w.torn then stTornRecord else if w.reps.isEmpty then stOk else stClamped

/-- REPLACE: every field of the type takes its default before the entries are applied (Table 3.6). -/
def Walk.replace (type : Nat) (w : Walk) : Walk :=
  (fieldsOf type).foldl (fun w f =>
    { w with st := cfgSet type f.id (rwlMerge w.st.boot.committed f.rwl (cfgGet w.st type f.id) f.dflt) w.st }) w

/-- Committed RWL fields whose default a REPLACE would give and R100 refuses: those that no entry sets and no tear resets.
Each counts once for R9. -/
def Walk.replaceViol (type : Nat) (w : Walk) : Walk :=
  (fieldsOf type).foldl (fun w f =>
    let cur := cfgGet w.st type f.id
    if w.names f.id || w.defd.contains f.id || decide (rwlMerge w.st.boot.committed f.rwl cur f.dflt = f.dflt) then w
    else { w with st := lockViol (rwlAddr type f.id) w.st }) w

/-- A record's entries applied to the running configuration (R97, R98). -/
def applyEntries (type : Nat) (replace : Bool) (es : Entries) (s : Chip) : Walk :=
  let w : Walk := ⟨type, s, none, [], [], false, []⟩
  let w := if replace then w.replace type else w
  let (w, tear) := w.run type es
  let w := match tear with
    | some (e, more) => w.tear type e more
    | none => w
  depFix type (if replace then w.replaceViol type else w)

/-! ## Reports (R102) -/

/-- Creates a report, keeps the 8 newest, and raises EV_CFG_REPORT. -/
def newReport (status : Nat) (reps : List RepEntry) (s : Chip) : Chip :=
  let no := (s.cfg.reportNo + 1) % 65536
  let r : Report := ⟨no, reps.length, status, reps.take 1024⟩
  raise 126 (pack [(0, 16, no), (16, 16, reps.length)])
    { s with cfg := { s.cfg with reports := (r :: s.cfg.reports).take 8, reportNo := no } }

/-- A report entry's bytes (Table 3.8). -/
def repBytes (e : RepEntry) : Bytes :=
  wr 2 e.type ++ wr 2 e.id ++ wr 4 e.requested ++ wr 4 e.applied ++ wr 1 e.reason ++ zeros 3

/-- Result of CFG_WRITE and CFG_COMMIT (Table 3.11). -/
def reportResult (s : Chip) (reps : List RepEntry) : Bytes :=
  wr 2 s.cfg.reportNo ++ wr 2 reps.length ++ zeros 4 ++ (reps.take 511).flatMap repBytes

/-! ## Stored copies (R96, R101) -/

/-- Stores a copy of a type with one more GENERATION (R96). -/
def storeCopy (type : Nat) (fields : List (Nat × Nat)) (s : Chip) : Chip :=
  let r : StoredRec := ⟨1, fields.length, true, fields.map fun p => (p.1, p.2, true)⟩
  { s with cfg := { s.cfg with stored := s.cfg.stored.set type (some r)
                               gens := s.cfg.gens.upd type fun g => (g + 1) % 2 ^ 32 } }

/-- The stored fields of a type that check. -/
def storedFields (type : Nat) (s : Chip) : List (Nat × Nat) :=
  match s.cfg.stored.get type with
  | some r => (r.entries.filter fun e => e.2.2).map fun e => (e.1, e.2.1)
  | none => []

/-- What a CFG_WRITE with STORE stores (R96): the previous copy with the fields that the record sets, or with REPLACE
every field at its value in force. -/
def storeFields (type : Nat) (replace : Bool) (sets : List (Nat × Nat)) (s : Chip) : List (Nat × Nat) :=
  let base := if replace then (fieldsOf type).map fun f => (f.id, cfgGet s type f.id) else storedFields type s
  sets.foldl (fun l p => insertIn l p.1 p.2) base

/-- The stored record of a type applied in boot step 4 (R97): its status and its report entries. -/
def applyStored (type : Nat) (r : StoredRec) (s : Chip) : Chip × Nat × List RepEntry :=
  if !knownType type then (s, stOk, [])
  else if !r.hcrcOk ∨ r.count = 0 then
    let ids := (fieldsOf type).map FDef.id
    let w := ids.foldl (fun w i => w.default type i 0xFFFFFFFF (if ids.head? = some i then 0x05 else 0x06))
      (⟨type, s, none, [], [], true, []⟩ : Walk)
    (w.st, stTornRecord, w.reps)
  else if r.format ≠ 1 then
    let w := ((fieldsOf type).map FDef.id).foldl (fun w i => w.default type i 0xFFFFFFFF 0x07)
      (⟨type, s, none, [], [], false, []⟩ : Walk)
    (w.st, stDefaulted, w.reps)
  else
    let es := r.entries.map some ++ List.replicate (r.count - r.entries.length) none
    let w := applyEntries type false es s
    (w.st, w.status, w.reps)

/-- The first of ST_TORN_RECORD, ST_DEFAULTED, ST_CLAMPED, ST_OK that applies (R101). -/
def worstStatus (a b : Nat) : Nat :=
  if a = stTornRecord ∨ b = stTornRecord then stTornRecord
  else if a = stDefaulted ∨ b = stDefaulted then stDefaulted
  else if a = stClamped ∨ b = stClamped then stClamped
  else stOk

/-- Stored records of every type applied in ascending TYPE (Table 3.3, step 4). -/
def loadStored (s : Chip) : Chip × Nat × List RepEntry :=
  recordTypes.foldl (fun acc type =>
    match s.cfg.stored.get type with
    | some r =>
      let (st, status, reps) := applyStored type r acc.1
      (st, worstStatus acc.2.1 status, acc.2.2 ++ reps)
    | none => acc) (s, stOk, [])

/-! ## Commit (R41, R58, R131, R253) -/

/-- Minimum BANK_LOG2 of a queue's uses (Table 1.12); `soft` are the queues that SOFTWARE routes name. -/
def minBankLog2 (s : Chip) (soft : List Nat) (n : Nat) : Nat :=
  let fixed := (dqReset.get n).bankLog2
  let fixed := if [0, 3, 4, 32, 33, 34].contains n || within 24 31 n || within 56 63 n then fixed else 6
  let use := fun (cond : Bool) (k m : Nat) => if cond then max k m else m
  use (soft.contains n) 12 (use (cfgGet s 0x1001 6 = n) 10 (use (cfgGet s 0x0C01 4 = n) 12
    (use (cfgGet s 0x0801 6 = n) 12 (use (cfgGet s 0x0801 5 = n) 10 fixed))))

/-- R41: raises every BANK_LOG2 below its minimum, words held staying (assumption 104); the report names it by the offset of its SYS_DQ_CTRLn (DEDUCED, assumption 15). -/
def commitBanks (soft : List Nat) (w : Walk) : Walk :=
  (List.range 64).foldl (fun w n =>
    let (k, q) := (minBankLog2 w.st soft n, w.st.dq.get n)
    if q.bankLog2 < k then
      { w with st := dqUpd n (fun q => { q with bankLog2 := k }) w.st }.report 0 (0x800 + 0x20 * n) q.bankLog2 k 0x08
    else w) w

/-- R58: CREDIT is lowered from transport 10 downwards until the sum is 256. -/
def commitCredit (w : Walk) : Walk :=
  (List.range 11).foldl (fun w i =>
    let t := 10 - i
    let total := sumN ((List.range 11).map (trCredit w.st))
    if 256 < total then
      let v := cfgGet w.st 0x0003 (1 + t)
      w.depend 0x0003 (1 + t) (setFld v 1 8 (max 1 (trCredit w.st t - (total - 256))))
    else w) w

/-- Bus time of one action write in 0.1 µs (R131). -/
def actionTime (khz : Nat) : Nat := if khz = 26000 then 16 else if khz = 13000 then 32 else 416

/-- Bus time of the trigger-6 entries of port `p`, in 0.1 µs (R131): those of the port's band, at most 32 (DEDUCED, assumption
79). -/
def trigger6Time (s : Chip) (p : Nat) : Nat :=
  if portBand s p = 0 then 0
  else sumN ((List.range 32).map fun n =>
    let v := cfgGet s (if portBand s p = 1 then 0x0302 else 0x0402) (1 + n)
    if fld v 0 4 = 6 ∧ fld v 4 2 = p then actionTime (cfgGet s 0x0301 (6 + fld v 6 1)) else 0)

/-- R131: BIAS_LEAD is raised to the bus time of the largest set of trigger-6 entries. -/
def commitBias (w : Walk) : Walk :=
  let need := ((List.range 4).map (trigger6Time w.st)).foldl max 0
  let us := (need + 9) / 10
  if cfgGet w.st 0x0301 1 < us then w.depend 0x0301 1 us else w

/-- Configuration commit: the checks made at commit, then COMMITTED (R9, R41, R58, R131, R227, R231, R253). -/
def commitConfig (soft : List Nat) (s : Chip) : Chip × List RepEntry :=
  let w : Walk := ⟨0, s, none, [], [], false, []⟩
  let w := fixRamp (fixPlanAhead (fixLeadMin (fixRxPort 1 (fixRxPort 0 (commitBias (commitCredit (commitBanks soft w)))))))
  ({ w.st with boot := { w.st.boot with committed := true } }, w.reps)

end Sys2Proof.Machine
end

