-- ==== Sys2Proof/Machine/Cal.lean ====
section
/-! DEFINITION. The calibration set (R106 to R108): a section in use, in staging and in place, the registers that keep the
results of run-time calibrations, and the delays of section 0x06. -/

namespace Sys2Proof.Machine

def calUpd (f : Cal → Cal) (s : Chip) : Chip := { s with cal := f s.cal }

/-- Size limit of a section's body (R107). -/
def calMax : Nat := 4096

/-- The stored section: the newest whose commit mark is set, even where its copy is still in staging (R108). -/
def calSec (s : Chip) (k : Nat) : CalSection :=
  match s.cal.staged with
  | some (j, c) => if j = k then c else s.cal.sections.get k
  | none => s.cal.sections.get k

/-- The body in use: the results that a run-time calibration keeps in registers (R107), else the stored body, or the built-in
nominal values of a section whose CRC failed at boot (R108). -/
def calBody (s : Chip) (k : Nat) : Bytes :=
  match s.cal.running.get k with
  | some b => b
  | none => if s.cal.nominal.contains k then Config.calNominal k else (calSec s k).body

/-- A section whose commit mark is set is copied into place, and the mark is cleared (R108). -/
def calFinish (s : Chip) : Chip :=
  match s.cal.staged with
  | some (k, c) => calUpd (fun x => { x with sections := x.sections.set k c, staged := none }) s
  | none => s

/-- A section is written (R108): the new section goes to staging and its commit mark is set, which is when the previous values
are lost; the copy into place follows (R83 names no row for it: with the next tick or the next write, or in boot step 4;
DESIGN CHOICE, assumption 88). -/
def calStore (sec source : Nat) (body : Bytes) (s : Chip) : Chip :=
  let c : CalSection := ⟨source, ((calSec s sec).gen + 1) % 2 ^ 32, body, true⟩
  raise 127 sec (calUpd (fun x => { x with
    staged := some (sec, c), running := x.running.set sec none, nominal := x.nominal.filter (· ≠ sec) }) (calFinish s))

/-- An array filled from a part of section 0x06. -/
def delayTab (body : Bytes) (off n : Nat) : Tab Int := (Tab.const 0).updAll n fun i _ => Config.delayOf body (off + i)

/-- The running delays follow section 0x06. -/
def loadDelays (s : Chip) : Chip :=
  let b := calBody s 0x06
  { s with tx := { s.tx with delays :=
    ⟨delayTab b 0 16, delayTab b 0 16, delayTab b 16 4, delayTab b 20 4, delayTab b 24 4, delayTab b 28 16, delayTab b 44 4⟩ } }

/-- A section that CAL_WRITE brings: the values that the part runs on follow it. -/
def calWrite (sec source : Nat) (body : Bytes) (s : Chip) : Chip :=
  let s := calStore sec source body s
  if sec = 0x06 then loadDelays s else s

/-- The delays of section 0x06 in its order, D_TX as stored. -/
def delayList (s : Chip) : List Int :=
  let d := s.tx.delays
  (List.range 16).map d.dtxStored.get ++ (List.range 4).map d.tau.get ++ (List.range 4).map d.obsCable.get ++
    (List.range 4).map d.drx.get ++ (List.range 16).map d.gb.get ++ (List.range 4).map d.dball.get

/-- Section 0x06 takes the running D_TX of the ports and carriers named, by 4 × port + carrier (R242 to R244). -/
def storeDelays (which : List Nat) (s : Chip) : Chip :=
  let s := { s with tx := { s.tx with delays := { s.tx.delays with
    dtxStored := which.foldl (fun t i => t.set i (s.tx.delays.dtx.get i)) s.tx.delays.dtxStored } } }
  calStore 0x06 1 (Config.delayBody (delayList s)) s

/-- Section 0x04 with one band's part replaced (R128): the specification gives no layout; the model keeps band A's part in
the first half and band B's in the second (DESIGN CHOICE, assumption 89). -/
def txdPart (b : Nat) (old new : Bytes) : Bytes :=
  let half := old.length / 2
  if b = 0 then new ++ old.drop half else old.take half ++ new

/-- Sections of a band that its calibration writes (R128). -/
def calSections (b : Nat) : List Nat := if b = 0 then [0x01, 0x03, 0x04, 0x05] else [0x02, 0x04]

/-- The results of a band's calibration by section, cut to the size limit, the other band's part of section 0x04 kept; a
section without a result keeps the body in use. -/
def calResults (b : Nat) (results : List Bytes) (s : Chip) : List (Nat × Bytes) :=
  (calSections b).zipIdx.map fun x =>
    let old := calBody s x.1
    (x.1, match results[x.2]? with
      | some r => (if x.1 = 4 then txdPart b old r else r).take calMax
      | none => old)

/-- The results stay in registers (R107). -/
def keepCal (b : Nat) (results : List Bytes) (s : Chip) : Chip :=
  forEach (calResults b results s) (fun x => calUpd fun c => { c with running := c.running.set x.1 (some x.2) }) s

/-- A band's calibration registers are lost with its domain (Table 16.5): the stored sections are in use again. -/
def dropCal (b : Nat) (s : Chip) : Chip :=
  let own := fun (l : Bytes) => if b = 0 then l.take (l.length / 2) else l.drop (l.length / 2)
  forEach (calSections b) (fun k s =>
    let back := fun (r : Option Bytes) => if k = 4 then r.map fun cur => txdPart b cur (own (calSec s 4).body) else none
    calUpd (fun c => { c with running := c.running.upd k back }) s) s

/-- The results are stored: every section of the band is written (R128). -/
def storeCal (b : Nat) (results : List Bytes) (s : Chip) : Chip :=
  forEach (calResults b results s) (fun x => calStore x.1 1 x.2) s

end Sys2Proof.Machine
end

