-- ==== Sys2Proof/Machine/Mem.lean ====
section
/-! DEFINITION. LPDDR4X as a list of (address, byte) pairs in one form: addresses strictly rising, and no byte listed
that equals what an unlisted address reads as, 0 (DESIGN CHOICE, assumption 7). -/

namespace Sys2Proof.Machine

/-- What an unlisted byte reads as. -/
def memDflt : Byte := 0

/-- Every address of the list is above `a`. -/
def memAbove (a : Nat) : List Host.Cell → Bool
  | [] => true
  | (k, _) :: m => decide (a < k) && memAbove a m

/-- The canonical form. -/
def memWf : List Host.Cell → Bool
  | [] => true
  | (k, v) :: m => memAbove k m && decide (v ≠ memDflt) && memWf m

/-- The byte at an address. -/
def memRead : List Host.Cell → Nat → Byte
  | [], _ => memDflt
  | (k, v) :: m, a => if k = a then v else memRead m a

/-- Writes a byte. -/
def memWrite : List Host.Cell → Nat → Byte → List Host.Cell
  | [], a, v => if v = memDflt then [] else [(a, v)]
  | (k, x) :: m, a, v =>
    if a < k then (if v = memDflt then (k, x) :: m else (a, v) :: (k, x) :: m)
    else if a = k then (if v = memDflt then m else (k, v) :: m)
    else (k, x) :: memWrite m a v

/-- The little-endian word at a byte address (R5). -/
def memRead32 (m : List Host.Cell) (a : Nat) : Word :=
  w32 (leNat [memRead m a, memRead m (a + 1), memRead m (a + 2), memRead m (a + 3)])

/-- Writes bytes from an address on. -/
def memWriteBytes : List Host.Cell → Nat → Bytes → List Host.Cell
  | m, _, [] => m
  | m, a, b :: bs => memWriteBytes (memWrite m a b) (a + 1) bs

/-- Fitted LPDDR4X bytes (MEM_DRAM_STAT.SIZE, Table 18.7). -/
def dramBytes (s : Chip) : Nat :=
  match s.sys.dramSize with
  | 0 => 0
  | n => 2 ^ (28 + n)

end Sys2Proof.Machine
end

