-- ==== Sys2Proof/Machine/Phy.lean ====
section
/-! DEFINITION. The Amconde PHY (R176 to R191): the chirp, packet fields, header and payload coding and its inverse,
airtime; the SUN-FSK PPDU (R197, R199); sensitivities (Tables 6.4 and 6.9). -/

namespace Sys2Proof.Machine

/-- A byte serialised bit 0 first (Table 6.2, step 3). -/
def byteBits (b : Byte) : List Bool := (List.range 8).map fun i => b.toNat.testBit i

/-- Bits of a byte string. -/
def bitsOf (bs : Bytes) : List Bool := bs.flatMap byteBits

/-- Value of bits, bit 0 first. -/
def natOfBits : List Bool → Nat
  | [] => 0
  | b :: bs => b2n b + 2 * natOfBits bs

/-- Bytes of a bit string, bit 0 first; a last partial byte is dropped. -/
def bytesOfBits (bs : List Bool) : Bytes := (List.range (bs.length / 8)).map fun i => byte (natOfBits ((bs.drop (8 * i)).take 8))

/-- First `n` values of the whitening sequence from a state of the 9-bit LFSR (R187). -/
def whiteSeq : Nat → Nat → List Bool
  | 0, _ => []
  | n + 1, st => st.testBit 0 :: whiteSeq n (st / 2 + (b2n (xor (st.testBit 0) (st.testBit 5))) * 256)

/-- XOR with the whitening sequence from bit 0 of the PSDU on (R187). -/
def whiten (bs : List Bool) : List Bool := List.zipWith xor bs (whiteSeq bs.length 0x1FF)

/-- Groups of a payload (R187). -/
def payGroups (k len : Nat) : Nat := (2 * (len + 2) + k - 1) / k

/-- Bandwidth of a code in units of 100 kHz. -/
def bwUnits (code : Nat) : Nat := 2 ^ code

/-- Bit of a block with indices modulo its length. -/
def bitMod (u : List Bool) (i : Nat) : Bool := u.getD (i % u.length) false

/-- The tail-biting code of R188. -/
def convCode (u : List Bool) : List Bool :=
  (List.range u.length).flatMap fun n =>
    let at_ := fun d => bitMod u (n + 6 * u.length - d)
    [xor (at_ 0) (xor (at_ 2) (xor (at_ 3) (xor (at_ 5) (at_ 6)))),
     xor (at_ 0) (xor (at_ 1) (xor (at_ 2) (xor (at_ 3) (at_ 6))))]

/-- Value of column `s` of an interleaved block with `r` rows (R189, R190): coded bit 8q + s stands in row (q + s) mod r. -/
def columnValue (c : List Bool) (r s : Nat) : Nat :=
  sumN ((List.range r).map fun q => b2n (c.getD (8 * q + s) false) * 2 ^ (r - 1 - (q + s) % r))

/-- Gray inverse (R190). -/
def grayInvGo : Nat → Nat → Nat → Nat
  | 0, m, _ => m
  | n + 1, m, v => grayInvGo n (m ^^^ (v / 2)) (v / 2)

/-- `g⁻¹` of a value of at most 16 bits. -/
def grayInv (v : Nat) : Nat := grayInvGo 16 v v

/-! ## The chirp (R177, R178) -/

/-- `g(u)` in turns, u in chips (R177). -/
def gTurns (k : Nat) (u : Rat) : Rat := u * u / (2 * 2 ^ k) - u / 2

/-- Phase of a symbol, relative to θ, `x` = B·τ chips after its begin, 0 ≤ x < N: in turns (R177). -/
def symbolPhase (k : Nat) (up : Bool) (m : Nat) (x : Rat) : Rat :=
  let u := (m : Rat) + x
  let u := if u < 2 ^ k then u else u - 2 ^ k
  let d := gTurns k u - gTurns k m
  if up then d else -d

/-- `2N·g(u)` for a whole number of chips. -/
def gWhole (k u : Nat) : Int := (u : Int) * u - 2 ^ k * u

/-- Phase of chip sample n of a symbol, relative to θ, in units of 1/(2N) turn (R178): s[n] has amplitude A and this phase. -/
def chipPhase (k : Nat) (up : Bool) (m n : Nat) : Int :=
  let d := gWhole k ((m + n) % 2 ^ k) - gWhole k m
  if up then d else -d

/-- The chip samples of a sequence of symbols, one per chip. -/
def chipPhases (k : Nat) (syms : List (Bool × Nat)) : List Int :=
  syms.flatMap fun y => (List.range (2 ^ k)).map (chipPhase k y.1 y.2)

/-! ## Undoing the coding (Table 6.2 in reverse) -/

/-- Column bits of a shift (R190): g(m) gives the value, row 0 its most significant bit. -/
def columnBit (r m row : Nat) : Bool := (m ^^^ (m / 2)).testBit (r - 1 - row)

/-- De-interleaves the columns of a block with `r` rows (R189): coded bit 8q + s stands in row (q + s) mod r of column s. -/
def deinterleave (r : Nat) (shifts : List Nat) : List Bool :=
  (List.range (8 * r)).map fun j => columnBit r (shifts.getD (j % 8) 0) ((j / 8 + j % 8) % r)

/-- The block that a coded word came from, if it is a code word of R188: since (x² + x⁴)·g₀ + (1 + x + x² + x³ + x⁴)·g₁ = 1
for the two generators, these taps give each information bit. -/
def convInvert (c : List Bool) : List Bool :=
  let n := c.length / 2
  let a := fun (p i d : Nat) => c.getD (2 * ((i + 4 * n - d) % n) + p) false
  (List.range n).map fun i =>
    xor (xor (a 0 i 2) (a 0 i 4)) (xor (a 1 i 0) (xor (a 1 i 1) (xor (a 1 i 2) (xor (a 1 i 3) (a 1 i 4)))))

/-- Places in which two bit strings differ. -/
def bitDiffs (a b : List Bool) : Nat := ((List.zipWith xor a b).filter id).length

/-- Decodes a block of R188: the information bits and the coded bits corrected. No rule gives the decoder's choice for a word
that is no code word: an unconstrained function of the word (DESIGN CHOICE, assumption 87). -/
def convDecode (c : List Bool) : List Bool × Nat :=
  let u := convInvert c
  if convCode u = c then (u, 0)
  else
    let v := ((Config.fecDecode 0 c) ++ List.replicate (c.length / 2) false).take (c.length / 2)
    (v, bitDiffs (convCode v) c)

/-- A group of measured payload shifts, decoded: still whitened (R185, R190). -/
def groupDecode (k : Nat) (shifts : List Nat) : List Bool × Nat := convDecode (deinterleave k (shifts.map (· % 2 ^ k)))

/-- The measured header shifts, decoded: each is rounded to the nearest multiple of 4 (R190). -/
def headerDecode (k : Nat) (shifts : List Nat) : List Bool × Nat :=
  convDecode (deinterleave (k - 2) (shifts.map fun m => (m + 2) / 4 % 2 ^ (k - 2)))

/-- HCRC of a header (R183). -/
def hcrc (len k bw : Nat) : Nat := crc8 [byte len, byte ((k - 6) + 8 * bw)]

/-- The header block of 4(K − 2) bits (R183). -/
def headerBits (len k bw : Nat) : List Bool :=
  let h := bitsOf [byte len, byte (hcrc len k bw)]
  (List.range (4 * (k - 2))).map fun j => h.getD (j % 16) false

/-- Shifts of the eight header symbols (Table 6.1). -/
def headerShifts (len k bw : Nat) : List Nat :=
  let c := convCode (headerBits len k bw)
  (List.range 8).map fun s => 4 * grayInv (columnValue c (k - 2) s)

/-- The whitened payload bits of Table 6.2, steps 1 to 4. -/
def payloadBits (k : Nat) (psdu : Bytes) : List Bool :=
  let d := bitsOf (psdu ++ wr 2 (crc16 psdu))
  whiten (d ++ List.replicate (4 * k * payGroups k psdu.length - d.length) false)

/-- Shifts of the payload symbols (Table 6.2, steps 5 to 7). -/
def payloadShifts (k : Nat) (psdu : Bytes) : List Nat :=
  let b := payloadBits k psdu
  (List.range (payGroups k psdu.length)).flatMap fun g =>
    let c := convCode ((b.drop (4 * k * g)).take (4 * k))
    (List.range 8).map fun s => grayInv (columnValue c k s)

/-- An Amconde packet as its symbols (Table 6.1): direction (true up) and shift. -/
def amcSymbols (k bw np netid : Nat) (psdu : Bytes) : List (Bool × Nat) :=
  List.replicate np (true, 0) ++
  [(false, fld netid 6 6 * 2 ^ (k - 6)), (false, fld netid 0 6 * 2 ^ (k - 6))] ++
  ((headerShifts psdu.length k bw) ++ payloadShifts k psdu).map fun m => (true, m)

/-- Airtime of an Amconde packet in ns (R191). -/
def amcAirNs (k bw np len : Nat) : Nat := (np + 10 + 8 * payGroups k len) * 2 ^ k * 10000 / bwUnits bw

/-- Symbol rate of a SUN-FSK rate index in symbols per second (R154). -/
def fskSymRate (rate mod : Nat) : Nat := (50000 * (rate + 1)) / (if 2 ≤ mod then 2 else 1)

/-! ## SUN-FSK (R197 to R199)

The specification names IEEE 802.15.4-2020 for the octets and bits of a SUN-FSK PPDU and does not repeat them: the values
below are the standard's (PRESUMED, assumption 19). -/

/-- Bits that follow the PSDU under FEC: three of the tail, and pad up to 16 code symbols. -/
def fecExtra (octets : Nat) : Nat := if octets % 2 = 0 then 16 else 8

/-- Bits on the air after the SFD, for PHR and PSDU with its FCS. -/
def fskBodyBits (fec fcs2 : Bool) (len : Nat) : Nat :=
  let n := 2 + len + (if fcs2 then 2 else 4)
  if fec then 2 * (8 * n + fecExtra n) else 8 * n

/-- Airtime of a SUN-FSK PPDU in ns (R197, Table 6.8): preamble and a two-octet SFD at one bit per symbol, the two-octet PHR
and the PSDU with its FCS at one or two bits per symbol, under FEC with its tail and pad at rate ½. -/
def fskAirNs (rate mod : Nat) (fec fcs2 : Bool) (pre len : Nat) : Nat :=
  let body := fskBodyBits fec fcs2 len
  let syms := 8 * (pre + 2) + (body + (if 2 ≤ mod then 1 else 0)) / (if 2 ≤ mod then 2 else 1)
  syms * nsSec / fskSymRate rate mod

/-- Value of bits, first bit most significant. -/
def natOfMsb (bs : List Bool) : Nat := natOfBits bs.reverse

/-- `n` bits of a value, most significant first. -/
def msbBits (n v : Nat) : List Bool := ((List.range n).map fun i => v.testBit i).reverse

/-- SFD of a set (phySunFskSfd), uncoded or coded, first bit most significant. -/
def fskSfd (set1 fec : Bool) : Nat :=
  if set1 then (if fec then 0x632D else 0x7A0E) else (if fec then 0x6F4E else 0x904E)

/-- PHR: Mode Switch 0, two reserved bits, FCS Type, Data Whitening, Frame Length; first bit most significant. -/
def fskPhr (fcs2 white : Bool) (frameLen : Nat) : Nat := 4096 * b2n fcs2 + 2048 * b2n white + frameLen % 2048

/-- The PN9 sequence: that of R187 after its first nine values. -/
def pn9 (n : Nat) : List Bool := (whiteSeq (n + 9) 0x1FF).drop 9

/-- Data whitening of the PSDU. -/
def fskWhiten (bs : List Bool) : List Bool := List.zipWith xor bs (pn9 bs.length)

/-- The four-octet FCS: CRC-32 of IEEE 802.3, over a PSDU padded to at least four octets. -/
def crc32 (bs : Bytes) : Nat :=
  ((bs ++ List.replicate (4 - bs.length) 0).foldl (crcByteR 0xEDB88320) 0xFFFFFFFF) ^^^ 0xFFFFFFFF

/-- The FCS that a PHR announces (R199). -/
def fskFcs (fcs2 : Bool) (psdu : Bytes) : Bytes := if fcs2 then wr 2 (crc16 psdu) else wr 4 (crc32 psdu)

/-- One step of a SUN FEC encoder of constraint length 4: the two code bits and the next register. NRNSC: 1 + x + x² + x³ and
1 + x² + x³. RSC: the bit itself, and the second over the first. -/
def fecStep (rsc : Bool) (m : Bool × Bool × Bool) (b : Bool) : (Bool × Bool) × (Bool × Bool × Bool) :=
  let (m1, m2, m3) := m
  let w := if rsc then xor b (xor m1 (xor m2 m3)) else b
  let par := xor w (xor m2 m3)
  ((if rsc then b else xor w (xor m1 (xor m2 m3)), par), (w, m1, m2))

/-- The tail bits that return the register to zero. -/
def fecTail (rsc : Bool) (m : Bool × Bool × Bool) : List Bool :=
  let (m1, m2, m3) := m
  if rsc then [xor m1 (xor m2 m3), xor m1 m2, m1] else [false, false, false]

/-- Encodes bits from a register: the code bits and the register after them. -/
def fecRun (rsc : Bool) : List Bool → Bool × Bool × Bool → List Bool × (Bool × Bool × Bool)
  | [], m => ([], m)
  | b :: l, m =>
    let (c, m) := fecStep rsc m b
    let (r, m) := fecRun rsc l m
    (c.1 :: c.2 :: r, m)

/-- Pad bits after the tail. -/
def fecPad (n : Nat) : List Bool :=
  ([false, true, false, true, true, false, false, false, false, true, false, true, true] : List Bool).take n

/-- Interleaves blocks of 16 code symbols of two bits. -/
def fecInterleave (c : List Bool) : List Bool :=
  (List.range c.length).map fun i =>
    let (blk, k) := (i / 32, i % 32 / 2)
    c.getD (32 * blk + 2 * (15 - 4 * (k % 4) - k / 4) + i % 2) false

/-- The interleaver is applied with NRNSC, and with RSC as phyFskFecInterleavingRsc says. -/
def fecMixes (rsc ilv : Bool) : Bool := !rsc || ilv

/-- PHR and PSDU under FEC: encoded with tail and pad, and interleaved. -/
def fecEncode (rsc ilv : Bool) (bits : List Bool) : List Bool :=
  let (c, m) := fecRun rsc bits (false, false, false)
  let more := fecTail rsc m ++ fecPad (fecExtra (bits.length / 8) - 3)
  let c := c ++ (fecRun rsc more m).1
  if fecMixes rsc ilv then fecInterleave c else c

/-- The bits that a code word came from, tail and pad included: RSC carries them; NRNSC gives each by its first code bit. -/
def fecInvert (rsc : Bool) : List Bool → Bool × Bool × Bool → List Bool
  | a :: _ :: l, (m1, m2, m3) =>
    let b := if rsc then a else xor a (xor m1 (xor m2 m3))
    b :: fecInvert rsc l (b, m1, m2)
  | _, _ => []

/-- Decodes whole blocks of received code bits: the first `n` information bits, and the code bits corrected. Each block's
permutation is its own inverse. Where the word is no code word the decoder's choice is an unconstrained function of it
(DESIGN CHOICE, assumption 87). -/
def fecDecode (rsc ilv : Bool) (n : Nat) (c : List Bool) : List Bool × Nat :=
  let c := if fecMixes rsc ilv then fecInterleave c else c
  let zero := (false, false, false)
  let u := fecInvert rsc c zero
  if (fecRun rsc u zero).1 = c then (u.take n, 0)
  else
    let v := ((Config.fecDecode (1 + b2n rsc + 2 * b2n ilv) c) ++ List.replicate u.length false).take u.length
    (v.take n, bitDiffs (fecRun rsc v zero).1 c)

/-- Bits of a SUN-FSK PPDU on the air, in order: preamble of `pre` octets, SFD, PHR and PSDU with its FCS. `cfg`: bit 1
FEC_SCHEME, bit 2 FEC_INTERLEAVE, bit 3 SFD_SET (Table 6.11). -/
def fskHead (cfg : Nat) (fec : Bool) (pre : Nat) : List Bool :=
  (List.range (8 * pre)).map (fun i => decide (i % 2 = 1)) ++ msbBits 16 (fskSfd (bitOf cfg 3) fec)

def fskBody (cfg : Nat) (fec fcs2 white : Bool) (psdu : Bytes) : List Bool :=
  let f := fskFcs fcs2 psdu
  let bits := bitsOf (psdu ++ f)
  let all := msbBits 16 (fskPhr fcs2 white (psdu.length + f.length)) ++ (if white then fskWhiten bits else bits)
  if fec then fecEncode (bitOf cfg 1) (bitOf cfg 2) all else all

/-- Frequency deviation of a symbol in units of h·Rs÷2: 2-FSK ±1; 4-FSK ±1, ±3, where SHR bits take the outer ones. -/
def dev2 (b : Bool) : Int := if b then 1 else -1
def dev4 (a b : Bool) : Int := if a then (if b then 1 else 3) else (if b then -1 else -3)

/-- Deviations of body bits, two at a time in 4-FSK. -/
def devs4 : List Bool → List Int
  | a :: b :: l => dev4 a b :: devs4 l
  | [a] => [dev4 a false]
  | [] => []

/-- A SUN-FSK PPDU as its frequency deviations (R197). -/
def fskSymbols (cfg mod : Nat) (fec fcs2 white : Bool) (pre : Nat) (psdu : Bytes) : List Int :=
  let shr := fskHead cfg fec pre
  let body := fskBody cfg fec fcs2 white psdu
  if 2 ≤ mod then shr.map (fun b => 3 * dev2 b) ++ devs4 body else (shr ++ body).map dev2

/-- Sensitivity of an Amconde mode, 0.1 dBm (Table 6.4, R192). -/
def amcSens (k bw band : Nat) : Int :=
  (match k with
    | 6 => -1220
    | 7 => -1250
    | 8 => -1280
    | 9 => -1310
    | 10 => -1340
    | 11 => -1370
    | 12 => -1390
    | _ => -1420) + 30 * (bw : Int) + (if band = 1 then 2 else 0)

/-- Sensitivity of a SUN-FSK mode, 0.1 dBm (Table 6.9, R200, R192). -/
def fskSens (rate mod : Nat) (fec : Bool) (band : Nat) : Int :=
  (match rate with
    | 0 => -1100
    | 1 => -1070
    | 2 => -1050
    | _ => -1040) - (if fec then 40 else 0) + (if mod % 2 = 0 then 10 else 0) + (if 2 ≤ mod then 30 else 0) +
    (if band = 1 then 2 else 0)

/-- NETID accepted (R181, R196). -/
def netidAccepted (s : Chip) (id : Nat) : Bool :=
  decide (cfgGet s 0x0701 1 = 1) ||
    (List.range 8).any fun n =>
      let v := cfgGet s 0x0701 (0x10 + n)
      bitOf v 31 && decide (v % 4096 = id)

/-- A sync shift rounded to the nearest multiple of 2^(K − 6), as its 6-bit half (R181). -/
def syncHalf (k m : Nat) : Nat := (m + 2 ^ (k - 6) / 2) / 2 ^ (k - 6) % 64

/-- DEM_PHY_CFG (Table 6.11). -/
def demPhyCfg (s : Chip) : Nat :=
  pack [(0, 1, cfgGet s 0x0701 1), (1, 1, cfgGet s 0x0701 2), (2, 1, cfgGet s 0x0701 3), (3, 1, cfgGet s 0x0701 4),
    (4, 1, cfgGet s 0x0701 6), (16, 11, cfgGet s 0x0701 5)]

end Sys2Proof.Machine
end

