-- ==== Sys2Proof/Machine/Rewind.lean ====
section
/-! DEFINITION. Rewind (R478 to R497): ring, capture, triggers, marks, freezes, replay, and its commands. -/

namespace Sys2Proof.Machine

/-- Rewind's state is changed. -/
def rwdUpd (f : Rwd → Rwd) (s : Chip) : Chip := { s with rwd := f s.rwd }

/-- Words of a page, and of a ring of 2^k bytes (R478). -/
def pageWords : Nat := 4096
def ringWords (k : Nat) : Nat := 2 ^ k / 4

/-- The largest RING_LOG2 that the fitted memory allows (R478). -/
def ringMax (s : Chip) : Nat := Nat.log2 (dramBytes s - 2 ^ 29)

/-- RING_LOG2 as applied (R478, Table 17.7). -/
def ringApplied (s : Chip) : Nat := max 24 (min (cfgGet s 0x1001 1) (ringMax s))

/-- Byte address of a ring word: the ring is the highest RING_SIZE bytes (R478). -/
def ringAddr (s : Chip) (off : Nat) : Nat := dramBytes s - 2 ^ s.rwd.ringLog2 + 4 * off

/-- A ring word. -/
def ringGet (s : Chip) (off : Nat) : Word := memRead32 s.dram (ringAddr s off)

/-- Stores a ring word. -/
def rwdPut (off : Nat) (w : Word) (s : Chip) : Chip := { s with dram := memWriteBytes s.dram (ringAddr s off) (wr 4 w.toNat) }

/-- Capture writes (Table 17.5). -/
def rwdWriting (s : Chip) : Bool := within 1 2 s.rwd.st && decide (s.rwd.st = 1 ∨ 0 < s.rwd.postLeft) && pdOn s 10

/-- The pointer writes the word of some marks: the first write of a word that a mark named before it was written leaves
the mark, any other write overtakes it (R487). -/
def marksAt (off : Nat) (s : Chip) : Chip :=
  forEach (List.range 16) (fun k s =>
    if s.rwd.marks.get k = off then
      rwdUpd (fun r => { r with fresh := r.fresh.set k (if r.fresh.get k = 1 then 0 else 2) }) s
    else s) s

/-- Writes the next word of the ring (R478). -/
def rwdWord (w : Word) (s : Chip) : Chip :=
  let off := s.rwd.wptr
  let s := marksAt off (rwdPut off w s)
  rwdUpd (fun r =>
    { r with wptr := (off + 1) % ringWords r.ringLog2, wrapped := r.wrapped || decide (off + 1 = ringWords r.ringLog2)
             postLeft := r.postLeft - 1 }) s

/-- Writes a word while capture writes: a record, a loss count or fill words end with the post-trigger words too (R486). -/
def rwdNext (s : Chip) (w : Word) : Chip := if rwdWriting s then rwdWord w s else s

/-- The words of a time-stamp record taken now in the stamping domain (R480, Table 17.2). -/
def recordWords (s : Chip) : List Word :=
  let t := stampTd s
  let w := fun (k p : Nat) => w32 (0xC0000000 + k * 2 ^ 28 + p)
  [w 0 (fld t.sec 0 28),
   w 1 (pack [(0, 20, t.sec / 2 ^ 28), (20, 1, s.time.stampDom), (21, 1, b2n (unlockedAt s s.time.stampDom)),
     (22, 1, b2n s.rwd.gap.isSome), (23, 1, b2n s.rwd.changed)]),
   w 2 (fld t.nsPart 0 28), w 3 (pack [(0, 4, t.nsPart / 2 ^ 28), (4, 16, t.frac16), (20, 8, t.epoch)])]

/-- Data words up to the page boundary, at which capture waits for the next record. -/
def captureGo : List Word → Chip → Chip
  | [], s => rwdUpd (fun r => { r with backlog := [] }) s
  | w :: ws, s =>
    if !rwdWriting s then rwdUpd (fun r => { r with backlog := [] }) s
    else if s.rwd.wptr % pageWords = 0 then rwdUpd (fun r => { r with backlog := w :: ws }) s
    else captureGo ws (rwdWord w s)

/-- Captured data words reach the ring. -/
def capture (ws : List Word) (s : Chip) : Chip :=
  if rwdWriting s then captureGo (s.rwd.backlog ++ ws) s else s

/-- Future marks take the record just begun when its stamp lies at or after their AT (R487). -/
def futureMarks (off : Nat) (s : Chip) : Chip :=
  forEach (List.range 16) (fun k s =>
    match s.rwd.future.get k with
    | some a =>
      if a ≤ (stampTd s).ns then rwdUpd (fun r => { r with marks := r.marks.set k off, future := r.future.set k none }) s
      else s
    | none => s) s

/-- Begins a page: its record, and the loss count after a gap (R480, R483). -/
def beginPage (s : Chip) : Chip :=
  let off := s.rwd.wptr
  let s1 := futureMarks off ((recordWords s).foldl rwdNext s)
  let s2 := match s.rwd.gap with
    | some n => rwdNext s1 (w32 (0x80000000 + min n 0x3FFFFFFF))
    | none => s1
  rwdUpd (fun r => { r with gap := none, changed := false }) s2

/-- `n` sample words that nothing constrains (assumptions 3 and 113). -/
def freeWords : Nat → Chip → List Word × Chip
  | 0, s => ([], s)
  | n + 1, s =>
    let (v, s) := freeNat 30 s
    let (ws, s) := freeWords n s
    (w32 v :: ws, s)

/-- The two tags of sample words that alternate over a page's data words, or the one (Table 17.1, R481): `two` sources, and whether
the next word is the second source's. -/
def tagWords (two : Bool) : Bool → List Word → List Word
  | _, [] => []
  | snd, w :: ws => w32 (w.toNat % 2 ^ 30 + (if two && snd then 2 ^ 30 else 0)) :: tagWords two (!snd) ws

/-- RWD_PAGE_START: at a page boundary the record is written (R478); `words`: the samples of the page in wideband mode
(R481), each three samples of its source; samples that it leaves out are free (assumption 113). In per-channel mode the blocks
that waited follow. -/
def execRwdPageStart (words : List Word) (s : State) : Out :=
  s.on fun s =>
  .next (if rwdWriting s && decide (s.rwd.wptr % pageWords = 0) then
      let s := beginPage s
      if s.rwd.mode = 0 then
        let n := (pageWords - s.rwd.wptr % pageWords) % pageWords
        let (more, s) := freeWords (n - words.length) s
        captureGo (tagWords (s.rwd.sources = 0 ∨ s.rwd.sources = 3) false (words.take n ++ more)) s
      else captureGo s.rwd.backlog s
    else s)

/-- CAPTURE_GAP: words lost at a crossing end the page (R483). -/
def execCaptureGap (lost : Nat) (s : State) : Out :=
  s.on fun s =>
  .next (if rwdWriting s && decide (0 < lost) then
      let k := (pageWords - s.rwd.wptr % pageWords) % pageWords
      let s := (List.replicate k (w32 0x80000000)).foldl rwdNext s
      bump 0x100014 lost (rwdUpd (fun r =>
        { r with gap := some (r.gap.getD 0 + lost), gapped := true, backlog := [] }) s)
    else s)

/-- The setup snapshot in the layout of RWD_SETUP_READ (R490, Table 17.8). -/
def setupSnapshot (s : Chip) : Bytes :=
  (List.range 8).flatMap (fun n => wr 4 (cfgGet s 0x0601 (0x10 + n))) ++
  (List.range 128).flatMap (fun n => wr 4 (cfgGet s 0x0602 (0x100 + n))) ++
  (List.range 128).flatMap (fun n =>
    let t := (s.chn.chans.get n).thr
    let m := cfgGet s 0x0601 0xA
    wr 4 (pack [(0, 10, t.1), (10, 1, b2n (t.1 = m)), (12, 10, t.2), (22, 1, b2n (t.2 = m))])) ++
  wr 4 (demPhyCfg s) ++
  (List.range 8).flatMap (fun n => wr 4 (cfgGet s 0x0701 (0x10 + n))) ++ wr 4 s.rwd.skew ++
  wr 6 (stampTd s).sec ++ wr 4 (stampTd s).nsPart ++ wr 2 (stampTd s).frac16

/-- The freeze record (R489). -/
def freezeRec (s : Chip) : FreezeRec :=
  let r := s.rwd
  ⟨r.wptr, r.trig, r.marks, r.mode, r.sources, r.ringLog2, r.wrapped, r.snapshot⟩

/-- Result of RWD_FREEZE. -/
def freezeResult (s : Chip) : Bytes := wr 4 s.rwd.trig ++ wr 4 s.rwd.wptr

/-- EV_RWD_FREEZE. -/
def raiseFreeze (s : Chip) : Chip := raise 120 (pack [(0, 8, s.rwd.code), (32, 32, s.rwd.trig)]) s

/-- The ring freezes (R486, R489): the record is written, the event raised, and the waiting commands complete. -/
def freezeNow (s : Chip) : Chip :=
  let s := raiseFreeze (rwdUpd (fun r => { r with st := 3, postLeft := 0, backlog := [] }) s)
  let s := rwdUpd (fun r => { r with frz := some (freezeRec s) }) s
  let ws := s.rwd.waiters
  forEach ws (fun c s => complete c stOk (freezeResult s) s) (rwdUpd (fun r => { r with waiters := [] }) s)

/-- The first trigger is taken (R486). -/
def takeTrigger (code : Nat) (s : Chip) : Chip :=
  rwdUpd (fun r => { r with st := 2, trig := r.wptr, code := code, postLeft := cfgGet s 0x1001 4 * 2 ^ r.ringLog2 / 1024 }) s

/-- A freeze for power-down or reset (R488, R489): in ARMED it is its own trigger. -/
def freezeFor (code : Nat) (s : Chip) : Chip :=
  if s.rwd.st = 1 then freezeNow (takeTrigger code s)
  else if s.rwd.st = 2 then freezeNow (rwdUpd (fun r => { r with code := code }) s)
  else s

/-- MARK_OVERTAKEN: the pointer has written the mark's word again (R487). -/
def execMarkOvertaken (k : Fin 16) (s : State) : Out :=
  s.on fun s =>
  .next (if s.rwd.fresh.get k.val = 2 then
      bump 0x100018 1 (raise 121 k.val
        (rwdUpd (fun r => { r with marks := r.marks.set k.val 0xFFFFFFFF, fresh := r.fresh.set k.val 0 }) s))
    else s)

/-- RWD_TRIGGER: the oldest event trigger, or AT, reaches Rewind (R486). -/
def execRwdTrigger (src : Option (Fin 128)) (s : State) : Out :=
  s.on fun s =>
  let take := fun (code : Nat) (s : Chip) =>
    if s.rwd.st = 1 then takeTrigger code s
    else if within 2 3 s.rwd.st then bump 0x100010 1 s
    else s
  .next (match src with
    | some e =>
      if s.ev.trigs.head? = some e.val then take 1 { s with ev := { s.ev with trigs := s.ev.trigs.drop 1 } } else s
    | none =>
      match s.rwd.at_ with
      | some a => if a ≤ (stampTd s).ns then take 2 (rwdUpd (fun r => { r with at_ := none }) s) else s
      | none => s)

/-- RWD_POST_FREEZE: the post-trigger words have been written (R486). -/
def execRwdPostFreeze (s : State) : Out :=
  s.on fun s =>
  .next (if s.rwd.st = 2 ∧ s.rwd.postLeft = 0 then freezeNow s else s)

/-- RWD_STAT (Table 17.6). -/
def rwdStat (s : Chip) : Nat :=
  let r := s.rwd
  pack [(0, 3, r.st), (3, 1, r.mode), (4, 2, r.sources), (6, 1, b2n r.recovered), (7, 1, b2n r.loaded), (8, 1, b2n r.wrapped),
    (9, 1, b2n r.gapped), (10, 1, b2n r.setupChanged), (16, 8, cfgGet s 0x1001 4)]

/-- RWD_STATUS. -/
def execRwdStatus (c : CmdRef) (s : State) : Out :=
  s.on fun s =>
  runCmd c 0x0D00 s fun m =>
    checked c (maskAt m.params 0 1 ++ zeroAt m.params 1 3) fun s =>
      let r := s.rwd
      let res := wr 4 (rwdStat s) ++ wr 4 r.wptr ++ wr 4 r.trig ++ wr 4 r.skew ++
        (List.range 16).flatMap (fun k => wr 4 (r.marks.get k)) ++
        (List.range 4).flatMap (fun i => wr 4 (s.cnt.get (0x100010 + 4 * i)))
      let s := if bitOf (rd m.params 0 1) 0 then
          { s with cnt := (List.range 4).foldl (fun t i => t.set (0x100010 + 4 * i) 0) s.cnt } else s
      complete c stOk res s

/-- CH_MASK as a 128-bit number. -/
def chMaskCfg (s : Chip) : Nat := sumN ((List.range 4).map fun i => cfgGet s 0x1001 (0x10 + i) * 2 ^ (32 * i))

/-- The capture starts (R485). -/
def arm (at_ : Option Nat) (s : Chip) : Chip :=
  let s := rwdUpd (fun r =>
    { r with st := 1, mode := cfgGet s 0x1001 2, sources := cfgGet s 0x1001 3, ringLog2 := ringApplied s, chMask := chMaskCfg s
             recovered := false, loaded := false, wrapped := false, gapped := false, setupChanged := false, wptr := 0
             trig := 0xFFFFFFFF, marks := Tab.const 0xFFFFFFFF, fresh := Tab.const 0, future := Tab.const none
             at_ := at_, code := 0, postLeft := 0, gap := none, changed := false, backlog := [] }) s
  rwdUpd (fun r => { r with snapshot := setupSnapshot s }) s

/-- RWD_ARM (R485, R483). -/
def execRwdArm (c : CmdRef) (s : State) : Out :=
  s.on fun s =>
  runCmd c 0x0D01 s fun m =>
    let p := m.params
    checked c (maskAt p 0 1 ++ zeroAt p 1 3 ++ [ck 10 (rd p 10 4 < nsSec)] ++ zeroAt p 14 2) fun s =>
      if s.rwd.st = 4 then complete c stBusy [] s
      else if cfgGet s 0x1001 2 = 0 ∧ (cfgGet s 0x1001 3 = 0 ∨ cfgGet s 0x1001 3 = 3) ∧ s.sys.dramRate ≠ 0 then badParam c 0 s
      else complete c stOk [] (arm (if bitOf (rd p 0 1) 0 then some (rd p 4 6 * nsSec + rd p 10 4) else none) s)

/-- RWD_FREEZE (R486): its trigger is taken or, where another was taken before, ignored and counted; it completes at the
freeze, and at once where no capture runs (DEDUCED, assumption 20). -/
def execRwdFreeze (c : CmdRef) (s : State) : Out :=
  s.on fun s =>
  runCmd c 0x0D02 s fun m =>
    checked c (maskAt m.params 0 1 ++ zeroAt m.params 1 3) fun s =>
      let now_ := bitOf (rd m.params 0 1) 0
      let wait := fun (s : Chip) => acceptCmd c (rwdUpd (fun r => { r with waiters := r.waiters ++ [c] }) s)
      if s.rwd.st = 1 then
        let s := wait (takeTrigger 0 s)
        if now_ then freezeNow s else s
      else if s.rwd.st = 2 then
        let s := wait s
        if now_ then freezeNow s else bump 0x100010 1 s
      else if s.rwd.st = 3 then complete c stOk (freezeResult s) (bump 0x100010 1 s)
      else complete c stOk (freezeResult s) s

/-- The stamp of the record at a page start: nanoseconds, domain and EPOCH; none where no record stands. -/
def recordAt (s : Chip) (off : Nat) : Option (Nat × Nat × Nat) :=
  let w := fun k => (ringGet s (off + k)).toNat
  if w 0 / 2 ^ 28 = 12 ∧ w 1 / 2 ^ 28 = 13 ∧ w 2 / 2 ^ 28 = 14 ∧ w 3 / 2 ^ 28 = 15 then
    let sec := fld (w 0) 0 28 + fld (w 1) 0 20 * 2 ^ 28
    let ns := fld (w 2) 0 28 + fld (w 3) 0 4 * 2 ^ 28
    some (sec * nsSec + ns, fld (w 1) 20 1, fld (w 3) 20 8)
  else none

/-- Pages written since RWD_ARM or a load, as offsets of their records. -/
def ringPages (s : Chip) : List Nat :=
  let n := if s.rwd.wrapped then ringWords s.rwd.ringLog2 / pageWords else (s.rwd.wptr + pageWords - 1) / pageWords
  (List.range n).map (· * pageWords)

/-- Offset of the newest record of the current domain and epoch whose stamp lies at or before `at_` (R487). -/
def markPast (s : Chip) (at_ : Nat) : Option Nat :=
  ((ringPages s).foldl (fun (best : Option (Nat × Nat)) off =>
    match recordAt s off with
    | some (t, d, e) =>
      if t ≤ at_ ∧ d = s.time.stampDom ∧ e = (stampTd s).epoch % 256 then
        match best with
        | some b => if b.2 ≤ t then some (off, t) else best
        | none => some (off, t)
      else best
    | none => best) none).map Prod.fst

/-- Sets a mark. -/
def setMark (k v : Nat) (fresh : Nat) (fut : Option Nat) (s : Chip) : Chip :=
  rwdUpd (fun r => { r with marks := r.marks.set k v, fresh := r.fresh.set k fresh, future := r.future.set k fut }) s

/-- RWD_MARK (R487). -/
def execRwdMark (c : CmdRef) (s : State) : Out :=
  s.on fun s =>
  runCmd c 0x0D03 s fun m =>
    let p := m.params
    let k := rd p 0 1
    checked c ([ck 0 (k ≤ 15), ck 1 (rd p 1 1 ≤ 2)] ++ zeroAt p 2 2 ++ [ck 10 (rd p 10 4 < nsSec)] ++ zeroAt p 14 2) fun s =>
      let at_ := rd p 4 6 * nsSec + rd p 10 4
      let done := fun (s : Chip) => complete c stOk (wr 4 (s.rwd.marks.get k)) s
      if rd p 1 1 = 0 then done (setMark k s.rwd.wptr 1 none s)
      else if rd p 1 1 = 2 then done (setMark k 0xFFFFFFFF 0 none s)
      else if (stampTd s).ns < at_ then done (setMark k 0xFFFFFFFE 0 (some at_) s)
      else match markPast s at_ with
        | some off => done (setMark k off 0 none s)
        | none => complete c stNotFound [] s

/-- RWD_READ (R491): the words are read in one step, so no word is overwritten during the read. -/
def execRwdRead (c : CmdRef) (s : State) : Out :=
  s.on fun s =>
  runCmd c 0x0D04 s fun m =>
    let (off, n) := (rd m.params 0 4, rd m.params 4 2)
    checked c ([ck 0 (off < ringWords s.rwd.ringLog2), ck 4 (1 ≤ n ∧ n ≤ 2046 ∧ off + n ≤ ringWords s.rwd.ringLog2)] ++
        zeroAt m.params 6 2) fun s =>
      complete c stOk (zeros 4 ++ wr 4 s.rwd.wptr ++ (List.range n).flatMap fun i => wr 4 (ringGet s (off + i)).toNat) s

/-- RWD_WRITE (R491). -/
def execRwdWrite (c : CmdRef) (s : State) : Out :=
  s.on fun s =>
  runCmd c 0x0D05 s fun m =>
    let p := m.params
    let (off, n, last) := (rd p 0 4, rd p 4 2, bitOf (rd p 6 1) 0)
    checked c ([ck 0 (off < ringWords s.rwd.ringLog2), ck 4 (n ≤ 2044 ∧ off + n ≤ ringWords s.rwd.ringLog2)] ++ maskAt p 6 3 ++
        maskAt p 7 7 ++ [ck 8 (!last ∨ rd p 8 4 < ringWords s.rwd.ringLog2)] ++ zeroAt p 12 4) fun s =>
      if s.rwd.st ≠ 0 ∧ s.rwd.st ≠ 3 then complete c stBusy [] s
      else
        let s := (List.range n).foldl (fun s i => rwdPut (off + i) (w32 (rd p (16 + 4 * i) 4)) s) s
        let s := if last then
            rwdUpd (fun r => { r with st := 3, loaded := true, wptr := rd p 8 4, wrapped := bitOf (rd p 6 1) 1
                                      mode := fld (rd p 7 1) 0 1, sources := fld (rd p 7 1) 1 2 }) s
          else s
        complete c stOk [] s

/-! ## Replay (R492 to R494) -/

/-- Contexts of a band that are not free (R203). -/
def bandBusy (s : Chip) (b : Nat) : List Nat :=
  (List.range 96).filter fun x => let c := s.dem.ctxs.get x; decide (c.st ≠ 0 ∧ c.ch / 64 = b)

/-- The band receives (Table 4.5). -/
def bandRx (s : Chip) (b : Nat) : Bool := within 2 3 (s.rf.bands.get b).state

/-- Words from `start` up to WPTR in the ring's order. -/
def replaySpan (s : Chip) (start : Nat) : Nat :=
  let n := ringWords s.rwd.ringLog2
  let d := (s.rwd.wptr + n - start) % n
  if d = 0 ∧ s.rwd.wrapped then n else d

/-- RWD_REPLAY (R492): live detection stops, and the drain begins. -/
def execRwdReplay (c : CmdRef) (s : State) : Out :=
  s.on fun s =>
  runCmd c 0x0D06 s fun m =>
    let p := m.params
    let (start, pages, bands) := (rd p 0 4, rd p 4 4, rd p 8 1)
    let n := ringWords s.rwd.ringLog2
    checked c ([ck 0 (start % pageWords = 0 ∧ start < n), ck 4 (pages * pageWords ≤ n)] ++ maskAt p 8 3 ++ zeroAt p 9 3) fun s =>
      match s.rwd.replay with
      | some r => if r.cmd = c then s else complete c stBusy [] s
      | none =>
        if s.rwd.st ≠ 3 ∨ (bitOf bands 0 ∧ !bandRx s 0) ∨ (bitOf bands 1 ∧ !bandRx s 1) then complete c stBusy [] s
        else
          let span := replaySpan s start
          let total := if pages = 0 then span else min span (pages * pageWords)
          let s := rwdUpd (fun r => { r with st := 4, replay := some ⟨bands, start, total, c, false, 0, 0, [], 0, 0⟩ }) s
          { s with chn := { s.chn with replay := bands } }

/-- The words of a replay, oldest first, each with the words played up to it. -/
def replayWords (s : Chip) (start total : Nat) : List (Word × Nat) :=
  (List.range total).map fun i => (ringGet s ((start + i) % ringWords s.rwd.ringLog2), i + 1)

/-- A value of ten bits from the 66 that a captured block holds, as a sample word of Table 5.4's block. -/
def sampleAt (ws : List Word) (i : Nat) : Nat :=
  let v := fun j => fld ((ws.getD (j / 3) 0).toNat) (10 * (j % 3)) 10
  v (2 * i) + 1024 * v (2 * i + 1)

/-- The block of Table 5.4 that 25 captured words hold (R482, Table 17.3). -/
def blockOf (ws : List Word) : List Word :=
  let h := fun k => (ws.getD k 0).toNat
  [w32 (fld (h 0) 0 26), w32 (fld (h 1) 0 28 + fld (h 2) 0 4 * 2 ^ 28), w32 (fld (h 2) 4 16 + fld (h 2) 20 1 * 2 ^ 16)] ++
  (List.range 32).map fun i => w32 (sampleAt (ws.drop 3) i)

/-- Blocks among replayed data words: a header word with index 0 begins one (R493). -/
def blocksGo : Nat → List (Word × Nat) → List (List Word × Nat)
  | 0, _ => []
  | _, [] => []
  | n + 1, (w, k) :: rest =>
    if w.toNat / 2 ^ 28 = 4 ∧ 24 ≤ rest.length then
      (blockOf (w :: (rest.take 24).map Prod.fst), ((rest.drop 23).head?.map Prod.snd).getD k) :: blocksGo n (rest.drop 24)
    else blocksGo n rest

/-- Blocks of a per-channel replay: time-stamp records and fill words are skipped. -/
def replayBlocks (s : Chip) (start total : Nat) : List (List Word × Nat) :=
  let ws := (replayWords s start total).filter fun p => p.1.toNat / 2 ^ 30 < 2
  blocksGo ws.length ws

/-- The stamp of a page's time-stamp record, 2⁻¹⁶ ns modulo 2⁴⁸ (Table 17.2). -/
def recordStamp (s : Chip) (start : Nat) : Nat :=
  let w := fun k => (ringGet s (start + k)).toNat
  let sec := fld (w 0) 0 28 + fld (w 1) 0 20 * 2 ^ 28
  let ns := fld (w 2) 0 28 + fld (w 3) 0 4 * 2 ^ 28
  ((sec * nsSec + ns) * 2 ^ 16 + fld (w 3) 4 16) % 2 ^ 48

/-- The stamp of a block's header, 2⁻¹⁶ ns modulo 2⁴⁸. -/
def headStamp (ws : List Word) : Nat := (ws.getD 1 0).toNat * 2 ^ 16 + (ws.getD 2 0).toNat % 2 ^ 16

/-- A replayed block is due: its stamp lies no further behind the first block's than the replay has run (R493). -/
def blockDue (s : Chip) (r : Replay) (ws : List Word) : Bool :=
  let d := (headStamp ws + 2 ^ 48 - r.stamp) % 2 ^ 48
  decide (2 ^ 47 ≤ d ∨ d ≤ (s.now - r.begunAt) * 2 ^ 16)

/-- Words of zero samples and of samples that a wideband replay plays, at the converter rate of 3.2 GS/s and three samples a
word of each source, in nanoseconds rounded up (R481, R493). -/
def wideNs (s : Chip) (r : Replay) : Nat :=
  let n := (replayWords s r.start r.total).foldl (fun (n : Nat) p =>
    let w := p.1.toNat
    if w / 2 ^ 30 < 2 then n + 1 else if w / 2 ^ 30 = 2 then n + w % 2 ^ 30 else n) 0
  let d := if s.rwd.sources = 0 ∨ s.rwd.sources = 3 then 32 else 16
  (n * 15 + d - 1) / d

/-- A replay has played: the blocks have entered the detector bank, or the samples' time has passed (R493, R494). -/
def replayed (s : Chip) (r : Replay) : Bool :=
  r.running && r.feed.isEmpty && decide (s.rwd.mode = 1 ∨ r.begunAt + wideNs s r ≤ s.now)

/-- RWD_REPLAY_BEGIN: no context of the named bands is busy (R492). -/
def execRwdReplayBegin (s : State) : Out :=
  s.on fun s =>
  .next (match s.rwd.replay with
    | some r =>
      let idle := fun b => !bitOf r.bands b || (bandBusy s b).isEmpty
      if !r.running && idle 0 && idle 1 then
        let feed := if s.rwd.mode = 1 then replayBlocks s r.start r.total else []
        acceptCmd r.cmd
          { rwdUpd (fun w => { w with replay := some { r with
              running := true, feed := feed, begunAt := s.now
              stamp := match feed with | p :: _ => headStamp p.1 | [] => recordStamp s r.start } }) s with
            chn := { s.chn with replayRun := r.bands } }
      else s
    | none => s)

/-- A replay is over (R494). -/
def replayOver (s : Chip) : Chip :=
  { rwdUpd (fun w => { w with st := 3, replay := none }) s with chn := { s.chn with replay := 0, replayRun := 0 } }

/-- RWD_REPLAY_END: everything has been played (R494). -/
def execRwdReplayEnd (s : State) : Out :=
  s.on fun s =>
  .next (match s.rwd.replay with
    | some r =>
      if replayed s r then
        complete r.cmd stOk (wr 4 r.total ++ wr 4 r.descriptors) (raise 122 r.total (replayOver s))
      else s
    | none => s)

/-- RWD_SETUP_READ (R490). -/
def execRwdSetupRead (c : CmdRef) (s : State) : Out :=
  s.on fun s =>
  runCmd c 0x0D08 s fun m => checked c (zeroAt m.params 0 4) fun s => complete c stOk s.rwd.snapshot s

/-- A captured channel or window has changed (R490). -/
def setupChanged (ch : Nat) (s : Chip) : Chip :=
  if within 1 2 s.rwd.st && (s.rwd.mode = 0 || bitOf s.rwd.chMask ch) then
    rwdUpd (fun r => { r with changed := true, setupChanged := true }) s
  else s

end Sys2Proof.Machine
end

