-- ==== Sys2Proof/Machine/Band.lean ====
section
/-! DEFINITION. Bands, carriers and RFFE actions (R117 to R131), and the start of a calibration (R126). -/

namespace Sys2Proof.Machine

def rfUpd (f : Rf → Rf) (s : Chip) : Chip := { s with rf := f s.rf }
def band (s : Chip) (b : Nat) : RBand := s.rf.bands.get b
def bandUpd (b : Nat) (f : RBand → RBand) (s : Chip) : Chip := rfUpd (fun r => { r with bands := r.bands.upd b f }) s
def portUpd (p : Nat) (f : AntPort → AntPort) (s : Chip) : Chip := rfUpd (fun r => { r with ports := r.ports.upd p f }) s
def carUpd (k : Nat) (f : Carrier → Carrier) (s : Chip) : Chip := rfUpd (fun r => { r with carriers := r.carriers.upd k f }) s

/-- The pin of a code of Table 4.14 is faulted. -/
def pinBad (s : Chip) (k : Nat) : Bool := bitOf s.rf.pinFault k

/-- A bus with a faulted pin, or with its pads latched, stops all traffic (R132, Table 16.7). -/
def rffeDown (s : Chip) (bus : Nat) : Bool :=
  pinBad s (6 + 2 * bus) || pinBad s (7 + 2 * bus) || bitOf s.pd0.latch 5

/-- One register write on a bus (R129). -/
def rffePut (bus usid reg data : Nat) (s : Chip) : Chip :=
  if rffeDown s bus then s else rfUpd (fun r => { r with rffe := r.rffe ++ [(bus, usid, reg, data)] }) s

/-- The action writes of a trigger on band `b`, in ascending n (R130); triggers 6, 7, 10 and 11 name a port. -/
def rffeActions (b trig port : Nat) (s : Chip) : Chip :=
  forEach (List.range 32) (fun n s =>
    let v := cfgGet s (if b = 0 then 0x0302 else 0x0402) (1 + n)
    if fld v 0 4 = trig ∧ (trig < 6 ∨ trig = 8 ∨ trig = 9 ∨ fld v 4 2 = port) then
      rffePut (fld v 6 1) (fld v 7 4) (fld v 11 8) (fld v 19 8) s
    else s) s

/-- The action writes of a port trigger: the entries of the port's band (DEDUCED from the bound of R131, assumption 79). -/
def portActions (trig port : Nat) (s : Chip) : Chip :=
  if portBand s port = 0 then s else rffeActions (portBand s port - 1) trig port s

/-- Trigger of a band state (Table 4.10). -/
def stateTrigger (st : Nat) : Nat := if st = 3 then 5 else if st = 4 then 4 else st + 1

/-- The band is in its new state (R119, R120, R130, R158): its actions are issued, and on a receiving state its pending
channel settings apply; in another, no level is measured, and the spans of R163 end. -/
def bandEnter (b st : Nat) (s : Chip) : Chip :=
  let s := bandUpd b (fun r =>
    { r with state := st, target := none, mute := if within 2 3 st then false else r.mute }) s
  let s := rffeActions b (stateTrigger st) 0 (raise 34 (pack [(0, 1, b), (8, 8, st)]) s)
  let rx := decide (2 ≤ st ∧ st ≤ 3)
  forEach (List.range 64) (fun i s =>
    { s with chn := { s.chn with chans := s.chn.chans.upd (64 * b + i) fun c =>
      if rx then { c with pendingSet := false } else { c with rangeCase := 0 } } }) s

/-- A transition of Table 4.6 begins. -/
def bandGo (b st : Nat) (s : Chip) : Chip :=
  if (band s b).state = st then bandUpd b (fun r => { r with target := none }) s
  else bandUpd b (fun r => { r with target := some st }) s

/-- A carrier bound to the band is READY or ACTIVE. -/
def bandBound (s : Chip) (b : Nat) : Bool :=
  (List.range 4).any fun k => let c := s.rf.carriers.get k; decide (c.st ≠ 0 ∧ c.band = b)

/-- A raised band returns to its base state once no carrier of it is READY or ACTIVE (R121). -/
def bandSettle (b : Nat) (s : Chip) : Chip :=
  let r := band s b
  if (r.state = 3 ∨ r.target = some 3) ∧ r.drain.isNone ∧ !bandBound s b then bandGo b r.base s else s

/-- TX_HOLD in ns (R121). -/
def txHold (s : Chip) : Nat := cfgGet s 0x0301 5 * nsMs

/-- A launch that is due in `wait` ns raises its band and binds its carrier; the band that the carrier leaves may return
(R119, R120, R121, R229). -/
def raiseBand (b k freq wait : Nat) (s : Chip) : Chip :=
  let old := s.rf.carriers.get k
  let s := carUpd k (fun c =>
    if c.st = 0 then ⟨1, b, freq, s.now + wait + txHold s, 0⟩ else if c.st = 1 then { c with band := b, freq := freq } else c) s
  let s := if old.st = 1 ∧ old.band ≠ b then bandSettle old.band s else s
  let r := band s b
  if within 1 3 r.state && decide (r.target ≠ some 3 ∧ ¬(r.state = 3 ∧ r.target = none)) then
    bandUpd b (fun r => { r with target := some 3 }) s
  else s

/-- The band starts new detections (R117, R122, R126, R165, R492); channels are enabled at service open (Table 3.3). -/
def bandDetects (s : Chip) (b : Nat) : Bool :=
  let r := band s b
  s.boot.service && bandRx s b && !r.mute && r.drain.isNone && !goingDown s (bandPd b) && bitOf s.scs.lock b && pdOn s (bandPd b) && pdOn s 6 &&
    (match r.cal with | some c => decide (c.phase = 1) | none => true) && !bitOf s.chn.replay b

/-! ## Launch queue -/

/-- The launches in the queue, with their entries. -/
def launches (s : Chip) : List (Nat × Launch) :=
  (List.range 64).filterMap fun e => (s.tx.entries.get e).map fun l => (e, l)

/-- Time of a domain in units of 2⁻¹⁶ ns. -/
def tdNow16 (s : Chip) (d : Nat) : Nat := (tdGet s d).t / 2 ^ 16

/-- ns to units of 2⁻¹⁶ ns. -/
def ns16 (n : Nat) : Nat := n * 2 ^ 16

/-- R126: a scheduled launch of either band falls before now plus 12.15 ms. -/
def calBlocked (s : Chip) : Bool :=
  (launches s).any fun e => e.2.ended.isNone && !e.2.held && decide (e.2.t < tdNow16 s e.2.dom + ns16 12150000)

/-- The commands that wait for a calibration: its own, those that joined it, and RADIO_STATE_SET to RX (R123, R126). -/
def calTellAll (b : Nat) (r : CalRun) (st : Nat) (res rxRes : Bytes) (s : Chip) : Chip :=
  let s := forEach (r.cmd.toList ++ r.also) (fun c s => complete c st res s) s
  match (band s b).rxCmd with
  | some c => complete c st rxRes (bandUpd b (fun r => { r with rxCmd := none }) s)
  | none => s

/-- The check of R126, once every context of the band has ended its packet. With no launch in the way the band enters CAL
once the amplifier pins are low, as they stay throughout (R124). A calibration without WAIT that a launch bars is over. -/
def calCheck (b : Nat) (s : Chip) : Chip :=
  match (band s b).cal with
  | some r =>
    if r.phase ≠ 0 ∨ !(bandBusy s b).isEmpty then s
    else if calBlocked s then
      if r.wait then bandUpd b (fun x => { x with cal := some { r with phase := 1 } }) s
      else calTellAll b r stBusy [] []
        (bandUpd b (fun x => { x with cal := none, base := if x.rxCmd.isSome then x.prevBase else x.base }) s)
    else if s.rf.paEn ≠ 0 ∨ s.rf.biasOn then s
    else bandEnter b 4 (bandUpd b (fun x => { x with cal := some { r with phase := 2, calAt := s.now } }) s)
  | none => s

/-- A calibration is asked for (R123, R126): new detections stop, and the check follows when no context is busy. -/
def calStart (b : Nat) (store wait toRx : Bool) (cmd : Option CmdRef) (s : Chip) : Chip :=
  calCheck b (bandUpd b (fun r => { r with cal := some ⟨0, store, wait, cmd, [], toRx, s.now, 0⟩ }) s)

/-- RADIO_CAL_RESTART: the last launch that held a WAIT calibration back has completed (R126). -/
def execRadioCalRestart (b : Band) (s : State) : Out :=
  s.on fun s =>
  .next (match (band s (bandIdx b)).cal with
    | some r =>
      if r.phase = 1 && !calBlocked s then
        calCheck (bandIdx b) (bandUpd (bandIdx b) (fun x => { x with cal := some { r with phase := 0, begunAt := s.now } }) s)
      else s
    | none => s)

/-- BAND_TRANSITION_DONE (R120): a band that was raised in vain settles, one whose base state has changed meanwhile goes on
to it, and RADIO_STATE_SET to RX completes (R121, R149). -/
def execBandTransitionDone (b : Band) (s : State) : Out :=
  s.on fun s =>
  let b := bandIdx b
  .next (match (band s b).target with
    | some t =>
      let s := bandEnter b t s
      let r := band s b
      let s := if t ≤ 2 ∧ t ≠ r.base ∧ r.drain.isNone then bandGo b r.base s else bandSettle b s
      match r.rxCmd with
      | some c =>
        if within 2 3 t then
          complete c stOk (wr 1 r.prevBase ++ zeros 3) (bandUpd b (fun r => { r with rxCmd := none }) s)
        else s
      | none => s
    | none => s)

/-- CARRIER_PARK: a carrier that is READY has reached the end of its last launch plus TX_HOLD, and no launch of it falls
before that (R121). -/
def execCarrierPark (k : Fin 4) (s : State) : Out :=
  s.on fun s =>
  let c := s.rf.carriers.get k.val
  let kept := (launches s).any fun e => e.2.carrier = k.val && e.2.ended.isNone && !e.2.held &&
    decide ((e.2.t - tdNow16 s e.2.dom) / 2 ^ 16 + s.now ≤ c.deadline)
  .next (if c.st = 1 ∧ c.deadline ≤ s.now ∧ !kept then bandSettle c.band (carUpd k.val (fun c => { c with st := 0 }) s)
    else s)

end Sys2Proof.Machine
end

