-- ==== Sys2Proof/Machine/Mac.lean ====
section
/-! DEFINITION. The MAC header of IEEE 802.15.4-2020 as far as the frame engine reads it (R224, R284, R285). -/

namespace Sys2Proof.Machine

/-- A parsed MAC header. Addresses in octet order of the frame. -/
structure Mhr where
  typ : Nat
  sec : Bool
  ver : Nat
  seqSupp : Bool
  dstMode : Nat
  dst : Bytes
  srcMode : Nat
  src : Bytes
  /-- Security level, Key Identifier Mode, counter suppression, counter, key index. -/
  level : Nat
  kim : Nat
  ctrSupp : Bool
  ctr : Nat
  keyIdx : Nat
  /-- Offset of the frame counter, and of the first octet after the header and its header IEs. -/
  ctrOff : Nat
  len : Nat
deriving DecidableEq, Repr

/-- Octets of an address of a mode. -/
def addrLen (mode : Nat) : Nat := if mode = 2 then 2 else if mode = 3 then 8 else 0

/-- Presence of the destination and source PAN IDs (IEEE 802.15.4-2020, 7.2.2.6). -/
def panIds (ver dm sm : Nat) (comp : Bool) : Bool × Bool :=
  if ver < 2 then (decide (dm ≠ 0), decide (sm ≠ 0) && (!comp || decide (dm = 0)))
  else if dm = 0 ∧ sm = 0 then (comp, false)
  else if sm = 0 then (!comp, false)
  else if dm = 0 then (false, !comp)
  else if dm = 3 ∧ sm = 3 then (!comp, false)
  else (true, !comp)

/-- Offsets of the addresses: destination, source, and the octet after the source. -/
def addrOffs (f : Bytes) : Nat × Nat × Nat :=
  let fc := rd f 0 2
  let (dm, sm, ver) := (fld fc 10 2, fld fc 14 2, fld fc 12 2)
  let (dp, sp) := panIds ver dm sm (bitOf fc 6)
  let d := (if bitOf fc 8 && decide (ver = 2) then 2 else 3) + (if dp then 2 else 0)
  let so := d + addrLen dm + (if sp then 2 else 0)
  (d, so, so + addrLen sm)

/-- Length of the header IEs that begin at an offset. -/
def headerIes : Nat → Bytes → Nat
  | 0, _ => 0
  | n + 1, f =>
    if f.length < 2 then f.length
    else
      let h := rd f 0 2
      if fld h 7 8 = 0x7E ∨ fld h 7 8 = 0x7F then 2 + fld h 0 7
      else 2 + fld h 0 7 + headerIes n (f.drop (2 + fld h 0 7))

/-- Octets of the key identifier of a mode. -/
def keyIdLen (kim : Nat) : Nat := match kim with
  | 0 => 0
  | 1 => 1
  | 2 => 5
  | _ => 9

/-- Parses a MAC header; none where the frame is shorter than its header or its frame version is not supported. -/
def parseMhr (f : Bytes) : Option Mhr :=
  let fc := rd f 0 2
  let (dm, sm, ver) := (fld fc 10 2, fld fc 14 2, fld fc 12 2)
  let (d, so, a) := addrOffs f
  let sec := bitOf fc 3
  let sc := rd f a 1
  let supp := bitOf sc 5
  let kim := fld sc 3 2
  let b := if sec then a + 1 + (if supp then 0 else 4) + keyIdLen kim else a
  let ie := if bitOf fc 9 && decide (ver = 2) then headerIes f.length (f.drop b) else 0
  if f.length < 2 ∨ ver = 3 ∨ f.length < b + ie ∨ dm = 1 ∨ sm = 1 then none
  else some
    { typ := fld fc 0 3, sec := sec, ver := ver, seqSupp := bitOf fc 8 && decide (ver = 2)
      dstMode := dm, dst := (f.drop d).take (addrLen dm), srcMode := sm, src := (f.drop so).take (addrLen sm)
      level := if sec then fld sc 0 3 else 0, kim := kim, ctrSupp := supp
      ctr := if sec && !supp then rd f (a + 1) 4 else 0
      keyIdx := if kim = 1 then rd f (a + 1 + (if supp then 0 else 4)) 1 else 0
      ctrOff := a + 1, len := b + ie }

/-- The source address among the octets decoded so far: none while it is incomplete, empty where the frame has none
(R224). -/
def srcDecoded (f : Bytes) : Option Bytes :=
  if f.length < 2 then none
  else
    let (_, so, a) := addrOffs f
    if f.length < a then none else some ((f.drop so).take (a - so))

end Sys2Proof.Machine
end

