-- ==== Sys2Proof/Machine/Mistral.lean ====
section
/-! DEFINITION. The Mistral demodulator array (R203 to R228) and the descriptor hold (R43). -/

namespace Sys2Proof.Machine

def demUpd (f : Dem → Dem) (s : Chip) : Chip := { s with dem := f s.dem }
def ctx (s : Chip) (x : Nat) : Ctx := s.dem.ctxs.get x
def ctxUpd (x : Nat) (f : Ctx → Ctx) (s : Chip) : Chip := demUpd (fun d => { d with ctxs := d.ctxs.upd x f }) s
def chanUpd (ch : Nat) (f : Chan → Chan) (s : Chip) : Chip := { s with chn := { s.chn with chans := s.chn.chans.upd ch f } }

/-- Demodulator record field. -/
def demCfg (s : Chip) (id : Nat) : Nat := cfgGet s 0x0702 id

/-- Address of a DEM counter (Table 7.8) and of a channel counter (Table 5.8). -/
def demCnt (b off : Nat) : Nat := 0x070400 + 0x40 * b + off
def chCnt (ch off : Nat) : Nat := 0x060800 + 0x10 * ch + off

/-- Busy contexts, in ascending number. -/
def busyCtxs (s : Chip) : List Nat := (List.range 96).filter fun x => decide ((ctx s x).st ≠ 0)

/-- Contexts of a channel that are not free. -/
def chanBusy (s : Chip) (ch : Nat) : List Nat :=
  (List.range 96).filter fun x => decide ((ctx s x).st ≠ 0 ∧ (ctx s x).ch = ch)

/-- Contexts of a channel whose reception has not ended (R157). -/
def chanLive (s : Chip) (ch : Nat) : List Nat := (chanBusy s ch).filter fun x => (ctx s x).ended.isNone

/-- Pair of per-family values. -/
def famGet {α : Type} (fsk : Bool) (p : α × α) : α := if fsk then p.2 else p.1
def famSet {α : Type} (fsk : Bool) (v : α) (p : α × α) : α × α := if fsk then (p.1, v) else (v, p.2)

/-! ## Receive descriptors (R222 to R225) -/

/-- MODE of a context (Table 7.5). -/
def ctxMode (c : Ctx) : Nat := if c.fsk then c.mode + 4 * b2n c.fec else c.mode

/-- Octets of the FCS that a PHR announces. -/
def ctxFcs (c : Ctx) : Nat := if c.fcs2 then 2 else 4

/-- SUN-FSK: the bits of PHR and PSDU with its FCS received so far, decoded when FEC applies, and the coded bits corrected
(R197). `n` bounds the information bits. -/
def fskInfo (c : Ctx) (n : Nat) : List Bool × Nat :=
  if c.fec then fecDecode (bitOf c.phy 1) (bitOf c.phy 2) n (c.bits.take (c.bits.length / 32 * 32)) else (c.bits.take n, 0)

/-- SUN-FSK: the PSDU bits received so far, de-whitened, FCS included. -/
def fskPsdu (c : Ctx) : List Bool :=
  let b := (fskInfo c (8 * (2 + c.len + ctxFcs c))).1.drop 16
  if c.white then fskWhiten b else b

/-- The frame decoded so far, with its check as far as it has come (R185, R197). -/
def ctxBytes (c : Ctx) : Bytes :=
  bytesOfBits (if c.fsk then fskPsdu c else whiten (c.groups.flatMap fun g => g.1))

/-- Coded bits corrected so far. -/
def ctxCorr (c : Ctx) : Nat :=
  if c.fsk then (fskInfo c (8 * (2 + c.len + ctxFcs c))).2 else sumN (c.groups.map fun g => g.2)

/-- A level as calibration section 0x07 corrects it (R164, R223). -/
def levelFix (s : Chip) (ch : Nat) (v : Int) : Int := v + Config.levelCorr (calBody s 7) ch

/-- Level of a context relative to its strongest overlap, dB (Table 7.5). -/
def collLevel (c : Ctx) : Option Int :=
  match c.overlaps with
  | [] => none
  | o :: l => some ((c.level - (l.map fun e => e.2.2).foldl max o.2.2) / 10)

/-- Descriptor words (Table 7.5); `m` is there when the context has reached its end. -/
def descWords (x : Nat) (c : Ctx) (outcome status : Nat) (m : Option RxMeasure) (arr : Nat × Nat) (dseq : Nat)
    (fix : Int → Int) : List Word :=
  let netid := if c.fsk then b2n c.fcs2 + 2 * b2n c.white else c.netid
  let rssi : Int := match m with
    | some m => m.rssi
    | none => c.level
  let snr : Int := match m with
    | some m => m.snr
    | none => 0
  let foff : Int := match m with
    | some m => m.foff
    | none => c.foff
  let coll : Nat := match collLevel c with
    | some d => ofS 8 d
    | none => 0x80
  [w32 (pack [(0, 16, status), (16, 4, outcome), (20, 7, x), (27, 1, b2n c.fsk), (28, 1, b2n c.collided),
     (29, 1, b2n (c.sic || !c.sources.isEmpty)), (30, 1, b2n c.sicSource), (31, 1, b2n c.unlocked)]),
   w32 (pack [(0, 7, c.ch), (7, 2, c.rxPort), (9, 4, ctxMode c), (13, 2, c.bw), (15, 1, b2n c.gainStep), (16, 12, netid)]),
   w32 arr.1,
   w32 (pack [(0, 16, arr.2), (16, 11, c.len)]),
   w32 (pack [(0, 16, ofS 16 (fix rssi)), (16, 16, ofS 16 snr)]),
   w32 (pack [(0, 20, ofS 20 foff), (20, 1, b2n c.synced)]),
   w32 (pack [(0, 8, min 255 c.np), (8, 8, coll), (16, 16, min 0xFFFF (ctxCorr c))]),
   w32 dseq]

/-- Bytes of the Lull buffer in use. -/
def lullUsed (s : Chip) : Nat := sumN (s.pwr.lull.map fun r => 32 + (r.2.length + 3) / 4 * 4)

/-- Where a descriptor goes: RPL_SWQ in a replay (R494), the Lull buffer in Lull (R459), else the frame engine (R222). -/
def routeDesc (c : Ctx) (ok : Bool) (ws : List Word) (frame : Bytes) (src : Option Bytes) (s : Chip) : Chip :=
  if c.replay then
    let s := rwdUpd (fun r => { r with replay := r.replay.map fun p => { p with descriptors := p.descriptors + 1 } }) s
    dqPutPacket (cfgGet s 0x1001 6) 0 4 (ws ++ wordsOf frame) s
  else if s.pwr.state = 2 then
    if !ok then s
    else if lullUsed s + 32 + (frame.length + 3) / 4 * 4 ≤ 262144 then
      { s with pwr := { s.pwr with lull := s.pwr.lull ++ [(ws, frame)] } }
    else { s with pwr := { s.pwr with lullLost := satAdd 0xFFFF s.pwr.lullLost 1 } }
  else dqPutPacket 87 0 (byte c.ch) (ws ++ wordsOf frame)
    { s with fe := { s.fe with srcs := s.fe.srcs ++ [(ws.getD 7 0, src)] } }

/-- The arrival stamp (R219): the reference instant less the receive delay of the band's receive port, in ps, of section
0x06; before the sync position or the SFD, the stamp of the detection. Nanosecond word and fraction. -/
def arrival (s : Chip) (c : Ctx) : Nat × Nat :=
  if c.synced then
    let t := (((c.ref : Int) - s.tx.delays.drx.get c.rxPort * 65536 / 1000) % 2 ^ 48).toNat
    (t / 2 ^ 16, t % 2 ^ 16)
  else (c.ns.toNat, c.frac)

/-- A descriptor leaves the array (R222): DSEQ, DESCRIPTORS, the mirror on queue 0. -/
def emitDesc (x : Nat) (c : Ctx) (outcome status : Nat) (m : Option RxMeasure) (frame : Bytes) (s : Chip) : Chip :=
  let ws := descWords x c outcome status m (arrival s c) s.dem.dseq (if c.st = 0 then id else levelFix s c.ch)
  let s := demUpd (fun d => { d with dseq := (d.dseq + 1) % 2 ^ 32 }) (bump (demCnt (c.ch / 64) 0x34) 1 s)
  let s := if c.mirror then dqPutPacket 0 0 (byte c.ch) ws s else s
  routeDesc c (decide (outcome = 0)) ws frame c.src s

/-! ## Ends of contexts -/

/-- STATUS of an outcome (Table 7.6). -/
def outcomeStatus (o : Nat) : Nat :=
  match o with
  | 0 => stOk
  | 1 => stRxPayloadCrc
  | 2 => stRxLostCollision
  | 8 => stAbortedPreempt
  | 9 => stAbortedDisabled
  | _ => stRxHdrCrc

/-- Offset of an outcome's counter in DEM_CNTb (Table 7.6); FOREIGN is a channel counter. -/
def outcomeCnt (o : Nat) : Option Nat :=
  match o with
  | 0 => some 0x0C
  | 1 => some 0x10
  | 2 => some 0x14
  | 3 => some 0x1C
  | 4 => some 0x20
  | 6 => some 0x24
  | 7 => some 0x28
  | 8 => some 0x08
  | 9 => some 0x2C
  | _ => none

/-! ## Times of symbols, and interference cancellation (R211 to R213) -/

/-- Symbol period of a mode in 2⁻¹⁶ ns. -/
def symTime16 (fsk : Bool) (mode bw mod : Nat) : Nat :=
  if fsk then nsSec * 2 ^ 16 / fskSymRate mode mod else 2 ^ mode * 10000 * 2 ^ 16 / bwUnits bw

/-- Symbol period of a context, and the begin of its symbol `n`, counted from the first of its detection: 2⁻¹⁶ ns modulo
2⁴⁸. -/
def Ctx.ts (c : Ctx) : Nat := symTime16 c.fsk c.mode c.bw c.mod
def Ctx.begin16 (c : Ctx) (n : Nat) : Nat := (c.ns.toNat * 2 ^ 16 + c.frac + n * c.ts) % 2 ^ 48

/-- Signed difference of two instants modulo 2⁴⁸. -/
def diff48 (a b : Nat) : Int := toS 48 ((a + 2 ^ 48 - b % 2 ^ 48) % 2 ^ 48)

/-- Symbols of a source whose waveform is known, by number: preamble from the detection on; the sync symbols once the sync
position is found and they are demodulated; header and payload, as decided, once its HCRC passes (R212). -/
def Ctx.known (c : Ctx) (now16 : Nat) : List (Nat × Bool × Nat) :=
  let pre := if c.synced then c.align else (diff48 now16 (c.begin16 0) / (max 1 c.ts : Nat)).toNat
  (List.range (min pre 255)).map (fun n => (n, true, 0)) ++
  (if 3 ≤ c.st then [(c.align, false, fld c.netid 6 6 * 2 ^ (c.mode - 6)), (c.align + 1, false, fld c.netid 0 6 * 2 ^ (c.mode - 6))]
   else []) ++
  (if c.hdrOk then
    ((headerShifts c.len c.mode c.bw ++ c.pay).zipIdx).map fun p => (c.align + 2 + p.2, true, p.1)
   else [])

/-- Instant up to which every symbol of a source is known; none: without limit (R213). -/
def Ctx.knownTo (c : Ctx) : Option Nat :=
  if c.st = 3 then some (c.begin16 (c.align + 2))
  else if c.st = 4 then some (c.begin16 (c.align + 10 + c.pay.length))
  else none

/-- The bins of symbol `n` of `c` after the contribution of a source's symbols that overlap it has been removed (`away`) or
added back. -/
def adjustBins (away : Bool) (c z : Ctx) (known : List (Nat × Bool × Nat)) (n : Nat) (bins : Bins) : Bins :=
  known.foldl (fun b k =>
    let dt := diff48 (z.begin16 k.1) (c.begin16 n)
    if dt < c.ts ∧ -(z.ts : Int) < dt then Config.sicAdjust away k.2 z.mode c.mode (z.foff - c.foff) dt b else b) bins

/-- The bin with the greatest power: the shift that a symbol is decided to have. -/
def strongest : Bins → Nat
  | [] => 0
  | b :: l => (l.foldl (fun (m : Nat × Int × Int) e =>
      if m.2.1 * m.2.1 + m.2.2 * m.2.2 < e.2.1 * e.2.1 + e.2.2 * e.2.2 then e else m) b).1

/-- The stored symbols are decided again, and the groups whose symbols are all stored with them (R213). -/
def Ctx.redecide (c : Ctx) : Ctx :=
  let at_ := fun n => (c.stored.find? fun e => e.1 = n).map fun e => strongest e.2
  let pay := (c.pay.zipIdx).map fun p => (at_ (c.align + 10 + p.2)).getD p.1
  { c with pay := pay
           groups := (c.groups.zipIdx).map fun g =>
             if (List.range 8).all fun i => (at_ (c.align + 10 + 8 * g.2 + i)).isSome then
               groupDecode c.mode ((pay.drop (8 * g.2)).take 8) else g.1 }

/-- The contribution of symbols of source `z` is removed from, or added back into, the stored bins of context `y`. A part of
the span that is older than the stored symbols counts in LOOKBACK_SHORT (R212, R213). A SUN-FSK context has no look-back
(R214). -/
def sicSpan (away : Bool) (y : Nat) (z : Ctx) (known : List (Nat × Bool × Nat)) (s : Chip) : Chip :=
  let c := s.dem.ctxs.get y
  if c.fsk ∨ known.isEmpty then s
  else
    let first := (c.stored.head?.map fun e => e.1).getD 0
    let short := decide (64 ≤ c.stored.length ∧ c.align + 2 < first) &&
      known.any fun k => decide (diff48 (z.begin16 k.1) (c.begin16 first) < 0 ∧ diff48 (c.begin16 (c.align + 2)) (z.begin16 (k.1 + 1)) < 0)
    let s := if short then bump (demCnt (c.ch / 64) 0x30) 1 s else s
    ctxUpd y (fun c => Ctx.redecide { c with stored := c.stored.map fun e => (e.1, adjustBins away c z known e.1 e.2) }) s

/-- The stamping domain's count, 2⁻¹⁶ ns modulo 2⁴⁸. -/
def stamp16 (s : Chip) : Nat := (stampTd s).t / 2 ^ 16 % 2 ^ 48

/-- Symbols of source `z` have become known: every context that subtracts it removes them (R213). -/
def sicLearn (z : Nat) (known : List (Nat × Bool × Nat)) (s : Chip) : Chip :=
  forEach ((List.range 96).filter fun y => (ctx s y).sources.contains z) (fun y s => sicSpan true y (ctx s z) known s) s

/-- Sources of a context among Amconde contexts of its channel: at least 3 dB stronger, at most three, the strongest
first (R212). -/
def sourcesOf (s : Chip) (x : Nat) : List Nat :=
  let c := ctx s x
  let l := (chanBusy s c.ch).filter fun y =>
    let d := ctx s y
    decide (y ≠ x ∧ d.st ≤ 5) && d.ended.isNone && !d.fsk && decide (c.level + 30 ≤ d.level)
  ((l.mergeSort fun a b => decide ((ctx s b).level ≤ (ctx s a).level))).take 3

/-- The sources of context `x` are chosen anew (R212): what a new source has sent as far as it is known is removed, and the
contribution of one that is a source no more is added back. -/
def resource (x : Nat) (s : Chip) : Chip :=
  let c := ctx s x
  if !c.sicEn ∨ c.st = 0 ∨ 5 < c.st ∨ c.ended.isSome then s
  else
    let new := sourcesOf s x
    let s := forEach (c.sources.filter fun y => !new.contains y) (fun y s => sicSpan false x (ctx s y) ((ctx s y).known (stamp16 s)) s) s
    let s := ctxUpd x (fun c => { c with sources := new }) s
    forEach (new.filter fun y => !c.sources.contains y) (fun y s =>
      ctxUpd y (fun d => { d with sicSource := true }) (sicSpan true x (ctx s y) ((ctx s y).known (stamp16 s)) s)) s

/-- The sources of every context of a channel are chosen anew. -/
def resources (ch : Nat) (s : Chip) : Chip := forEach (chanBusy s ch) resource s

/-- Source `x` ends (R212): where its HCRC has passed, its contribution stays removed; where not, each context that subtracted
it adds it back. A free source place is filled again. -/
def dropSource (x : Nat) (s : Chip) : Chip :=
  let z := ctx s x
  let known := z.known (stamp16 s)
  let s := forEach ((List.range 96).filter fun y => (ctx s y).sources.contains x) (fun y s =>
    let s := if z.hdrOk then s else sicSpan false y z known s
    ctxUpd y (fun c => { c with sources := c.sources.erase x, sic := c.sic || z.hdrOk }) s) s
  resources z.ch s

/-- The level of a context has been measured anew: its overlaps take note, and sources are chosen anew (R208, R212). -/
def setLevel (x : Nat) (level : Int) (s : Chip) : Chip :=
  let no := (ctx s x).no
  let s := ctxUpd x (fun c => { c with level := level }) s
  let s := demUpd (fun d => { d with ctxs := d.ctxs.mapEnts fun _ c =>
    { c with overlaps := c.overlaps.map fun o => if o.1 = no then (o.1, o.2.1, level) else o } }) s
  resources (ctx s x).ch s

/-- EV_RX_COLLISION: the weaker of the context and its strongest overlap, at most 10 per band per second (R215). -/
def raiseCollision (x : Nat) (c : Ctx) (sicOk : Bool) (s : Chip) : Chip :=
  let peer := c.overlaps.foldl (fun (m : Option (Nat × Nat × Int)) o => match m with
    | some p => if p.2.2 < o.2.2 then some o else some p
    | none => some o) none
  let weaker := match peer with
    | some p => if p.2.2 ≤ c.level then p.2.1 else x
    | none => x
  raiseUpTo 48 (16 * (c.ch / 64)) 10 (pack [(0, 7, weaker), (8, 1, b2n sicOk)]) s

/-! ## Ends of contexts, continued -/

/-- A false detection of a family: the instants of the last second are kept (R169, R170). -/
def noteFalse (fsk : Bool) (now : Nat) (h : Chan) : Chan :=
  let keep := fun (l : List Nat) => l.filter (fun t => decide (now < t + nsSec)) ++ [now]
  { h with falses := if fsk then (h.falses.1, keep h.falses.2) else (keep h.falses.1, h.falses.2) }

/-- Counters of an outcome (R169, R225). -/
def countOutcome (c : Ctx) (o : Nat) (s : Chip) : Chip :=
  let s := match outcomeCnt o with
    | some off => bump (demCnt (c.ch / 64) off) 1 s
    | none => s
  if o = 5 then bump (chCnt c.ch 0xC) 1 s
  else if o = 3 ∨ o = 4 ∨ o = 6 ∨ o = 7 then
    bump (chCnt c.ch 0x8) 1 (chanUpd c.ch (noteFalse c.fsk s.now) s)
  else s

/-- A context ends early: false reception, pre-emption or disable (R203, R215, R217, R225). -/
def endCtx (x o : Nat) (s : Chip) : Chip :=
  let c := ctx s x
  if c.st = 0 ∨ c.ended.isSome then s
  else
    let s := dropSource x (countOutcome c o s)
    let s := if 8 ≤ o ∧ c.collided then raiseCollision x c false s else s
    let s := if 8 ≤ o ∨ c.reportFalse then emitDesc x c o (outcomeStatus o) none [] s else s
    ctxUpd x (fun c => { c with st := 6, ended := some (o, outcomeStatus o), sources := [] }) s

/-- The freeze of a channel ends when no context of it is active (R160). -/
def thaw (ch : Nat) (s : Chip) : Chip :=
  if (chanBusy s ch).isEmpty then chanUpd ch (fun h => { h with frozen := false, freezeNext := false }) s else s

/-- A context leaves its reception: it is kept for 2 s among those that a new one may overlap (R211). -/
def leaveCtx (x : Nat) (s : Chip) : Chip :=
  let c := ctx s x
  let s := demUpd (fun d => { d with past := (d.past.filter fun p => s.now < p.at_ + 2 * nsSec) ++
    (if c.ended.any fun e => e.1 ≤ 2 then [⟨c.ch, c.fsk, c.mode, c.bw, c.endNs, c.level, s.now⟩] else []) }) s
  ctxUpd x (fun _ => Ctx.reset) s

/-- CONTEXT_FREE: a finished or released context returns to FREE; the freeze of its channel may end (R160, R203), and a
calibration that waited for it is checked (R126). -/
def execContextFree (x : Fin 96) (s : State) : Out :=
  s.on fun s =>
  .next (let c := ctx s x.val
    if c.ended.isNone then s
    else
      calCheck (c.ch / 64) (thaw c.ch (leaveCtx x.val s)))

/-! ## Allocation (R205 to R210) -/

/-- R205: order of two records. -/
def recBefore (a b : DetRec) : Bool :=
  if a.ns ≠ b.ns then later 32 b.ns.toNat a.ns.toNat
  else if a.frac ≠ b.frac then decide (a.frac < b.frac)
  else if a.ch ≠ b.ch then decide (a.ch < b.ch)
  else decide (a.mode < b.mode)

/-- The record that the allocator takes next. -/
def nextRec : List DetRec → Option DetRec
  | [] => none
  | r :: l => match nextRec l with
    | some q => if recBefore q r then some q else some r
    | none => some r

/-- Unmet reservation of a band (R206). -/
def unmet (s : Chip) (b : Nat) : Nat :=
  if (band s b).state < 2 ∨ !pdOn s (bandPd b) then 0 else demCfg s (3 + b) - (bandBusy s b).length

/-- Sensitivity of a mode on a channel, 0.1 dBm. -/
def modeSens (ch : Nat) (fsk : Bool) (mode bw mod : Nat) (fec : Bool) : Int :=
  if fsk then fskSens mode mod fec (ch / 64) else amcSens mode bw (ch / 64)

/-- Noise floor of a channel, 0.1 dBm; 0 before the first idle block. -/
def chanNf (s : Chip) (ch : Nat) : Int := (s.chn.chans.get ch).nf.getD 0

/-- Level of a new record, 0.01 dBm: NF + metric − 3.01 × K dB, or NF + metric − 12 dB (R208). -/
def recLevel (s : Chip) (r : DetRec) : Int :=
  10 * (chanNf s r.ch + r.metric) - (if r.fsk then 1200 else 301 * (r.mode : Int))

/-- Margin of a new record, 0.01 dB (R208). -/
def recMargin (s : Chip) (r : DetRec) : Int :=
  let v := cfgGet s 0x0602 (0x100 + r.ch)
  recLevel s r - 10 * modeSens r.ch r.fsk r.mode (fld v 3 2) (fld v 11 2) false

/-- Margin of a context in progress, 0.01 dB. -/
def ctxMargin (s : Chip) (x : Nat) : Int :=
  let c := ctx s x
  10 * (c.level - modeSens c.ch c.fsk c.mode c.bw c.mod c.fec)

/-- R208: eligible victims of a record of band `b`. -/
def victims (s : Chip) (b : Nat) : List Nat :=
  (busyCtxs s).filter fun x =>
    let c := ctx s x
    let v := c.ch / 64
    decide (c.st ≤ 4) && ((busyCtxs s).all fun y => !(ctx s y).sources.contains x) &&
      decide (v = b ∨ demCfg s (3 + v) < (bandBusy s v).length)

/-- The victim with the lowest margin; ties go to the newest claim. -/
def pickVictim (s : Chip) : List Nat → Option Nat
  | [] => none
  | x :: l => match pickVictim s l with
    | some y =>
      if ctxMargin s x < ctxMargin s y ∨ (ctxMargin s x = ctxMargin s y ∧ (ctx s y).no < (ctx s x).no) then some x else some y
    | none => some x

/-- A reception that ended at `endNs` overlapped the new one by at least one symbol of the shorter period (R211). -/
def overlapped (c : Ctx) (endNs ts : Nat) : Bool :=
  !later 48 ((c.begin16 0 + min ts c.ts) % 2 ^ 48) (endNs % 2 ^ 32 * 2 ^ 16)

/-- Overlaps and sources that a claim brings (R211, R212): contexts whose reception goes on, those in FINISH, and those that
have left theirs. -/
def overlapClaim (x : Nat) (s : Chip) : Chip :=
  let c := ctx s x
  let others := (chanBusy s c.ch).filter fun y =>
    let d := ctx s y
    decide (y ≠ x) && d.ended.isNone && (decide (d.st ≤ 4) || overlapped c d.endNs d.ts)
  let past := s.dem.past.filter fun p => decide (p.ch = c.ch) && overlapped c p.endNs (symTime16 p.fsk p.mode p.bw c.mod)
  let s := forEach others (fun y s =>
    ctxUpd y (fun d => { d with collided := true, overlaps := d.overlaps ++ [(c.no, x, c.level)] }) s) s
  let mine := others.map (fun y => ((ctx s y).no, y, (ctx s y).level)) ++ past.map fun p => (0, x, p.level)
  resources c.ch (ctxUpd x (fun d => { d with collided := !mine.isEmpty, overlaps := mine }) s)

/-- A record claims context `x` (R203, R160). -/
def claimCtx (x : Nat) (r : DetRec) (s : Chip) : Chip :=
  let c : Ctx :=
    { Ctx.reset with
      st := 1, fsk := r.fsk, ch := r.ch, mode := r.mode, bw := fld (cfgGet s 0x0602 (0x100 + r.ch)) 3 2
      no := s.dem.claims + 1, at_ := s.now, ns := r.ns, frac := r.frac, bin := r.bin, foff := r.foff, unlocked := r.unlocked
      level := recLevel s r / 10, sicEn := demCfg s 5 = 1, reportFalse := demCfg s 6 = 1
      phy := r.phy, preMin := r.preMin, thr := r.thr
      mirror := demCfg s 9 = 1, mod := fld (cfgGet s 0x0602 (0x100 + r.ch)) 11 2
      rxPort := demCfg s (7 + r.ch / 64), replay := bitOf s.chn.replayRun (r.ch / 64) }
  let s := ctxUpd x (fun _ => c) (demUpd (fun d => { d with claims := d.claims + 1 }) s)
  let s := chanUpd r.ch (fun h => { h with freezeNext := true }) s
  overlapClaim x (bump (demCnt (r.ch / 64) 0x00) 1 s)

/-- The array is exhausted for a record (R209): EV_CTX_EXHAUSTED at most once per second. -/
def noteExhausted (s : Chip) : Chip :=
  let s := demUpd (fun d => { d with exhausted := d.exhausted + 1 }) s
  let quiet := match s.dem.lastExhausted with
    | none => true
    | some t => decide (t + nsSec ≤ s.now)
  if quiet then
    raise 46 (pack [(0, 1, demCfg s 1), (32, 32, s.dem.exhausted)])
      (demUpd (fun d => { d with exhausted := 0, lastExhausted := some s.now }) s)
  else s

/-- The first free context. -/
def freeCtx (s : Chip) : Option Nat := (List.range 96).find? fun x => decide ((ctx s x).st = 0)

/-- The allocator decides on a record (R206 to R209). -/
def allocate (r : DetRec) (s : Chip) : Chip :=
  let b := r.ch / 64
  let free := 96 - (busyCtxs s).length
  match if unmet s (1 - b) < free then freeCtx s else none with
  | some x => claimCtx x r s
  | none =>
    let v := if demCfg s 1 = 1 then none else pickVictim s (victims s b)
    match v with
    | some x =>
      if ctxMargin s x + 100 * demCfg s 2 ≤ recMargin s r then
        let ch := (ctx s x).ch
        let s := thaw ch (leaveCtx x (endCtx x 8 s))
        claimCtx x r (noteExhausted (raiseUpTo 47 0 10 x s))
      else noteExhausted (bump (demCnt b 0x04) 1 s)
    | none => noteExhausted (bump (demCnt b 0x04) 1 s)

/-- CONTEXT_ALLOCATE. -/
def execContextAllocate (s : State) : Out :=
  s.on fun s =>
  .next (if !pdOn s 6 then s
    else match nextRec s.dem.recs with
      | some r => allocate r (demUpd (fun d => { d with recs := d.recs.erase r }) s)
      | none => s)

/-- R210: a record not yet allocated when a disable reaches its channel. -/
def refuseRec (r : DetRec) (s : Chip) : Chip :=
  let c : Ctx := { Ctx.reset with
    fsk := r.fsk, ch := r.ch, mode := r.mode, bw := fld (cfgGet s 0x0602 (0x100 + r.ch)) 3 2, ns := r.ns, frac := r.frac
    replay := bitOf s.chn.replayRun (r.ch / 64), mirror := demCfg s 9 = 1, rxPort := demCfg s (7 + r.ch / 64) }
  emitDesc 0 c 9 stAbortedDisabled none [] (bump (demCnt (r.ch / 64) 0x2C) 1 s)

/-- R210 for every record of the channels that a disable reaches. -/
def refuseRecs (p : Nat → Bool) (s : Chip) : Chip :=
  let hit := s.dem.recs.filter fun r => p r.ch
  forEach hit refuseRec (demUpd (fun d => { d with recs := d.recs.filter fun r => !p r.ch }) s)

/-! ## Decisions of a context -/

/-- Least preamble octets of a SUN-FSK reception (Table 6.8). -/
def fskPreMin (mod : Nat) : Nat := if 2 ≤ mod then 6 else 4

/-- The SFD that a context recognises among its set's two (Table 6.8): whether FEC applies. -/
def sfdFec (c : Ctx) (v : Nat) : Option Bool :=
  if v = fskSfd (bitOf c.phy 3) false then some false else if v = fskSfd (bitOf c.phy 3) true then some true else none

/-- CONTEXT_ALIGN_END (R204, Table 7.1): an Amconde context finds its sync position, after the PRE_MIN symbols of its
detection; a SUN-FSK context finds the SFD after a preamble of the least length. -/
def execContextAlignEnd (x : Fin 96) (m : AlignMeasure) (s : State) : Out :=
  s.on fun s =>
  .next (let c := ctx s x.val
    let aligned := fun (c : Ctx) => { c with
      synced := true, align := m.symbols, np := m.np, ref := (((c.begin16 m.symbols : Int) + m.fine) % 2 ^ 48).toNat }
    if c.st ≠ 1 then s
    else if c.fsk then
      (match sfdFec c m.sfd.toNat with
        | some fec =>
          if fskPreMin c.mod ≤ m.np then setLevel x.val m.level (ctxUpd x.val (fun c => { aligned c with st := 3, fec := fec }) s)
          else s
        | none => s)
    else if m.found ∧ c.preMin ≤ m.symbols ∧ m.symbols ≤ 255 then
      setLevel x.val m.level (ctxUpd x.val (fun c => { aligned c with st := 2 }) s)
    else if 255 ≤ m.symbols then endCtx x.val 4 s
    else s)

/-- SYNC_DECIDE: shifts and metrics of the two down-chirps, 0.1 dB (R181, R217). A preamble of PRE_MIN symbols and no further
up-chirp gives no symbol boundary, so the packet counts as not detected: a sync mismatch (R180). -/
def execSyncDecide (x : Fin 96) (m0 m1 : Nat) (p0 p1 : Int) (s : State) : Out :=
  s.on fun s =>
  .next (let c := ctx s x.val
    let id := 64 * syncHalf c.mode m0 + syncHalf c.mode m1
    if c.st ≠ 2 then s
    else if p0 < c.thr ∨ p1 < c.thr ∨ c.align < c.preMin + 1 then endCtx x.val 4 s
    else if netidAccepted s id then
      let s := ctxUpd x.val (fun c => { c with st := 3, netid := id }) s
      sicLearn x.val (((ctx s x.val).known (stamp16 s)).filter fun k => decide (c.align ≤ k.1)) s
    else endCtx x.val 5 s)

/-- Contributions of the sources of `c` removed from a newly demodulated symbol (R212). -/
def cleanBins (s : Chip) (c : Ctx) (n : Nat) (bins : Bins) : Bins :=
  c.sources.foldl (fun b z => adjustBins true c (ctx s z) ((ctx s z).known (stamp16 s)) n b) bins

/-- Keeps the bins of newly demodulated symbols, the first with number `n`: the newest 64 stay (R213). -/
def Ctx.store (c : Ctx) (n : Nat) (syms : List Bins) : Ctx :=
  let l := c.stored ++ (syms.zipIdx).map fun p => (n + p.2, p.1)
  { c with stored := l.drop (l.length - 64) }

/-- HEADER_DECIDE: the eight header symbols (R183, R184, R190). -/
def execHeaderDecide (x : Fin 96) (syms : List Bins) (level : Int) (s : State) : Out :=
  s.on fun s =>
  .next (let c := ctx s x.val
    let syms := ((syms.take 8).zipIdx).map fun p => cleanBins s c (c.align + 2 + p.2) p.1
    let bits := (headerDecode c.mode (syms.map strongest)).1
    let (len, h) := (natOfBits (bits.take 8), natOfBits ((bits.drop 8).take 8))
    if c.st ≠ 3 ∨ c.fsk then s
    else if len ≠ 0 ∧ h = hcrc len c.mode c.bw then
      let s := setLevel x.val level (ctxUpd x.val (fun c => { c.store (c.align + 2) syms with st := 4, hdrOk := true, len := len }) s)
      sicLearn x.val (((ctx s x.val).known (stamp16 s)).filter fun k => decide (c.align + 2 ≤ k.1)) s
    else endCtx x.val 3 s)

/-- FSK_SFD_TIMEOUT (R217). -/
def execFskSfdTimeout (x : Fin 96) (s : State) : Out :=
  s.on fun s =>
  .next (let c := ctx s x.val
    if c.st = 1 ∧ c.fsk then endCtx x.val 6 s else s)

/-- FSK_PHR_DECIDE: the bits of the PHR as received, 32 code bits under FEC: Mode Switch, two reserved bits, FCS Type, Data
Whitening, Frame Length, the first bit most significant (R197, R198; PRESUMED, assumption 21). -/
def execFskPhrDecide (x : Fin 96) (bits : List Bool) (level : Int) (s : State) : Out :=
  s.on fun s =>
  .next (let c := ctx s x.val
    let raw := bits.take (if c.fec then 32 else 16)
    let v := natOfMsb (fskInfo { c with bits := raw } 16).1
    let (fcs2, n) := (bitOf v 12, fld v 0 11)
    let f := if fcs2 then 2 else 4
    if !(c.fsk ∧ c.st = 3) then s
    else if bitOf v 15 ∨ fld c.phy 16 11 < n ∨ n < f then endCtx x.val 7 s
    else setLevel x.val level (ctxUpd x.val (fun c =>
      { c with st := 4, hdrOk := true, fcs2 := fcs2, white := bitOf v 11, len := n - f, bits := raw }) s))

/-- A context has all of its payload. -/
def ctxFull (c : Ctx) : Bool :=
  if c.fsk then decide (fskBodyBits c.fec c.fcs2 c.len ≤ c.bits.length) else decide (payGroups c.mode c.len ≤ c.groups.length)

/-- Delay from the ball to the channel output, ns (R156): 2.0 µs + 6 ÷ B; and the span of a block, 16 ÷ B (R155). -/
def dCh (bw : Nat) : Nat := 2000 + 60000 / bwUnits bw
def blockSpan (bw : Nat) : Nat := 160000 / bwUnits bw

/-- The source address is passed on once it is decoded (R224), and the context finishes with its last group. -/
def payloadStep (s : Chip) (c : Ctx) : Ctx :=
  let c := { c with src := if c.src.isSome then c.src else srcDecoded ((ctxBytes c).take c.len), waiting := false }
  if ctxFull c then { c with st := 5, endNs := ((nsWord s).toNat + 2 ^ 32 - (dCh c.bw + blockSpan c.bw)) % 2 ^ 32 } else c

/-- A symbol of a source that overlaps the next group of `c` is not known yet (R213). -/
def mustWait (s : Chip) (c : Ctx) : Bool :=
  c.sources.any fun z => match (ctx s z).knownTo with
    | some t => decide (diff48 t (c.begin16 (c.align + 10 + c.pay.length + 8)) < 0)
    | none => false

/-- PAYLOAD_GROUP_DECODE: the eight symbols of the next group of an Amconde context, or the next bits of a SUN-FSK one. The
group waits while a source symbol that overlaps it is not known (R185, R197, R213). -/
def execPayloadGroupDecode (x : Fin 96) (syms : List Bins) (bits : List Bool) (level : Int) (s : State) : Out :=
  s.on fun s =>
  .next (let c := ctx s x.val
    if c.st ≠ 4 ∨ (!c.fsk ∧ syms.length ≠ 8) then s
    else if c.fsk then
      setLevel x.val level (ctxUpd x.val (fun c =>
        payloadStep s { c with bits := (c.bits ++ bits).take (fskBodyBits c.fec c.fcs2 c.len) }) s)
    else if mustWait s c then ctxUpd x.val (fun c => { c with waiting := true }) s
    else
      let n := c.align + 10 + c.pay.length
      let syms := (syms.zipIdx).map fun p => cleanBins s c (n + p.2) p.1
      let shifts := syms.map strongest
      let s := ctxUpd x.val (fun c => payloadStep s
        { c.store n syms with pay := c.pay ++ shifts, groups := c.groups ++ [groupDecode c.mode shifts] }) s
      sicLearn x.val ((shifts.zipIdx).map fun p => (n + p.2, true, p.1)) (setLevel x.val level s))

/-- The payload check of R186, or the FCS that the frame engine checks (R199). -/
def checkPassed (c : Ctx) : Bool :=
  let b := ctxBytes c
  if c.fsk then decide ((b.drop c.len).take (ctxFcs c) = fskFcs c.fcs2 (b.take c.len))
  else decide (crc16 (b.take c.len) = rd b c.len 2)

/-- CONTEXT_FINISH (R215, R222, R225). -/
def execContextFinish (x : Fin 96) (m : RxMeasure) (s : State) : Out :=
  s.on fun s =>
  .next (let c := ctx s x.val
    if c.st ≠ 5 ∨ c.ended.isSome then s
    else
      let c := { c with sic := c.sic || !c.sources.isEmpty }
      let ok := checkPassed c
      let o := if ok then 0 else if c.collided then 2 else 1
      let sicOk := ok && c.sic
      let s := ctxUpd x.val (fun _ => c) s
      let s := countOutcome c o s
      let s := if sicOk then bump (demCnt (c.ch / 64) 0x18) 1 s else s
      let s := if c.collided then raiseCollision x.val c sicOk s else s
      let s := emitDesc x.val c o (outcomeStatus o) (some m) ((ctxBytes c).take c.len) (dropSource x.val s)
      ctxUpd x.val (fun c => { c with ended := some (o, outcomeStatus o), sources := [] }) s)

/-! ## The descriptor hold (R43) -/

/-- The stamp of a held descriptor. -/
def descNs (d : RxDesc) : Nat := (d.words.getD 2 0).toNat
def descFrac (d : RxDesc) : Nat := (d.words.getD 3 0).toNat % 2 ^ 16

/-- The stamp (ns, fraction) lies before that of `d`. -/
def stampBefore (ns frac : Nat) (d : RxDesc) : Bool :=
  later 32 (descNs d) ns || (decide (ns = descNs d) && decide (frac < descFrac d))

/-- No context with an earlier stamp can still bring a frame of the same source, and no held descriptor of the same source
goes before (R42 promise 2, R43). -/
def releasable (s : Chip) (d : RxDesc) : Bool :=
  ((List.range 96).all fun x =>
    let c := ctx s x
    decide (c.st = 0) || c.ended.isSome || c.replay || !stampBefore (arrival s c).1 (arrival s c).2 d ||
      (match c.src with
        | some a => decide (d.src ≠ some a)
        | none => false)) &&
  (s.fe.held.all fun e => decide (e = d) || decide (e.src ≠ d.src) || !stampBefore (descNs e) (descFrac e) d)

/-- The frame engine takes the descriptors of its queue into the hold. `k` bounds the items. -/
def intake : Nat → Chip → Chip
  | 0, s => s
  | k + 1, s => match pull 87 s with
    | (some p, s) => intake k (takeDesc p s)
    | (none, s) => s

/-- DESCRIPTOR_RELEASE: the held descriptor of a DSEQ goes to step 1 of the uplink (R43). The specification does not say
how long a hold makes EV_RX_HOLD_LONG: whether it is raised is a free value (DESIGN CHOICE, assumption 3). -/
def execDescriptorRelease (dseq : Word) (s : State) : Out :=
  s.on fun s =>
  .next (let s := intake (s.dq.get 87).items s
    match s.fe.held.find? fun d => d.words.getD 7 0 = dseq with
    | some d =>
      if releasable s d then
        let s := { s with fe := { s.fe with held := s.fe.held.erase d, uplink := s.fe.uplink ++ [d] } }
        let (v, s) := freeNat 1 s
        if v = 1 then raise 49 (min 0xFFFFFFFF ((s.now - d.at_) / nsUs)) s else s
      else s
    | none => s)

/-! ## Registers and commands (R226, R228) -/

/-- DEM_CTX_STATn (Table 7.7). -/
def demCtxStat (s : Chip) (x : Nat) : Nat :=
  let c := ctx s x
  if c.st = 0 then 0
  else pack [(0, 3, c.st), (3, 1, b2n c.fsk), (4, 7, c.ch), (11, 4, ctxMode c), (15, 2, c.sources.length), (17, 1, b2n c.collided),
    (18, 1, b2n (s.chn.changes.any fun g => g.all.contains c.ch)), (19, 1, b2n c.waiting)]

/-- DEM_ARRAY_STAT (Table 7.9). -/
def demArrayStat (s : Chip) : Nat :=
  let (a, b) := ((bandBusy s 0).length, (bandBusy s 1).length)
  pack [(0, 7, a + b), (7, 7, a), (14, 7, b), (21, 1, demCfg s 1), (22, 1, demCfg s 5)]

/-- DEM_STATUS. -/
def execDemStatus (c : CmdRef) (s : State) : Out :=
  s.on fun s =>
  runCmd c 0x0410 s fun m =>
    let (a, n) := (rd m.params 0 1, rd m.params 1 1)
    checked c ([ck 0 (a ≤ 95), ck 1 (1 ≤ n ∧ n ≤ 96 ∧ a + n ≤ 96)] ++ zeroAt m.params 2 2) fun s =>
      complete c stOk (wr 4 (demArrayStat s) ++ (List.range n).flatMap fun i => wr 4 (demCtxStat s (a + i))) s

/-- Reads event counters, and clears them when asked. -/
def readCounters (addr n : Nat) (clear : Bool) (s : Chip) : Bytes × Chip :=
  ((List.range n).flatMap (fun i => wr 4 (s.cnt.get (addr + 4 * i))),
   if clear then { s with cnt := (List.range n).foldl (fun t i => t.set (addr + 4 * i) 0) s.cnt } else s)

/-- DEM_COUNTERS_READ. -/
def execDemCountersRead (c : CmdRef) (s : State) : Out :=
  s.on fun s =>
  runCmd c 0x0411 s fun m =>
    let b := rd m.params 0 1
    checked c (ck 0 (b ≤ 1) :: maskAt m.params 1 1 ++ zeroAt m.params 2 2) fun s =>
      let (res, s) := readCounters (demCnt b 0) 16 (bitOf (rd m.params 1 1) 0) s
      complete c stOk res s

/-- A replay stops: every context that follows replayed samples ends as disabled (R494), and RWD_REPLAY completes with it
(DEDUCED, assumption 20). Answers the words played. -/
def stopReplay (r : Replay) (s : Chip) : Nat × Chip :=
  let s := refuseRecs (fun ch => bitOf s.chn.replayRun (ch / 64)) s
  let s := forEach (busyCtxs s) (fun x s => if (ctx s x).replay then endCtx x 9 s else s) s
  let (v, s) := if r.running && decide (s.rwd.mode = 0) then freeNat 32 s else (r.words, s)
  let n := if r.running then min v r.total else 0
  let desc := (s.rwd.replay.map fun p => p.descriptors).getD 0
  (n, complete r.cmd stOk (wr 4 n ++ wr 4 desc) (raise 122 n (replayOver s)))

/-- RWD_REPLAY_STOP. -/
def execRwdReplayStop (c : CmdRef) (s : State) : Out :=
  s.on fun s =>
  runCmd c 0x0D07 s fun m =>
    checked c (zeroAt m.params 0 4) fun s =>
      match s.rwd.replay with
      | some r =>
        let (n, s) := stopReplay r s
        complete c stOk (wr 4 n) s
      | none => complete c stOk (wr 4 0) s

end Sys2Proof.Machine
end

