-- ==== Sys2Proof/Machine/Time.lean ====
section
/-! DEFINITION. The time unit (R255 to R278): counters and increments, domain states, the stamping domain and alarms. Steps of a
domain are in Steps.lean, the IEEE 1588 instances in Ptp.lean. -/

namespace Sys2Proof.Machine

/-- ID of field `k` of domain `d` in the time record (R277). -/
def tdId (d k : Nat) : Nat := 0x100 + 0x20 * d + k

/-- SERVO_EN of a domain (R261). -/
def servoEn (s : Chip) (d : Nat) : Bool := decide (cfgGet s 0x0201 (tdId d 12) = 1)

/-- The PTP instance of domain `d` runs on port `p` (R271). -/
def ptpOn (s : Chip) (d p : Nat) : Bool :=
  decide (cfgGet s 0x0201 (tdId d 0) ≠ 0) && bitOf (cfgGet s 0x0201 (tdId d 1)) p

/-- Limits of INC: 1.998 ns and 2.002 ns in units of 2⁻³² ns (R255). -/
def incMin : Nat := 8581344658
def incMax : Nat := 8598524526

/-- One CD3 tick of a domain (R255); 64-bit carries out of NS go to SEC since both lie in `t`. -/
def TimeDom.tick (d : TimeDom) : TimeDom := { d with t := (d.t + d.inc) % (2 ^ 48 * nsSec * 2 ^ 32) }

/-- EV_TIME_WRAP for the stamping domain (R270). -/
def raiseWrap (s : Chip) : Chip :=
  let up := (stampTd s).ns / 2 ^ 32 % 2 ^ 32
  raise 16 (pack [(0, 32, up), (32, 1, s.time.stampDom)]) { s with time := { s.time with wraps := up } }

/-- NS_WORD_WRAP: the nanosecond word of the stamping domain has wrapped (R270). -/
def execNsWordWrap (s : State) : Out :=
  s.on fun s =>
  .next (if pdOn s 11 && decide ((stampTd s).ns / 2 ^ 32 % 2 ^ 32 ≠ s.time.wraps) then raiseWrap s else s)

/-- One RTC period, ns (R257). -/
def rtcPeriod : Nat := 30518

/-- RTC_REALIGN: while the stamping domain is LOCKED, at every 60th second boundary (R257). -/
def execRtcRealign (s : State) : Out :=
  s.on fun s =>
  .next (if pdOn s 11 && decide ((stampTd s).st = 1) && decide ((stampTd s).sec % 60 = 0) &&
      decide ((stampTd s).nsPart < rtcPeriod) then
      { s with pd0 := { s.pd0 with
        rtc := (stampTd s).ns, alarmDone := s.pd0.alarmDone && decide (s.pd0.alarmSec * nsSec ≤ (stampTd s).ns) } }
    else s)

/-- TEMP_INC_END: the temporary increment has run its time, and the base increment returns (R262). -/
def execTempIncEnd (d : Fin 2) (s : State) : Out :=
  s.on fun s =>
  .next (match (tdGet s d.val).tempEnd with
    | some e => if e ≤ s.now then tdUpd d.val (fun t => { t with inc := t.base, tempEnd := none }) s else s
    | none => s)

/-- A domain in the layout of TIME_READ (Table 9.9). -/
def timeReadBytes (s : Chip) (d : Nat) : Bytes :=
  let t := tdGet s d
  wr 6 t.sec ++ wr 4 t.nsPart ++ wr 2 t.frac16 ++ wr 1 t.st ++ wr 1 (b2n (s.time.stampDom = d)) ++ zeros 2 ++ wr 4 t.epoch

/-- TIME_READ. -/
def execTimeRead (c : CmdRef) (s : State) : Out :=
  s.on fun s =>
  runCmd c 0x0200 s fun m =>
    checked c (zeroAt m.params 0 4) fun s => complete c stOk (timeReadBytes s 0 ++ timeReadBytes s 1) s

/-- portState of a port in an instance (IEEE 1588-2019 enumeration, Table 9.9). -/
def portState (s : Chip) (d p : Nat) : Nat :=
  let v := (tdGet s d).servo
  if !ptpOn s d p then 3
  else if !(s.eth.get p).link then 2
  else match v.gm with
    | none => 4
    | some g => if g = Config.clockId d then 6 else if v.gmPort = p then 9
      else if cfgGet s 0x0201 (tdId d 0) = 2 then 6 else 7

/-- TIME_STATUS. -/
def execTimeStatus (c : CmdRef) (s : State) : Out :=
  s.on fun s =>
  runCmd c 0x0201 s fun m =>
    let d := rd m.params 0 1
    checked c (ck 0 (d ≤ 1) :: zeroAt m.params 1 3) fun s =>
      let t := tdGet s d
      let v := t.servo
      let gm := match v.gm with
        | some g => g.toNat
        | none => 0
      complete c stOk (wr 1 t.st ++ wr 1 (portState s d 0) ++ wr 1 (portState s d 1) ++ wr 1 (min 255 v.stepsRemoved) ++
        wr 4 (ofS 32 (if v.sampled then v.offset else 0)) ++ wr 4 (ofS 32 (if v.sampled then v.delay else 0)) ++
        wr 8 gm ++ wr 8 t.inc ++ wr 4 t.epoch ++ wr 4 (if v.sampled then v.syncs else 0)) s

/-- The domain enters LOCKED with an offset (R264). -/
def lockDomain (d : Nat) (offset : Int) (s : Chip) : Chip :=
  raise 19 (pack [(0, 1, d), (32, 32, ofS 32 offset)])
    (tdUpd d (fun t => { t with st := 1, stepHeld := false, servo := { t.servo with syncs := 0 } }) s)

/-- A LOCKED domain enters HOLDOVER (R264). -/
def unlockDomain (d : Nat) (s : Chip) : Chip :=
  if (tdGet s d).st = 1 then raise 20 d (tdUpd d (fun t => { t with st := 2 }) s) else s

/-- INC of TIME_ADJUST (R261, R262): 0 keeps it; TEMP keeps or takes the base that was in force. -/
def adjustInc (d inc : Nat) (temp : Bool) (dur : Nat) (s : Chip) : Chip :=
  if inc = 0 then s
  else
    let v := clampN incMin incMax inc
    tdUpd d (fun t => if temp then { t with inc := v, tempEnd := some (s.now + dur * nsUs) }
      else { t with inc := v, base := v, tempEnd := none }) s

/-- SET_STATE of TIME_ADJUST (R264). -/
def adjustState (d st : Nat) (s : Chip) : Chip :=
  if (tdGet s d).st = st then s
  else if st = 1 then lockDomain d 0 s
  else if (tdGet s d).st = 1 then unlockDomain d s
  else tdUpd d (fun t => { t with st := 2 }) s

/-- TIME_ADJUST (R261, R262, R264). -/
def execTimeAdjust (c : CmdRef) (s : State) : Out :=
  s.on fun s =>
  runCmd c 0x0203 s fun m =>
    let p := m.params
    let (d, f, inc, dur) := (rd p 0 1, rd p 1 1, rd p 4 8, rd p 12 4)
    let setState := bitOf f 1
    checked c ([ck 0 (d ≤ 1)] ++ maskAt p 1 3 ++
        [ck 2 (if setState then rd p 2 1 = 1 ∨ rd p 2 1 = 2 else rd p 2 1 = 0)] ++ zeroAt p 3 1 ++
        [ck 12 (!bitOf f 0 ∨ inc = 0 ∨ within 1 10000000 dur = true)]) fun s =>
      if servoEn s d then complete c stBusy [] s
      else
        let s := adjustInc d inc (bitOf f 0) dur s
        let s := if setState then adjustState d (rd p 2 1) s else s
        let clamped := decide (inc ≠ 0 ∧ clampN incMin incMax inc ≠ inc)
        complete c (if clamped then stClamped else stOk) (wr 8 (tdGet s d).inc ++ wr 1 (b2n clamped) ++ zeros 3) s

/-- TIME_DOMAIN_SWITCH (R266): the switch waits for its tick. -/
def execTimeDomainSwitch (c : CmdRef) (s : State) : Out :=
  s.on fun s =>
  runCmd c 0x0204 s fun m =>
    let p := m.params
    let d := rd p 0 1
    checked c ([ck 0 (d ≤ 1)] ++ maskAt p 1 1 ++ zeroAt p 2 2 ++ [ck 10 (rd p 10 4 < nsSec)] ++ zeroAt p 14 2) fun s =>
      match s.time.switch with
      | some w => if w.tr = m.tr ∧ w.tag = m.tag then s else complete c stBusy [] s
      | none =>
        if (tdGet s d).st ≠ 1 ∧ !bitOf (rd p 1 1) 0 then complete c stTimeUnlocked [] s
        else { s with time := { s.time with switch := some ⟨d, rd p 4 6 * nsSec + rd p 10 4, m.tr, m.tag⟩ } }

/-- A stamp (2⁻¹⁶ ns modulo 2⁴⁸) moved by `d` units. -/
def shift48 (t : Nat) (d : Int) : Nat := (((t : Int) + d) % 2 ^ 48).toNat
def shiftWord (ns frac : Nat) (d : Int) : Nat × Nat :=
  let t := shift48 (ns * 2 ^ 16 + frac) d
  (t / 2 ^ 16, t % 2 ^ 16)

/-- Δ of a switch moves the stamps of receptions in progress to the new domain (R267): records, contexts, and receptions that a
new one may overlap. Replayed receptions keep their recorded stamps (R494). -/
def Dem.shift (played : Nat → Bool) (d : Int) (m : Dem) : Dem :=
  { m with
    recs := m.recs.map fun r => if played r.ch then r else
      let t := shiftWord r.ns.toNat r.frac d
      { r with ns := w32 t.1, frac := t.2 }
    past := m.past.map fun p => { p with endNs := (shiftWord p.endNs 0 d).1 }
    ctxs := m.ctxs.mapEnts fun _ c => if c.replay then c else
      let t := shiftWord c.ns.toNat c.frac d
      { c with ns := w32 t.1, frac := t.2, ref := shift48 c.ref d, endNs := (shiftWord c.endNs 0 d).1 } }

/-- Δ that the blocks in queue `n` will need once they are read (R267). -/
def oldBlocks (s : Chip) (d : Int) (n : Nat) : List (Nat × Nat × Int) :=
  let q := s.dq.get n
  (q.hand ++ q.drain ++ q.fill ++ q.wait).map fun p =>
    (n, p.no, d + ((s.chn.old.find? fun e => e.1 = n ∧ e.2.1 = p.no).map fun e => e.2.2).getD 0)

/-- The machine timer interrupts after a jump of the stamping domain: a forward one past mtimecmp makes them pending at once,
a backward one delays them (R421). -/
def timersNow (s : Chip) : Chip :=
  if pdOn s 2 then
    { s with apc := { s.apc with cores := s.apc.cores.updAll 8 fun _ c =>
      { c with mtip := decide (c.mtimecmp.toNat ≤ (stampTd s).ns % 2 ^ 64) } } }
  else s

/-- The stamping domain changes on this tick (R266, R267). -/
def switchDomain (w : SwitchWait) (s : Chip) : Chip :=
  let t := tdGet s w.target
  let delta : Int := (t.t : Int) - ((stampTd s).t : Int)
  let d := delta / 2 ^ 16
  let s := { s with
    time := { s.time with stampDom := w.target, switch := none, delta := delta, prevDom := s.time.stampDom, switchAt := s.now }
    dem := s.dem.shift (fun ch => bitOf s.chn.replayRun (ch / 64)) d
    chn := { s.chn with old := oldBlocks s d 64 ++ oldBlocks s d 65 } }
  let s := timersNow (raiseWrap (raise 21 w.target s))
  complete ⟨⟨w.tr % 11, Nat.mod_lt _ (by decide)⟩, w.tag⟩ stOk
    (wr 6 t.sec ++ wr 4 t.nsPart ++ zeros 2 ++ wr 8 (ofS 64 (delta.tdiv (2 ^ 32 : Nat)))) s

/-- DOMAIN_SWITCH_AT: the target has reached AT (R266). -/
def execDomainSwitchAt (s : State) : Out :=
  s.on fun s =>
  .next (match s.time.switch with
    | some w => if w.at_ ≤ (tdGet s w.target).ns then switchDomain w s else s
    | none => s)

/-- TIME_ALARM_SET (R275, R278). -/
def execTimeAlarmSet (c : CmdRef) (s : State) : Out :=
  s.on fun s =>
  runCmd c 0x0205 s fun m =>
    let p := m.params
    let per := rd p 16 8
    checked c ([ck 0 (rd p 0 1 ≤ 15)] ++ maskAt p 1 3 ++ zeroAt p 2 2 ++ [ck 10 (rd p 10 4 < nsSec)] ++ zeroAt p 14 2 ++
        [ck 16 (per = 0 ∨ within 1000 (1000 * nsSec) per = true)]) fun s =>
      let a : Alarm := ⟨bitOf (rd p 1 1) 0, b2n (bitOf (rd p 1 1) 1), rd p 4 6 * nsSec + rd p 10 4, per⟩
      complete c stOk [] { s with time := { s.time with alarms := s.time.alarms.set (rd p 0 1) a } }

/-- An alarm after it has fired at the given time: the first AT + k × PERIOD after it, or disabled (R275). -/
def Alarm.fired (a : Alarm) (t : Nat) : Alarm :=
  if a.period = 0 then { a with en := false }
  else { a with at_ := a.at_ + ((t - a.at_) / a.period + 1) * a.period }

/-- ALARM_FIRE: the unit's domain has reached AT (R275). -/
def execAlarmFire (u : Fin 16) (s : State) : Out :=
  s.on fun s =>
  let a := s.time.alarms.get u.val
  let t := (tdGet s a.dom).ns
  .next (if pdOn s 11 && a.en && decide (a.at_ ≤ t) then
      raise 27 u.val { s with time := { s.time with alarms := s.time.alarms.set u.val (a.fired t) } }
    else s)

/-- PTP_COUNTERS. -/
def execPtpCounters (c : CmdRef) (s : State) : Out :=
  s.on fun s =>
  runCmd c 0x0206 s fun m =>
    let p := rd m.params 0 1
    checked c ([ck 0 (p ≤ 1)] ++ maskAt m.params 1 1 ++ zeroAt m.params 2 2) fun s =>
      let res := (List.range 8).flatMap fun i => wr 4 (s.time.ptp.get (8 * p + i))
      let s := if bitOf (rd m.params 1 1) 0 then
          { s with time := { s.time with ptp := (List.range 8).foldl (fun t i => t.set (8 * p + i) 0) s.time.ptp } }
        else s
      complete c stOk res s

/-- Counts in a PTP counter of a port (Table 9.9). -/
def ptpBump (p i : Nat) (s : Chip) : Chip :=
  { s with time := { s.time with ptp := s.time.ptp.upd (8 * p + i) fun x => satAdd 0xFFFFFFFF x 1 } }

/-- Changes a domain's servo. -/
def servoUpd (d : Nat) (f : Servo → Servo) (s : Chip) : Chip := tdUpd d (fun t => { t with servo := f t.servo }) s

/-- The instance takes a grandmaster; a change raises EV_PTP_GM_CHANGE (R271, Table 2.13). -/
def setGm (d : Nat) (gm : BitVec 64) (steps port : Nat) (s : Chip) : Chip :=
  let old := (tdGet s d).servo.gm
  let s := servoUpd d (fun v => { v with gm := some gm, stepsRemoved := steps, gmPort := port }) s
  if old = some gm then s else raise 24 gm.toNat s

/-- The link and the domain of a port carry PTP messages. -/
def ptpLink (s : Chip) (d p : Nat) : Bool := pdOn s 9 && pdOn s 11 && ptpOn s d p && (s.eth.get p).link

/-- `2^e` s in ns for a signed exponent (log intervals of R271). -/
def logInterval (e : Int) : Nat := if 0 ≤ e then nsSec * 2 ^ e.toNat else nsSec / 2 ^ (-e).toNat

/-- SYNC_LOSS_TIMEOUT: no valid Sync for four Sync intervals (R264). -/
def execSyncLossTimeout (d : Fin 2) (s : State) : Out :=
  s.on fun s =>
  .next (if servoEn s d.val && decide ((tdGet s d.val).st = 1) &&
      decide ((tdGet s d.val).servo.lastSync + 4 * logInterval (cfgGetI s 0x0201 (tdId d.val 6)) ≤ s.now) then
      unlockDomain d.val s
    else s)

end Sys2Proof.Machine
end

