-- ==== Sys2Proof/Machine/Chan.lean ====
section
/-! DEFINITION. Channelizer, gain, noise floor, detector bank and thresholds (R150 to R175). -/

namespace Sys2Proof.Machine

/-- CHN_CH_CFGn and CHN_WIN_CFGn (Tables 5.1 and 5.2). -/
def chCfg (s : Chip) (ch : Nat) : Nat := cfgGet s 0x0602 (0x100 + ch)
def winCfg (s : Chip) (n : Nat) : Nat := cfgGet s 0x0601 (0x10 + n)

/-- Channelizer record field. -/
def chnCfg (s : Chip) (id : Nat) : Nat := cfgGet s 0x0601 id

/-- Channel and band of an event payload (R151). -/
def chPay (ch : Nat) : Nat := ch % 128 + 128 * (ch / 64)

/-- Enabled channels. -/
def chEnabled (s : Chip) : Nat := ((List.range 128).filter fun ch => bitOf (chCfg s ch) 0).length

/-- The channel drains (Table 5.6): a change of R157 that affects it runs. -/
def chDraining (s : Chip) (ch : Nat) : Bool := s.chn.changes.any fun g => g.all.contains ch

/-- No detection starts on the channel: it drains, or its whole band does (R122, R165). -/
def chStopped (s : Chip) (ch : Nat) : Bool := chDraining s ch || (band s (ch / 64)).drain.isSome

/-! ## Blocks (R155 to R164) -/

/-- The stamp of a block of band `b` whose first sample reached the ball `delay` ns ago (R15, R156, R256, R267): the count, at that
instant, of the domain then in force, with the Δ that it lies behind the domain of now and its domain; in a wideband replay the
recorded stamp, band B's later by RWD_SKEW where both bands were recorded (R481, R494). -/
def blockStamp (s : Chip) (b delay : Nat) : Nat × Int × Nat :=
  match (if bitOf s.chn.replayRun b then s.rwd.replay else none) with
  | some r =>
    let skew : Int := if b = 1 ∧ s.rwd.sources = 0 then toS 16 s.rwd.skew * 65536 / 1000 else 0
    (shift48 r.stamp (((s.now : Int) - r.begunAt - delay) * 65536 + skew), 0, s.time.stampDom)
  | none =>
    let t := shift48 (stamp16 s) (-(delay * 65536 : Nat))
    if s.now < s.time.switchAt + delay then (shift48 t (-(s.time.delta / 2 ^ 16)), s.time.delta / 2 ^ 16, s.time.prevDom)
    else (t, 0, s.time.stampDom)

/-- Header of a block (Table 5.4), stamped in domain `dom`. -/
def blockHeader (s : Chip) (ch : Nat) (stamp16 dom : Nat) (step clip bypass : Bool) : List Word :=
  let c := s.chn.chans.get ch
  [w32 (pack [(0, 7, ch), (8, 6, c.gain), (14, 1, b2n step), (15, 1, b2n clip), (16, 1, b2n bypass), (17, 1, b2n c.frozen),
    (18, 8, c.bseq)]),
   w32 (stamp16 / 2 ^ 16), w32 (pack [(0, 16, stamp16), (16, 1, b2n (unlockedAt s dom))])]

/-- A clock-domain producer writes a packet word by word (R27). -/
def dqClocked (n : Nat) (stream : Byte) : List Word → Chip → Chip
  | [], s => s
  | w :: ws, s => dqClocked n stream ws (dqWrite n true w 0 stream ws.isEmpty s)

/-- A block enters its queue; one whose stamp belongs to the domain before a switch is noted with the Δ it lacks (R267). -/
def blockSend (b n : Nat) (late : Int) (ws : List Word) (s : Chip) : Chip :=
  let no := (s.dq.get (64 + b)).nextNo
  let s := dqClocked (64 + b) (byte n) ws s
  if late = 0 ∨ (s.dq.get (64 + b)).nextNo = no then s
  else { s with chn := { s.chn with old := s.chn.old ++ [(64 + b, no, late)] } }

/-- A block as Rewind captures it (R482, Table 17.3). -/
def captureBlock (ws : List Word) : List Word :=
  let h := fun k => (ws.getD k 0).toNat
  let vals := ((ws.drop 3).flatMap fun w => [fld w.toNat 0 10, fld w.toNat 10 10])
  [w32 (2 ^ 30 + fld (h 0) 0 26), w32 (2 ^ 30 + 2 ^ 28 + fld (h 1) 0 28),
   w32 (2 ^ 30 + 2 ^ 29 + pack [(0, 4, h 1 / 2 ^ 28), (4, 16, h 2), (20, 1, h 2 / 2 ^ 16)])] ++
  (List.range 22).map fun i => w32 (vals.getD (3 * i) 0 + 1024 * vals.getD (3 * i + 1) 0 + 1048576 * vals.getD (3 * i + 2) 0)

/-- The complex samples of a block as numbers. -/
def sampleParts (samples : List (BitVec 10 × BitVec 10)) : List (Int × Int) := samples.map fun p => (p.1.toInt, p.2.toInt)

/-- Sum of |sample|² over a block, and the samples that reach a code limit (R155, R161). -/
def blockPower (samples : List (BitVec 10 × BitVec 10)) : Nat :=
  sumN ((sampleParts samples).map fun p => (p.1 * p.1 + p.2 * p.2).toNat)
def clipCount (samples : List (BitVec 10 × BitVec 10)) : Nat :=
  ((sampleParts samples).filter fun p => decide (p.1 = 511 ∨ p.1 = -512 ∨ p.2 = 511 ∨ p.2 = -512)).length

/-- ⌊m × 10 × log₁₀ (num ÷ den)⌋, for quotients from 10⁻²⁰ on; a quotient of 0, the logarithm of which is below every level,
counts as 10⁻²⁰ in comparisons (DESIGN CHOICE, assumption 91). -/
def decibels (m num den : Nat) : Int :=
  let x := num ^ (10 * m) * 10 ^ (200 * m)
  let y := den ^ (10 * m)
  ((List.range 12).foldr (fun i k => if 10 ^ (k + 2 ^ i) * y ≤ x then k + 2 ^ i else k) 0 : Nat) - (200 * m : Nat)

/-- The sum over a block at full scale: amplitude 512 in each of 32 samples (DESIGN CHOICE, assumption 91). -/
def fullScale : Nat := 32 * 512 ^ 2

/-- Mean power P of a block in whole dBFS, rounded down and up. -/
def floorDb (p : Nat) : Int := decibels 1 p fullScale
def ceilDb (p : Nat) : Int := -decibels 1 fullScale p

/-- The block's P is above AGC_TARGET + 6, or below AGC_TARGET − 3 (R159, R163). -/
def levelHigh (s : Chip) (p : Nat) : Bool := decide (cfgGetI s 0x0601 1 + 6 < ceilDb p)
def levelLow (s : Chip) (p : Nat) : Bool := decide (floorDb p < cfgGetI s 0x0601 1 - 3)

/-- Gain after a block with sum `p` of |sample|² and `clipped` samples at a code limit (R159, R161). -/
def agcUpdate (s : Chip) (c : Chan) (p clipped : Nat) : Chan :=
  if c.frozen then
    if 2 ≤ clipped ∧ 0 < c.gain then { c with gain := c.gain - 6, step := true } else c
  else if 0 < clipped ∨ levelHigh s p then
    { c with gain := c.gain - max 6 (ceilDb p - cfgGetI s 0x0601 1).toNat }
  else if levelLow s p ∧ c.lastRise + chnCfg s 2 * nsUs ≤ s.now then
    { c with gain := min (c.gain + 1) 60, lastRise := s.now }
  else c

/-- R163: the case that the block's level and gain show, and since when. -/
def rangeUpdate (s : Chip) (c : Chan) (p : Nat) : Chan :=
  let k := if c.gain = 0 ∧ levelHigh s p then 1 else if c.gain = 60 ∧ levelLow s p then 2 else 0
  if k = c.rangeCase then c else { c with rangeCase := k, rangeAt := s.now }

/-- 10^(g ÷ 10), a power gain of g dB, in units of 2⁻³². -/
def gainPower (g : Nat) : Nat :=
  [4294967296, 5407043471, 6807064429, 8569586389, 10788470074, 13581879131, 17098572778, 21525827776, 27099411597,
    34116137904].getD (g % 10) 0 * 10 ^ (g / 10)

/-- The average of R164 after an idle block: the block's power without the channel's gain enters with weight span ÷ NF_TAU;
the first block sets it (DESIGN CHOICE, assumption 92). -/
def nfAverage (s : Chip) (c : Chan) (p span : Nat) : Nat :=
  let x := p * 2 ^ 64 / gainPower c.gain
  let tau := chnCfg s 3 * nsMs
  if c.nf.isNone then x else (c.nfAvg * (tau - span) + x * span) / tau

/-- The noise floor that an average of power gives (R164), 0.1 dBm: P − GAIN + 1 dBm, corrected by section 0x07. An average of
zero has no logarithm, and no rule states its NF: a free value (DESIGN CHOICE, assumption 91). -/
def nfLevel (ch avg : Nat) (s : Chip) : Int × Chip :=
  if avg = 0 then
    let (v, s) := freeNat 16 s
    (toS 16 v, s)
  else (levelFix s ch (decibels 10 avg (fullScale * 2 ^ 32) + 10), s)

/-- Noise floor after an idle block (R164). -/
def nfUpdate (ch p span : Nat) (s : Chip) : Chip :=
  let avg := nfAverage s (s.chn.chans.get ch) p span
  let (nf, s) := nfLevel ch avg s
  let s := chanUpd ch (fun c => { c with nf := some nf, nfAvg := avg, nfBusy := false, lastIdle := s.now }) s
  if chnCfg s 4 ≤ (nf - (s.chn.chans.get ch).nfReported.getD 0).natAbs && limFree 43 ch nsSec s then
    chanUpd ch (fun c => { c with nfReported := some nf })
      (raiseLim 43 ch nsSec (pack [(0, 8, chPay ch), (16, 16, ofS 16 nf)]) s)
  else s

/-- The gain follows a change of the LNA bypass (R162). -/
def bypassStep (g : Nat) (c : Chan) (on : Bool) : Chan := { c with gain := if on then min 60 (c.gain + g) else c.gain - g }

/-- The LNA bypass of a band starts or ends (R162): each of its channels takes the change up at the block that the change
falls into; the gain of one that delivers no blocks changes now. -/
def bypassGain (b : Nat) (on : Bool) (s : Chip) : Chip :=
  forEach (List.range 64) (fun i s =>
    let n := 64 * b + i
    chanUpd n (fun c =>
      if bitOf (chCfg s n) 0 && bandRx s b then { c with byp := c.byp ++ [(s.now, on)] } else bypassStep (chnCfg s 0xE) c on) s) s

/-- The changes of the bypass that the block beginning at `t0` starts with take effect. -/
def bypassBefore (s : Chip) (t0 : Nat) (c : Chan) : Chan :=
  { (c.byp.filter fun e => e.1 ≤ t0).foldl (fun c e => bypassStep (chnCfg s 0xE) c e.2) c with
    byp := c.byp.filter fun e => t0 < e.1 }

/-- The bypass at an instant: as the earliest later change finds it, else as it is. -/
def bypassAt (s : Chip) (b t : Nat) (c : Chan) : Bool :=
  match c.byp.find? fun e => t ≤ e.1 with
  | some e => !e.2
  | none => (band s b).bypass

/-- CHANNEL_BLOCK_OUT: the channelizer emits one block, whose last sample left it D_CH after reaching the ball: its stamp is
the stamping domain's count less D_CH and the block's span (R15, R155, R156; DEDUCED, assumption 90). While a per-channel
replay plays into the band, the detector bank takes the replayed blocks instead (R493). -/
def execChannelBlockOut (ch : Fin 128) (samples : List (BitVec 10 × BitVec 10)) (s : State) : Out :=
  s.on fun s =>
  let n := ch.val
  let b := n / 64
  if samples.length ≠ 32 then .fault .illFormed
  else .next (if !(bitOf (chCfg s n) 0 && s.boot.service && bandRx s b && pdOn s (bandPd b)) || (bitOf s.chn.replayRun b && decide (s.rwd.mode = 1))
    then s
    else
      let bw := fld (chCfg s n) 3 2
      let (p, clipped, span) := (blockPower samples, clipCount samples, blockSpan bw)
      let t0 := s.now - (dCh bw + span)
      let s := chanUpd n (bypassBefore s t0) s
      let c := s.chn.chans.get n
      let inside := c.byp.any fun e => decide (e.1 < t0 + span)
      let (stamp, late, dom) := blockStamp s b (dCh bw + span)
      let ws := blockHeader s n stamp dom (c.step || inside) (decide (0 < clipped)) (bypassAt s b (t0 + span) c) ++
        samples.map fun p => w32 (p.1.toNat + 1024 * p.2.toNat)
      let s := blockSend b n late ws s
      let s := if s.rwd.mode = 1 && bitOf s.rwd.chMask n then capture (captureBlock ws) s else s
      let idle := !c.frozen && decide (clipped = 0) && !c.recorded && !bitOf s.chn.replay b
      let s := if idle then nfUpdate n p span s else s
      chanUpd n (fun c =>
        let c := agcUpdate s { rangeUpdate s c p with step := false, recorded := false, bseq := (c.bseq + 1) % 256 } p clipped
        let c := bypassBefore s (t0 + span - 1) c
        { c with frozen := c.frozen || c.freezeNext, freezeNext := false }) s)

/-- NF_BUSY_TIMEOUT (R164). -/
def execNfBusyTimeout (ch : Fin 128) (s : State) : Out :=
  s.on fun s =>
  let c := s.chn.chans.get ch.val
  .next (if bitOf (chCfg s ch.val) 0 && bandRx s (ch.val / 64) && decide (c.lastIdle + 60 * nsSec ≤ s.now) then
      chanUpd ch.val (fun c => { c with nfBusy := true }) s
    else s)

/-- AGC_RANGE_ALERT (R163). -/
def execAgcRangeAlert (ch : Fin 128) (s : State) : Out :=
  s.on fun s =>
  let c := s.chn.chans.get ch.val
  let due := (c.rangeCase = 1 ∧ c.rangeAt + 100 * nsMs ≤ s.now) ∨ (c.rangeCase = 2 ∧ c.rangeAt + nsSec ≤ s.now)
  .next (if bitOf (chCfg s ch.val) 0 ∧ bandRx s (ch.val / 64) ∧ due then raiseLim 42 ch.val (10 * nsSec) (chPay ch.val) s else s)

/-! ## Detector bank (R165 to R167) -/

/-- The bin and the metric that a detection reports: those of its last symbol (DEDUCED, assumption 93). -/
def detLast (d : Detection) : Nat × Int := d.peaks.getLast?.getD (0, 0)
def detBin (d : Detection) : Nat := (detLast d).1

/-- The stamp of a detection in a block stamped `t` (R166): its symbol phase. -/
def detStamp (t : Nat) (d : Detection) : Nat := shift48 t (-(d.back : Int))

/-- The detection matches a context that still follows its preamble or sync (R167). -/
def masks (ch t : Nat) (d : Detection) (c : Ctx) : Bool :=
  let fsk := decide (d.family = .fsk)
  let ts := symTime16 fsk d.mode c.bw c.mod
  let gap := (detStamp t d + 2 ^ 48 - (c.ns.toNat * 2 ^ 16 + c.frac)) % 2 ^ 48
  let diff := min gap (2 ^ 48 - gap) % max 1 ts
  let n := 2 ^ d.mode
  let db := (detBin d + n - c.bin % n) % n
  decide ((c.st = 1 ∨ c.st = 2) ∧ c.ch = ch) && (c.fsk == fsk) && decide (c.mode = d.mode) &&
    (fsk || (decide (4 * diff ≤ ts ∨ 4 * (ts - diff) ≤ ts) && decide (db ≤ 1 ∨ db + 1 = n)))

/-- The channel's settings let the detector find this (R154, R165). -/
def scans (s : Chip) (ch : Nat) (d : Detection) : Bool :=
  let v := chCfg s ch
  bitOf v 0 && (match d.family with
    | .amconde => bitOf v 1 && within 6 13 d.mode && d.peaks.all fun p => decide (p.1 < 2 ^ d.mode)
    | .fsk => bitOf v 2 && decide (d.mode ≤ 3) && bitOf (scanRates (fld v 3 2) (fld v 11 2) (fld v 7 4)) d.mode)

/-- Symbols over which the criterion must hold (R166). -/
def critSymbols (s : Chip) (d : Detection) : Nat :=
  match d.family with
  | .amconde => chnCfg s 5
  | .fsk => 16

/-- The criterion of a detection (R166): in each of the last symbols the metric exceeds the channel's threshold, at the same
bin ±1. -/
def meets (s : Chip) (ch : Nat) (d : Detection) : Bool :=
  let fsk := decide (d.family = .fsk)
  let k := critSymbols s d
  let l := d.peaks.drop (d.peaks.length - k)
  let n := 2 ^ d.mode
  decide (k ≤ d.peaks.length) && l.all fun p =>
    let db := (p.1 + n - detBin d % n) % n
    decide (((famGet fsk (s.chn.chans.get ch).thr : Nat) : Int) < p.2) && (fsk || decide (db ≤ 1 ∨ db + 1 = n))

/-- Coarse frequency offset, Hz (R166): bin × B ÷ 2^K, the upper half of the bins being negative offsets (DEDUCED,
assumption 93). -/
def coarseOff (s : Chip) (ch : Nat) (d : Detection) : Int :=
  match d.family with
  | .amconde =>
    let n : Nat := 2 ^ d.mode
    (if 2 * detBin d < n then (detBin d : Int) else (detBin d : Int) - n) * (100000 * bwUnits (fld (chCfg s ch) 3 2) : Nat) / n
  | .fsk => d.foff

/-- One detection in a block stamped `t` (R166, R167). -/
def detectOne (ch t : Nat) (unlocked : Bool) (d : Detection) (s : Chip) : Chip :=
  let fsk := decide (d.family = .fsk)
  if !(scans s ch d && meets s ch d) then s
  else if (chanBusy s ch).any fun x => masks ch t d (ctx s x) then bump (chCnt ch 4) 1 s
  else
    let r : DetRec := ⟨ch, fsk, d.mode, w32 (detStamp t d / 2 ^ 16), detStamp t d % 2 ^ 16, detBin d, coarseOff s ch d, (detLast d).2, unlocked, demPhyCfg s,
      chnCfg s 5, famGet fsk (s.chn.chans.get ch).thr⟩
    bump (chCnt ch 0) 1
      (chanUpd ch (fun c => { c with recorded := true }) (demUpd (fun m => { m with recs := m.recs ++ [r] }) s))

/-- A block with its stamp moved by `d`. -/
def restamp (d : Int) (ws : List Word) : List Word :=
  if d = 0 then ws
  else
    let t := shift48 (headStamp ws) d
    (ws.set 1 (w32 (t / 2 ^ 16))).set 2 (w32 (setFld (ws.getD 2 0).toNat 0 16 (t % 2 ^ 16)))

/-- The next block for the detector bank: a replayed block, or one of the receiver's queue, whose ABORT items complete and
whose MARK items pass (R23, R35, R155, R493). A stamp of an earlier stamping domain is moved by Δ (R267). -/
def nextBlock (b : Nat) (s : Chip) : Option (List Word) × Chip :=
  let queued := fun (_ : Unit) => match pull (64 + b) s with
    | (some p, s) =>
      let mine := fun (e : Nat × Nat × Int) => decide (e.1 = 64 + b ∧ e.2.1 = p.no)
      (some (restamp (((s.chn.old.find? mine).map fun e => e.2.2).getD 0) p.words),
        { s with chn := { s.chn with old := s.chn.old.filter fun e => !mine e } })
    | (none, s) => (none, s)
  match (if bitOf s.chn.replayRun b then s.rwd.replay else none) with
  | some r =>
    if s.rwd.mode = 1 then
      match r.feed.find? fun p => decide ((p.1.headD 0).toNat % 128 / 64 = b) && blockDue s r p.1 with
      | some p => (some p.1, rwdUpd (fun w => { w with replay := some { r with feed := r.feed.erase p, words := max r.words p.2 } }) s)
      | none => (none, s)
    else queued ()
  | none => queued ()

/-- A block of a context's channel that carries STEP or UNLOCKED marks the context (R219, Table 7.5). -/
def markCtxs (ch : Nat) (step unlocked : Bool) (s : Chip) : Chip :=
  forEach (chanBusy s ch) (fun x s =>
    ctxUpd x (fun c => if c.ended.isSome then c else { c with gainStep := c.gainStep || step, unlocked := c.unlocked || unlocked }) s) s

/-- DETECTOR_SCAN: the detector bank takes the next block of a band; `found`: what it measured in it (R165, R166). -/
def execDetectorScan (b : Band) (found : List Detection) (s : State) : Out :=
  s.on fun s =>
  let b := bandIdx b
  .next (if !pdOn s 6 then s
    else match nextBlock b s with
      | (none, s) => s
      | (some ws, s) =>
        let h := (ws.headD 0).toNat
        let ch := h % 128
        let unlocked := bitOf (ws.getD 2 0).toNat 16
        let s := markCtxs ch (bitOf h 14) unlocked s
        if bitOf s.chn.replayRun b then
          if bitOf (chCfg s ch) 0 then forEach found (detectOne ch (headStamp ws) unlocked) s else bump 0x10001C 1 s
        else if bandDetects s b && !chStopped s ch then forEach found (detectOne ch (headStamp ws) unlocked) s
        else s)

/-! ## Thresholds (R170, R171) -/

/-- The loop's pass (R170): a new threshold, and the quiet count. -/
def thrStep (s : Chip) (fsk : Bool) (n f : Nat) : Chip :=
  let c := s.chn.chans.get n
  let (thr, quiet, tgt) := (famGet fsk c.thr, famGet fsk c.quiet, chnCfg s 0xB)
  let high := decide (tgt < 10 * f)
  let low := !high && decide (40 * f ≤ tgt)
  let fall := low && decide (chnCfg s 0xD ≤ quiet + 1)
  let thr' := if high then min (thr + chnCfg s 0xC) (chnCfg s 0xA) else if fall then max (thr - 1) (chnCfg s 9) else thr
  let s := chanUpd n (fun c => { c with
    thr := famSet fsk thr' c.thr, quiet := famSet fsk (if low && !fall then quiet + 1 else 0) c.quiet }) s
  if thr' ≠ thr then raise 44 (pack [(0, 8, chPay n), (16, 10, thr'), (31, 1, b2n fsk)]) s else s

/-- THRESHOLD_LOOP: once per second, per channel and family (R170, R171). The seconds at THR_MAX count with THR_ADAPT = 0
too; a replay, which pauses the loop, starts their count again. -/
def execThresholdLoop (ch : Fin 128) (fam : Family) (s : State) : Out :=
  s.on fun s =>
  let n := ch.val
  let fsk := decide (fam = .fsk)
  let c := s.chn.chans.get n
  let key := 2 * n + b2n fsk
  .next (if !(bitOf (chCfg s n) 0 && limFree 200 key nsSec s) then s
    else
      let s := { s with ev := { s.ev with limits := insertIn s.ev.limits (limKey 200 key) s.now } }
      if bitOf s.chn.replay (n / 64) then chanUpd n (fun c => { c with atMax := famSet fsk 0 c.atMax }) s
      else
        let f := ((famGet fsk c.falses).filter fun t => decide (s.now < t + nsSec)).length
        let at_ := if famGet fsk c.thr = chnCfg s 0xA ∧ chnCfg s 0xB < 10 * f then famGet fsk c.atMax + 1 else 0
        let s := chanUpd n (fun c => { c with atMax := famSet fsk at_ c.atMax }) s
        let s := if chnCfg s 6 = 1 then thrStep s fsk n f else s
        if 10 ≤ at_ then raiseLim 45 n (60 * nsSec) (pack [(0, 8, chPay n), (32, 32, f)]) s else s)

/-! ## Changes (R157, R158, R171, R173) -/

/-- A channel has taken a new setting; enabling or moving it sets its thresholds and clears its loop (R171), and enabling or
disabling it ends its span of R163. -/
def chTook (ch old : Nat) (s : Chip) : Chip :=
  let v := chCfg s ch
  let moved := decide (fld old 3 4 ≠ fld v 3 4 ∨ fld old 14 15 ≠ fld v 14 15)
  let s := if old ≠ v then setupChanged ch s else s
  let s := if bitOf v 0 = bitOf old 0 then s else chanUpd ch (fun c => { c with rangeCase := 0 }) s
  if bitOf v 0 && (!bitOf old 0 || moved) then
    chanUpd ch (fun c => { c with
      thr := (chnCfg s 7, chnCfg s 8), quiet := (0, 0), atMax := (0, 0), falses := ([], []), lastIdle := s.now }) s
  else s

def applyCh (ch v : Nat) (s : Chip) : Chip := chTook ch (chCfg s ch) (cfgSet 0x0602 (0x100 + ch) v s)

/-- The change stops a channel's receptions on the old setting (R157). -/
def mustDrain (old v : Nat) : Bool :=
  bitOf old 0 && (!bitOf v 0 || decide (fld old 3 4 ≠ fld v 3 4 ∨ fld old 14 15 ≠ fld v 14 15))

/-- Enabled channels of window `n` (0–7). -/
def winChans (s : Chip) (n : Nat) : List Nat :=
  ((List.range 64).map (64 * (n / 4) + ·)).filter fun ch => bitOf (chCfg s ch) 0 && decide (fld (chCfg s ch) 5 2 = n % 4)

/-- The channels that a window change disables: enabled ones of the window that no longer fit it (R158). -/
def lostChans (s : Chip) (n v : Nat) : List Nat :=
  let after := cfgSet 0x0601 (0x10 + n) v s
  (winChans s n).filter fun ch => !chFits after ch (chCfg s ch)

/-- EV_CHANNEL_CHANGE, once per change of the number of enabled channels (R157); `before` is the number it changes from. -/
def raiseChange (before : Nat) (s : Chip) : Chip := if chEnabled s = before then s else raise 50 (chEnabled s) s

/-- A change takes effect and its command completes (R157, R158, R175). EV_CHANNEL_CHANGE compares with the number of enabled
channels just before. -/
def finishChange (g : ChnChange) (pending : Bool) (s : Chip) : Chip :=
  let before := chEnabled s
  let lost := match g.win with
    | some (n, v) => lostChans s n v
    | none => []
  let s := match g.win with
    | some (n, v) => cfgSet 0x0601 (0x10 + n) v (setupChanged (64 * (n / 4)) s)
    | none => s
  let s := forEach lost (fun ch s => applyCh ch (setFld (chCfg s ch) 0 1 0) s) s
  let s := forEach g.sets (fun p s => applyCh p.1 p.2 s) s
  let s := raiseChange before s
  let us := (s.now - g.at_) / nsUs
  let res := match g.win with
    | some _ => wr 4 us ++ wr 1 lost.length ++ zeros 3
    | none => wr 4 us ++ wr 1 (chEnabled s) ++ wr 1 (b2n pending) ++ zeros 2
  complete g.cmd stOk res s

def chnChanges (l : List ChnChange) (s : Chip) : Chip := { s with chn := { s.chn with changes := l } }

/-- The channels that a change still waits for (R157): its own that have a context, and channels enabled in its window
since, which drain with it. -/
def waitsFor (s : Chip) (g : ChnChange) : List Nat × List Nat :=
  let more := match g.win with
    | some (n, _) => (winChans s n).filter fun ch => !g.all.contains ch && !(chanLive s ch).isEmpty
    | none => []
  ((g.chans.filter fun ch => !(chanLive s ch).isEmpty) ++ more, g.all ++ more)

/-- A running change goes on: it takes effect once it waits for no channel. -/
def settleChange (g : ChnChange) (s : Chip) : Chip :=
  if !s.chn.changes.contains g then s
  else
    let (busy, all) := waitsFor s g
    if busy.isEmpty then finishChange g false (chnChanges (s.chn.changes.erase g) s)
    else
      let s := refuseRecs (fun ch => all.contains ch && !g.all.contains ch) s
      chnChanges (s.chn.changes.map fun h => if h = g then { g with chans := busy, all := all } else h) s

/-- Starts a change (R157, R158). With FORCE the contexts of its channels end at once, those of channels that drain for an
earlier command too, which then takes effect first. -/
def startChange (g : ChnChange) (force : Bool) (s : Chip) : Chip :=
  let s := refuseRecs (fun ch => g.all.contains ch) s
  if force then
    let s := forEach g.all (fun ch s => forEach (chanBusy s ch) (fun x s => endCtx x 9 s) s) s
    finishChange g false (forEach (s.chn.changes.filter fun h => h.all.any g.all.contains) settleChange s)
  else
    let busy := g.all.filter fun ch => !(chanLive s ch).isEmpty
    if busy.isEmpty then finishChange g false s
    else acceptCmd g.cmd (chnChanges (s.chn.changes ++ [{ g with chans := busy }]) s)

/-- A change while the band does not receive: the registers take the values at once (R158). -/
def pendChange (g : ChnChange) (chans : List Nat) (s : Chip) : Chip :=
  let s := forEach chans (fun ch s => chanUpd ch (fun c => { c with pendingSet := true }) s) s
  finishChange g true s

/-- Some of these channels are still draining for an earlier command. -/
def stillDraining (s : Chip) (chans : List Nat) : Bool := s.chn.changes.any fun g => g.all.any chans.contains

/-- RX_CHANNEL_SET. A channel that drains for an earlier command keeps the new one waiting, but with FORCE (DEDUCED,
assumption 23). -/
def execRxChannelSet (c : CmdRef) (s : State) : Out :=
  s.on fun s =>
  runCmd c 0x0402 s fun m =>
    let p := m.params
    let (ch, f, bw, win, ctr, rates, mod) := (rd p 0 1, rd p 1 1, rd p 2 1, rd p 3 1, rd p 4 2, rd p 6 1, rd p 7 1)
    let v := pack [(0, 1, f), (1, 1, f / 2), (2, 1, f / 4), (3, 2, bw), (5, 2, win), (7, 4, rates), (11, 2, mod), (14, 15, ctr)]
    checked c ([ck 0 (ch ≤ 127)] ++ maskAt p 1 0xF ++ [ck 2 (bw ≤ 3), ck 3 (win ≤ 3),
        ck 4 (ctr < 2 ^ 15 ∧ (!bitOf f 0 ∨ chFits s ch v)), ck 6 (rates ≤ 15 ∧ scanRates bw mod rates = rates),
        ck 7 (mod ≤ 3)]) fun s =>
      let g : ChnChange := ⟨if mustDrain (chCfg s ch) v then [ch] else [], [], none, [(ch, v)], c, s.now⟩
      if !bandRx s (ch / 64) then pendChange g [ch] s
      else if stillDraining s [ch] && !bitOf f 3 then s
      else startChange (if stillDraining s [ch] then { g with all := [ch] } else g) (bitOf f 3) s

/-- RX_WINDOW_SET: every enabled channel of the window drains; those that no longer fit are disabled (R157, R158). -/
def execRxWindowSet (c : CmdRef) (s : State) : Out :=
  s.on fun s =>
  runCmd c 0x0401 s fun m =>
    let p := m.params
    let (b, w, f, width, ctr) := (rd p 0 1, rd p 1 1, rd p 2 1, rd p 3 1, rd p 4 2)
    let v := pack [(0, 1, f), (1, 2, width), (8, 15, ctr)]
    checked c ([ck 0 (b ≤ 1), ck 1 (w ≤ 3)] ++ maskAt p 2 3 ++ [ck 3 (width ≤ 3),
        ck 4 (ctr < 2 ^ 15 ∧ (!bitOf f 0 ∨ winInBand b v))] ++ zeroAt p 6 2) fun s =>
      let n := 4 * b + w
      let inWin := winChans s n
      let g : ChnChange := ⟨if winCfg s n = v then [] else inWin, [], some (n, v), [], c, s.now⟩
      if !bandRx s b then pendChange g inWin s
      else if stillDraining s inWin && !bitOf f 1 then s
      else startChange g (bitOf f 1) s

/-- CHANNEL_DRAIN_DONE: the last context of a draining channel has ended (R157). -/
def execChannelDrainDone (ch : Fin 128) (s : State) : Out :=
  s.on fun s =>
  .next (match s.chn.changes.find? fun g => g.chans.contains ch.val with
    | some g => if (chanLive s ch.val).isEmpty then settleChange g s else s
    | none => s)

/-! ## Registers and commands (R172 to R175) -/

/-- CHN_CH_STATn (Table 5.6). -/
def chStat (s : Chip) (ch : Nat) : Nat :=
  let c := s.chn.chans.get ch
  pack [(0, 6, c.gain), (6, 1, b2n c.frozen), (7, 1, b2n c.nfBusy), (8, 1, b2n (chDraining s ch)), (9, 1, b2n c.pendingSet),
    (16, 16, ofS 16 (c.nf.getD 0))]

/-- CHN_CH_THRn (Table 5.7). -/
def chThr (s : Chip) (ch : Nat) : Nat :=
  let t := (s.chn.chans.get ch).thr
  pack [(0, 10, t.1), (10, 1, b2n (t.1 = chnCfg s 0xA)), (12, 10, t.2), (22, 1, b2n (t.2 = chnCfg s 0xA))]

/-- First channel and count of a command. -/
def chRange (p : Bytes) : List (Nat × Bool) :=
  [ck 0 (rd p 0 1 ≤ 127), ck 1 (1 ≤ rd p 1 1 ∧ rd p 1 1 ≤ 128 ∧ rd p 0 1 + rd p 1 1 ≤ 128)]

/-- RX_CHANNEL_STATUS. -/
def execRxChannelStatus (c : CmdRef) (s : State) : Out :=
  s.on fun s =>
  runCmd c 0x0403 s fun m =>
    checked c (chRange m.params ++ zeroAt m.params 2 2) fun s =>
      complete c stOk ((List.range (rd m.params 1 1)).flatMap fun i =>
        wr 4 (chStat s (rd m.params 0 1 + i)) ++ wr 4 (chThr s (rd m.params 0 1 + i))) s

/-- RX_THRESH_SET (R175). -/
def execRxThreshSet (c : CmdRef) (s : State) : Out :=
  s.on fun s =>
  runCmd c 0x0404 s fun m =>
    let (ch, fam, t) := (rd m.params 0 1, rd m.params 1 1, rd m.params 2 2)
    checked c [ck 0 (ch ≤ 127), ck 1 (fam ≤ 1), ck 2 (chnCfg s 9 ≤ t ∧ t ≤ chnCfg s 0xA)] fun s =>
      let old := famGet (fam = 1) (s.chn.chans.get ch).thr
      complete c stOk (wr 2 old ++ zeros 2) (chanUpd ch (fun h => { h with thr := famSet (fam = 1) t h.thr }) s)

/-- RX_COUNTERS_READ (R175). -/
def execRxCountersRead (c : CmdRef) (s : State) : Out :=
  s.on fun s =>
  runCmd c 0x0405 s fun m =>
    checked c (chRange m.params ++ maskAt m.params 2 1 ++ zeroAt m.params 3 1) fun s =>
      let (res, s) := readCounters (chCnt (rd m.params 0 1) 0) (4 * rd m.params 1 1) (bitOf (rd m.params 2 1) 0) s
      complete c stOk res s

end Sys2Proof.Machine
end

