-- ==== Sys2Proof/Machine/Shaper.lean ====
section
/-! DEFINITION. Charges, rate shapers and the regulatory shaper (R324 to R329). -/

namespace Sys2Proof.Machine

def schUpd (f : Sch → Sch) (s : Chip) : Chip := { s with sch := f s.sch }

/-- Field `k` of shaper `n` (Table 11.7). -/
def shp (s : Chip) (n k : Nat) : Nat := cfgGet s (0x0B10 + n / 32) (0x100 + 4 * (n % 32) + k)

/-- OVERHEAD of a shaper. -/
def shpOverhead (s : Chip) (n : Nat) : Int := toS 16 (shp s n 3)

/-- Time of 8 coded bits in ns, as a fraction (R324). -/
def amcTbyte (k bw : Nat) : Nat × Nat := (2 ^ (k + 4) * 10000, k * bwUnits bw)
def fskTbyte (rate : Nat) (fec : Bool) : Nat × Nat := (8 * nsSec * (if fec then 2 else 1), 50000 * (rate + 1))

/-- A + OVERHEAD × t_byte in µs, rounded up, at least 1 (R324). -/
def chargeUs (air : Nat) (tb : Nat × Nat) (oh : Int) : Nat :=
  let num : Int := (air * tb.2 : Nat) + oh * (tb.1 : Nat)
  let den : Int := ((1000 * tb.2 : Nat) : Int)
  max 1 (-((-num) / den)).toNat

/-- L + F + OVERHEAD in bytes, at least 1 (R324). -/
def chargeBytes (len fcs : Nat) (oh : Int) : Nat := max 1 (((len + fcs : Nat) : Int) + oh).toNat

/-! ## Rate shapers (R325) -/

/-- Tokens of a BYTES or AIRTIME shaper now, in units of 10⁻⁹. -/
def tokensNow (s : Chip) (n : Nat) : Int :=
  let (tok, at_) := s.sch.tokens.get n
  min ((shp s n 2 * nsSec : Nat) : Int) (tok + ((shp s n 1 * (s.now - at_) : Nat) : Int))

/-- The shaper that a queue draws on, when it is a rate shaper. -/
def drawn (s : Chip) (shaped : Bool) (n : Nat) : Bool := shaped && within 1 2 (shp s n 0)

/-- Deducts a charge at planning. -/
def deduct (n charge : Nat) (s : Chip) : Chip :=
  schUpd (fun r => { r with tokens := r.tokens.set n (tokensNow s n - ((charge * nsSec : Nat) : Int), s.now) }) s

/-! ## Regulatory shapers (R326 to R329) -/

/-- Length of a sub-interval in ns: W ÷ 64. -/
def subLen (s : Chip) (n : Nat) : Nat := max 1 (shp s n 2 * 15625000)

/-- DUTY × W in ns. -/
def budget (s : Chip) (n : Nat) : Int := ((shp s n 1 * shp s n 2 * 1000 : Nat) : Int)

/-- What a booking puts into the sub-intervals `lo … hi`, ns. -/
def Booking.share (len lo hi : Nat) (b : Booking) : Int :=
  (((min (b.t + b.air) ((hi + 1) * len)) - max b.t (lo * len) : Nat) : Int) +
    (if lo ≤ b.t / len ∧ b.t / len ≤ hi then b.extra else 0)

/-- Total of a ledger over sub-intervals. -/
def booked (len lo hi : Nat) (l : List Booking) : Int := l.foldl (fun a b => a + b.share len lo hi) 0

/-- The shaper admits a booking (R326): in every sub-interval `i` that it occupies, what stands in `i − 64 … i` and the
whole new booking stay within the budget; the booking counts whole, as the example under R329 has it (DEDUCED, assumption 24). -/
def admits (s : Chip) (n : Nat) (b : Booking) : Bool :=
  let len := subLen s n
  let first := b.t / len
  (List.range ((b.t + b.air - 1) / len + 1 - first)).all fun i =>
    decide (booked len (first + i - 64) (first + i) (s.sch.ledger.get n) + ((b.air : Nat) : Int) + b.extra ≤ budget s n)

/-- The regulatory shaper of a launch (R328): the first enabled range whose band and span hold the frequency, when its
shaper is REGULATORY. -/
def regShaper (s : Chip) (b freq : Nat) : Option Nat :=
  match (List.range 8).find? fun i =>
      let r := cfgGet s 0x0B01 (0x10 + i)
      let v := cfgGet s 0x0B01 (0x20 + i)
      bitOf r 0 && decide (fld r 1 1 = b) && within (fld v 0 15) (fld v 16 15) freq with
  | some i =>
    let n := fld (cfgGet s 0x0B01 (0x10 + i)) 2 8
    if shp s n 0 = 3 then some n else none
  | none => none

/-- The booking of an emission on shaper `n`. -/
def bookingOf (s : Chip) (n no t air : Nat) (tb : Nat × Nat) : Booking :=
  ⟨some no, t, air, ((chargeUs air tb (shpOverhead s n) * 1000 : Nat) : Int) - (air : Int)⟩

/-- Books an emission. -/
def book (n : Nat) (b : Booking) (s : Chip) : Chip :=
  schUpd (fun r => { r with ledger := r.ledger.upd n (fun l => b :: l) }) s

/-- Changes the booking of a launch wherever it stands (R327). -/
def rebook (no : Nat) (f : Booking → Option Booking) (s : Chip) : Chip :=
  schUpd (fun r => { r with ledger := r.ledger.mapEnts (fun _ l =>
    l.filterMap fun b => if b.no = some no then f b else some b) }) s

/-- EV_SHAPER_DUTY at a refusal, at most once per shaper per 60 s. -/
def raiseDuty (n : Nat) (s : Chip) : Chip := raiseLim 84 n (60 * nsSec) n s

/-- Sub-intervals in which an entry of the ledger has left every window of those that follow: 65 after each that it occupies. -/
def Booking.leaves (len : Nat) (b : Booking) : List Nat :=
  (List.range ((b.t + b.air) / len + 1 - b.t / len)).map fun i => b.t / len + i + 65

/-- The earliest admissible start at or after the booking's (DEDUCED, assumption 24): that itself, or the begin of a
sub-interval that an entry has left, since between those the windows only fill. -/
def nextAdmit (s : Chip) (n : Nat) (b : Booking) : Option Nat :=
  let len := subLen s n
  let cands := b.t :: (((s.sch.ledger.get n).flatMap (Booking.leaves len)).filter fun i => decide (b.t / len < i)).map (· * len)
  (cands.filter fun t => admits s n { b with t := t }).foldl (fun m t => match m with
    | some u => some (min u t)
    | none => some t) none

/-- R329: TOKENS = full or zero on a shaper, for the mode in force. -/
def setTokens (n : Nat) (zero : Bool) (s : Chip) : Chip :=
  if within 1 2 (shp s n 0) then
    schUpd (fun r => { r with tokens := r.tokens.set n (if zero then 0 else ((shp s n 2 * nsSec : Nat) : Int), s.now) }) s
  else if shp s n 0 = 3 then
    let len := subLen s n
    let cur := (stampTd s).ns / len
    schUpd (fun r => { r with ledger := r.ledger.upd n (fun l =>
      if zero then ⟨none, cur * len, 0, budget s n⟩ :: l else l.filter fun b => decide (cur < b.t / len)) }) s
  else schUpd (fun r => { r with tokens := r.tokens.set n (0, s.now) }) s

/-- SCH_SHP_TOKn (Table 11.5). -/
def shpTok (s : Chip) (n : Nat) : Nat :=
  if within 1 2 (shp s n 0) then ofS 32 ((tokensNow s n).fdiv (nsSec : Nat))
  else if shp s n 0 = 3 then
    let cur := (stampTd s).ns / subLen s n
    ((budget s n - booked (subLen s n) (cur - 64) cur (s.sch.ledger.get n)) / 1000).toNat
  else 0

/-- The ledgers of every REGULATORY shaper at service open and when PD7 returns to power start as REG_START says, and
the rate shapers as their TOKENS bit says (R329). -/
def startLedgers (s : Chip) : Chip :=
  forEach (List.range 256) (fun n s =>
    if shp s n 0 = 3 then
      setTokens n (decide (cfgGet s 0x0B01 4 = 1)) (schUpd (fun r => { r with ledger := r.ledger.set n [] }) s)
    else setTokens n (bitOf (shp s n 3) 16) s) s

end Sys2Proof.Machine
end

