-- ==== Sys2Proof/Machine/Launch.lean ====
section
/-! DEFINITION. The Zephyr launch queue (R229 to R245): acceptance and placement, levels, the progress of a launch with
the amplifier pins (R134 to R138), its end, and its completion in its carrier's order. -/

namespace Sys2Proof.Machine

def txUpd (f : Tx → Tx) (s : Chip) : Chip := { s with tx := f s.tx }

/-- Transmit record and front-end record fields. -/
def txCfg (s : Chip) (id : Nat) : Nat := cfgGet s 0x0501 id
def feCfg (s : Chip) (id : Nat) : Nat := cfgGet s 0x0301 id

/-- Times of Table 4.11 and RAMP_NS, in ns. -/
def biasLead (s : Chip) : Nat := feCfg s 1 * nsUs
def enLead (s : Chip) : Nat := feCfg s 2
def enTail (s : Chip) : Nat := feCfg s 3
def biasTail (s : Chip) : Nat := feCfg s 4 * nsUs
def rampNs (s : Chip) : Nat := txCfg s 4
def leadMin (s : Chip) : Nat := txCfg s 1 * nsUs

/-- Band of a launch, by its frequency. -/
def Launch.band (l : Launch) : Nat := if l.freq < 23000 then 0 else 1

/-- Launches that hold part of Trade's share (R235, R356). -/
def Launch.ofTrade (l : Launch) : Bool := l.src = .trade || l.src = .mirror

/-- Time of 8 coded bits of a launch (R324). -/
def Launch.tbyte (l : Launch) : Nat × Nat :=
  if l.fsk then fskTbyte (fld l.phy 0 2) (bitOf l.phy 4) else amcTbyte (fld l.phy 0 4) (fld l.phy 4 2)

/-- Airtime of a PPDU of `len` octets (R191, R197). -/
def airOf (fsk : Bool) (phy len : Nat) : Nat :=
  if fsk then fskAirNs (fld phy 0 2) (fld phy 2 2) (bitOf phy 4) (bitOf phy 6) (fld phy 8 10) len
  else amcAirNs (fld phy 0 4) (fld phy 4 2) (fld phy 8 8) len

/-! ## Amplitudes (R230) -/

/-- Scale of fixed-point amplitudes. -/
def ampOne : Nat := 2 ^ 96

/-- 10^(−1 ÷ 200) and π at that scale. -/
def ampStep : Nat := 78321245237458887262010353259
def ampPi : Nat := 248902613312231085230521944622

/-- 10^(−n ÷ 200). -/
def ampPow : Nat → Nat
  | 0 => ampOne
  | n + 1 => ampPow n * ampStep / ampOne

/-- sin x ÷ x from the square of x: terms of its series, by pairs. -/
def sincGo : Nat → Nat → Nat → Nat → Nat
  | 0, _, _, _ => 0
  | n + 1, k, x2, term =>
    let a := term * x2 / ampOne / (2 * k * (2 * k + 1))
    let b := a * x2 / ampOne / ((2 * k + 2) * (2 * k + 3))
    (term - a) + sincGo n (k + 2) x2 b

/-- Roll-off of Table 4.1 at a frequency in 100 kHz units, as an amplitude. -/
def rollOff (freq : Nat) : Nat :=
  let x := ampPi * freq / 64000
  sincGo 7 1 (x * x / ampOne) ampOne

/-- 10^(n ÷ 200). -/
def ampExp (n : Int) : Nat := if n ≤ 0 then ampPow (-n).toNat else ampOne * ampOne / ampPow n.toNat

/-- Digital amplitude of a carrier: 10^((LEVEL − S) ÷ 200), where S is the roll-off of Table 4.1 with what calibration section
0x04 says of this part (R230). -/
def amplitude (s : Chip) (level : Int) (freq : Nat) : Nat :=
  ampExp (level - Config.rollFix (calBody s 4) freq) * ampOne / rollOff freq

/-! ## Instants -/

/-- Time of a launch relative to now, 2⁻¹⁶ ns. -/
def relT (s : Chip) (l : Launch) : Int := (l.t : Int) - (tdNow16 s l.dom : Int)
/-- Its T_end, which lies its airtime after the first sample, once that has been sent. -/
def relEnd (s : Chip) (l : Launch) : Int :=
  match l.startAt with
  | some t => (ns16 (t + l.airNs) : Int) - (ns16 s.now : Int)
  | none => relT s l + (ns16 l.airNs : Int)

/-- What a launch has emitted so far, ns. -/
def emittedNs (s : Chip) (l : Launch) : Nat := min l.airNs ((l.startAt.map fun t => s.now - t).getD 0)

/-- The domain of a launch has reached its T less `lead` ns. -/
def reached (s : Chip) (l : Launch) (lead : Nat) : Bool := decide (relT s l ≤ (ns16 lead : Int))

/-- Output 2 is locked for launches: an SCS_RELOCK counts as a loss until every output is locked (R237). -/
def synthLocked (s : Chip) : Bool := bitOf s.scs.lock 2 && s.rf.relock.isNone

/-- Lead of a launch that has no T of its own: LEAD_MIN, or for a probe 150 µs and what its sequencing needs (R144, R234). -/
def asapLead (s : Chip) (l : Launch) : Nat :=
  if l.src = .probe then max (150 * nsUs) (biasLead s + enLead s + 100 * nsUs) else leadMin s

/-- Launches with a place in time: neither held nor ended. -/
def placed (s : Chip) : List (Nat × Launch) := (launches s).filter fun e => !e.2.held && e.2.ended.isNone

/-- Where a launch at `t` that clashes with another must move to (R229, R136; a probe overlaps no launch of its band,
R144); none when they do not clash. -/
def clash (s : Chip) (l : Launch) (t : Int) (o : Launch) : Option Int :=
  let te := t + (ns16 l.airNs : Int)
  let (ot, oe) := (relT s o, relEnd s o)
  let gap : Int := (ns16 (2 * rampNs s + nsUs) : Int)
  let (el, et) := ((ns16 (enLead s) : Int), (ns16 (enTail s) : Int))
  if (o.carrier = l.carrier ∨ (l.src = .probe ∧ o.band = l.band)) ∧ t < oe + gap ∧ ot < te + gap then some (oe + gap)
  else if o.band = l.band ∧ o.port ≠ l.port ∧ t - el < oe + et ∧ ot - el < te + et then some (oe + et + el)
  else none

/-- No clash at `t` (check 6). -/
def clearAt (s : Chip) (l : Launch) (t : Int) : Bool := (placed s).all fun o => (clash s l t o.2).isNone

/-- The first instant from `t` on without a clash. -/
def freeFrom : Nat → Chip → Launch → Int → Int
  | 0, _, _, t => t
  | n + 1, s, l, t =>
    match (placed s).findSome? fun o => clash s l t o.2 with
    | some u => freeFrom n s l u
    | none => t

/-- End of a calibration in progress at its maximum bound, relative to now, 2⁻¹⁶ ns (R127). -/
def calEnd (s : Chip) : Int :=
  ([0, 1].map fun b => match (band s b).cal with
    | some c => if c.phase = 2 then (ns16 (c.calAt + 12 * nsMs) : Int) - (ns16 s.now : Int) else 0
    | none => 0).foldl max 0

/-- The booking of a launch at `t` on its regulatory shaper (R326, R328). -/
def regBooking (s : Chip) (l : Launch) (t : Int) : Option (Nat × Booking) :=
  (regShaper s l.band l.freq).map fun n =>
    (n, bookingOf s n l.no (((tdNow16 s s.time.stampDom : Int) + t).toNat / 2 ^ 16) l.airNs l.tbyte)

/-- Sum of amplitudes that overlap the launch's ramped emission, at its highest instant (R230). -/
def peakAmp (s : Chip) (l : Launch) : Nat :=
  let r : Int := (ns16 (rampNs s) : Int)
  let (a, b) := (relT s l - r, relEnd s l + r)
  let os := (placed s).filter fun o => decide (relT s o.2 - r < b ∧ a < relEnd s o.2 + r)
  let pts := a :: (os.map fun o => relT s o.2 - r).filter fun p => decide (a < p)
  (pts.map fun p => sumN ((os.filter fun o => decide (relT s o.2 - r ≤ p ∧ p < relEnd s o.2 + r)).map fun o =>
    amplitude s o.2.level o.2.freq)).foldl max 0

/-- Check 9 of Table 8.2: LEVEL lowered to the largest step that fits, −400 at least (R230). -/
def clampLevel (s : Chip) (l : Launch) : Launch :=
  let room := ampOne - peakAmp s l
  if amplitude s l.level l.freq ≤ room then l
  else
    let lv := (List.range 401).find? fun (i : Nat) => decide (amplitude s (l.level - (i : Int)) l.freq ≤ room)
    { l with level := max (-400) (l.level - ((lv.getD 400 : Nat) : Int)), clamped := true }

/-! ## Ends and completions (R238) -/

def entryUpd (e : Nat) (f : Launch → Launch) (s : Chip) : Chip :=
  txUpd (fun t => { t with entries := t.entries.upd e (Option.map f) }) s

/-- Address of a counter of carrier `k` (Table 8.9). -/
def txCnt (k off : Nat) : Nat := 0x050200 + 0x20 * k + off

/-- Counters of a launch that has ended (Table 8.9). -/
def countLaunch (l : Launch) (st : Nat) (s : Chip) : Chip :=
  let k := l.carrier
  let s := if (st = stOk ∨ st = stClamped) ∧ !l.suppressed then bump (txCnt k 0x00) 1 s else s
  let s := if st = stTxLate then bump (txCnt k 0x04) 1 s else s
  let s := if st = stTxLateSynth then bump (txCnt k 0x08) 1 s else s
  let s := if l.suppressed then bump (txCnt k 0x0C) 1 s else s
  let s := if st = stAbortedFlush then bump (txCnt k 0x10) 1 s else s
  let s := if st = stAbortedDisabled then bump (txCnt k 0x14) 1 s else s
  if l.clamped then bump (txCnt k 0x18) 1 s else s

/-- T as seconds, nanoseconds and fraction in the places of Table 8.1. -/
def tBytes (t : Nat) : Bytes :=
  wr 4 (t / 2 ^ 16 % nsSec) ++ wr 2 (t % 2 ^ 16) ++ wr 6 (t / 2 ^ 16 / nsSec)

/-- TX_LAUNCH result (Table 8.3). -/
def launchResult (entry : Nat) (l : Launch) : Bytes :=
  wr 4 l.id ++ wr 1 entry ++
    wr 1 (pack [(0, 1, b2n l.suppressed), (1, 1, b2n l.clamped), (2, 1, b2n l.unlocked), (3, 1, b2n l.stopped)]) ++
    wr 2 (ofS 16 l.level) ++ tBytes l.t ++ wr 4 ((if l.stopped then l.emitted else l.airNs) / nsUs)

/-- Trade receives a completion (R318): the frame is finished. -/
def tradeDone (frame st : Nat) (s : Chip) : Chip :=
  let s := bump (if st = stOk ∨ st = stClamped then 0x0B0014 else 0x0B0018) 1 s
  schUpd (fun r => { r with queues := r.queues.mapEnts fun _ q => q.filter fun f => f.no ≠ frame }) s

/-- The regulatory booking of a launch that a decision has ended (R327, R238). -/
def settleBooking (l : Launch) (st : Nat) (s : Chip) : Chip :=
  if l.suppressed then s
  else if l.stopped then rebook l.no (fun b => some { b with air := l.emitted, extra := 0 }) s
  else if st = stOk ∨ st = stClamped then s
  else rebook l.no (fun _ => none) s

/-- ANT_PROBE's result (Table 4.16); a measurement that was discarded leaves RL and phase open (DESIGN CHOICE, assumption 25). -/
def probeResult (l : Launch) (s : Chip) : Bytes × Chip :=
  match l.probe with
  | some (rl, ph, cond) => (wr 2 rl ++ wr 2 (ofS 16 ph) ++ wr 1 cond ++ zeros 3, s)
  | none =>
    let (rl, s) := freeNat 16 s
    let (ph, s) := freeNat 16 s
    (wr 2 rl ++ wr 2 ph ++ wr 1 (s.rf.ports.get l.port).cond ++ zeros 3, s)

/-- What a launch's source receives. -/
def tellSource (e : Nat) (l : Launch) (st : Nat) (s : Chip) : Chip :=
  match l.src with
  | .host => (match l.cmd with | some c => complete c st (launchResult e l) s | none => s)
  | .trade => tradeDone l.frame st s
  | .mirror => s
  | .beacon =>
    let f := fun (b : Beacon) =>
      if l.suppressed then { b with suppressed := b.suppressed + 1 }
      else if st = stOk ∨ st = stClamped then { b with sent := b.sent + 1 } else b
    { s with time := { s.time with beacons := s.time.beacons.upd (l.id % 8) f } }
  | .probe =>
    match l.cmd with
    | some c =>
      if st = stOk ∨ st = stClamped then
        let (r, s) := probeResult l s
        complete c st r s
      else complete c st [] s
    | none => s
  | .simcal => (match l.cmd with | some c => complete c st [] s | none => s)

/-- A queue flush that waited for this entry completes with its last (R337). -/
def flushWaits (e : Nat) (s : Chip) : Chip :=
  let ws := s.sch.flushes.map fun w => { w with entries := w.entries.filter (· ≠ e) }
  let s := schUpd (fun r => { r with flushes := ws.filter fun w => !w.entries.isEmpty }) s
  forEach (ws.filter fun w => w.entries.isEmpty) (fun w s => complete w.cmd stOk (wr 4 w.frames ++ wr 4 w.count) s) s

/-- A launch completes, and its entry is freed (R235, R238). -/
def completeLaunch (e : Nat) (l : Launch) (st : Nat) (s : Chip) : Chip :=
  let s := txUpd (fun t => { t with entries := t.entries.set e none }) s
  flushWaits e (tellSource e l st (countLaunch l st s))

/-- The launch next in a carrier's order. -/
def carFirst (k : Nat) (s : Chip) : Option (Nat × Launch) :=
  ((launches s).filter fun e => e.2.carrier = k && !e.2.held).foldl (fun best e =>
    match best with
    | some b => if relT s e.2 < relT s b.2 ∨ (relT s e.2 = relT s b.2 ∧ e.2.no < b.2.no) then some e else best
    | none => some e) none

/-- A simulcast burst waits for its measurement (R254). -/
def awaitsMeasure (l : Launch) (st : Nat) : Bool := l.src = .simcal && l.cmd.isSome && (st = stOk || st = stClamped)

/-- Completions of a carrier in launch-time order (R238, R42, R46). -/
def drainCar : Nat → Nat → Chip → Chip
  | 0, _, s => s
  | n + 1, k, s =>
    match carFirst k s with
    | some (e, l) =>
      match l.ended with
      | some st => if awaitsMeasure l st then s else drainCar n k (completeLaunch e l st s)
      | none => s
    | none => s

/-- The pins after a launch has ended before its time (R138, R135). -/
def pinsAfter (l : Launch) (s : Chip) : Chip :=
  if l.suppressed then s
  else if 2 ≤ l.phase then portUpd l.port (fun p => { p with enFall := some (max (p.enFall.getD 0) (s.now + enTail s)) }) s
  else if l.phase = 1 ∧ s.rf.paEn = 0 ∧ s.rf.biasOn then rfUpd (fun r => { r with biasFall := some (s.now + biasTail s) }) s
  else s

/-- A launch has ended: its carrier is no longer ACTIVE, and is PARKED after TX_HOLD unless another launch falls within
it (R121). -/
def carRest (k : Nat) (s : Chip) : Chip :=
  txUpd (fun t => { t with air := t.air.set k Air.none })
    (carUpd k (fun c => { c with st := if c.st = 2 then 1 else c.st, deadline := s.now + txHold s }) s)

/-- A launch ends with a status before its down-ramp has left: once PA_EN has risen, its emission stops (R138, R239). -/
def endLaunch (e st : Nat) (s : Chip) : Chip :=
  match s.tx.entries.get e with
  | some l =>
    if l.ended.isSome then s
    else
      let gone := emittedNs s l
      let stop := decide (2 ≤ l.phase)
      let l' := { l with ended := some st, stopped := stop, emitted := if stop then gone else 0 }
      let s := settleBooking l' st (pinsAfter l (txUpd (fun t => { t with entries := t.entries.set e (some l') }) s))
      let s := if l.phase = 3 ∨ (!l.held ∧ (s.rf.carriers.get l.carrier).st = 1) then carRest l.carrier s else s
      if l.held then completeLaunch e l' st s else drainCar 64 l.carrier s
  | none => s

/-- Entries in launch-time order. -/
def byTime (s : Chip) (es : List (Nat × Launch)) : List Nat :=
  (es.mergeSort fun a b => decide (relT s a.2 ≤ relT s b.2)).map (·.1)

/-- Ends every launch that a test names, in launch-time order. -/
def endAll (p : Launch → Bool) (st : Nat) (s : Chip) : Chip :=
  forEach (byTime s ((launches s).filter fun e => e.2.ended.isNone && p e.2)) (fun e s => endLaunch e st s) s

/-! ## Acceptance (R233 to R235) -/

/-- EV_PA_FAULT: at most once per port per second (R138). -/
def raisePaFault (p cause : Nat) (s : Chip) : Chip := raiseLim 59 p nsSec (pack [(0, 4, p), (8, 8, cause)]) s

/-- Cause of a fault that refuses launches on a port: 1 PA_EN, 2 open, 3 short, 4 PA_BIAS_EN; 0 none (R138, R142). -/
def portFault (s : Chip) (p : Nat) : Nat :=
  let a := s.rf.ports.get p
  if pinBad s 4 then 4
  else if pinBad s p then 1
  else if a.faulted then (if a.cond = 3 then 3 else 2)
  else 0

/-- A launch refused at acceptance: its counters, and EV_TX_LATE or EV_TX_QUEUE_FULL. -/
def refuseLaunch (l : Launch) (st : Nat) (s : Chip) : Nat × Option Nat × Chip :=
  let s := if st = stTxLate then raise 56 (pack [(0, 2, l.carrier), (8, 8, 0xFF)]) s
    else if st = stTxQueueFull then raise 58 0 s else s
  (st, none, countLaunch l st s)

/-- A free entry within the share of the launch's source (R235). -/
def freeEntry (s : Chip) (l : Launch) : Option Nat :=
  let mine := ((launches s).filter fun e => e.2.ofTrade = l.ofTrade).length
  let share := txCfg s 2
  if mine < (if l.ofTrade then share else 64 - share) then
    (List.range 64).find? fun e => (s.tx.entries.get e).isNone
  else none

/-- The launch takes its entry: its level, the band raise (R120, R230). -/
def takeEntry (e : Nat) (l : Launch) (s : Chip) : Chip :=
  let l := clampLevel s l
  let s := if l.clamped then raise 60 (pack [(0, 2, l.carrier), (16, 16, ofS 16 l.level)]) s else s
  let s := txUpd (fun t => { t with entries := t.entries.set e (some l) }) s
  raiseBand l.band l.carrier l.freq ((relT s l).toNat / 2 ^ 16) s

/-- Check 8 failed (R326, Table 11.6). -/
def regRefuse (l : Launch) (s : Chip) : Chip :=
  let s := if l.src = .trade then s else bump 0x0B0030 1 s
  match regShaper s l.band l.freq with
  | some n => raiseDuty n s
  | none => s

/-- The first instant from `t` on that passes checks 6 and 8 (R234), of a probe check 6 alone (R144); none when the ledger
admits none. -/
def placeFrom : Nat → Chip → Launch → Int → Option Int
  | 0, _, _, _ => none
  | n + 1, s, l, t =>
    let t := freeFrom 130 s l t
    match (if l.src = .probe then none else regBooking s l t) with
    | none => some t
    | some (k, b) =>
      if admits s k b then some t
      else match nextAdmit s k b with
        | some u => placeFrom n s l ((ns16 u : Int) - (tdNow16 s s.time.stampDom : Int))
        | none => none

/-- Books a placed launch. -/
def bookLaunch (l : Launch) (s : Chip) : Chip :=
  match regBooking s l (relT s l) with
  | some (n, b) => book n b s
  | none => s

/-- Places an ASAP launch that holds no T yet at or after `t0` (R234). -/
def placeLaunch (l : Launch) (t0 : Int) (s : Chip) : Option Launch :=
  (placeFrom 256 s l t0).map fun t => { l with t := ((tdNow16 s l.dom : Int) + t).toNat, held := false }

/-- Check 8 of Table 8.2. -/
def regAdmits (s : Chip) (l : Launch) : Bool :=
  match regBooking s l (relT s l) with
  | some (n, b) => admits s n b
  | none => true

/-- Check 2 of Table 8.2: the cause that disables the launch; probes run on faulted ports too (R144), not without
PA_BIAS_EN (Table 4.14). -/
def disabledBy (s : Chip) (l : Launch) : Option Nat :=
  let r := band s l.band
  if r.state = 0 ∨ r.base = 0 ∨ !pdOn s 5 ∨ bitOf s.pd0.latch 5 then some 0
  else if portFault s l.port ≠ 0 ∧ (l.src ≠ .probe ∨ portFault s l.port = 4) then some (portFault s l.port)
  else none

/-- Checks 7 to 9 of Table 8.2 for a launch with its T. -/
def submitPlaced (l : Launch) (s : Chip) : Nat × Option Nat × Chip :=
  match freeEntry s l with
  | none => refuseLaunch l stTxQueueFull s
  | some e => if regAdmits s l then (stOk, some e, takeEntry e l (bookLaunch l s)) else refuseLaunch l stBusy (regRefuse l s)

/-- The checks of Table 8.2 in their order, after those of the descriptor's fields; answers the status and the entry. An ASAP
launch that no instant admits fails check 8. -/
def submit (l : Launch) (s : Chip) : Nat × Option Nat × Chip :=
  let l := { l with no := s.tx.count, heldAt := s.now, phyCfg := demPhyCfg s }
  let s := txUpd (fun t => { t with count := t.count + 1 }) s
  if portBand s l.port ≠ l.band + 1 then refuseLaunch l stBadParam s
  else match disabledBy s l with
  | some c => refuseLaunch l stAbortedDisabled (if c = 0 then s else raisePaFault l.port c s)
  | none =>
    if l.simulcast ∧ (tdGet s l.dom).st ≠ 1 then refuseLaunch l stTimeUnlocked s
    else if l.asap then
      if !synthLocked s then
        if !l.held then refuseLaunch l stTxLateSynth s
        else match freeEntry s l with
        | none => refuseLaunch l stTxQueueFull s
        | some e => (stOk, some e, txUpd (fun t => { t with entries := t.entries.set e (some l) }) s)
      else match placeLaunch l (ns16 (asapLead s l) : Int) s with
      | some l => if relT s l < calEnd s then refuseLaunch l stBusy s else submitPlaced l s
      | none => if (freeEntry s l).isNone then refuseLaunch l stTxQueueFull s else refuseLaunch l stBusy (regRefuse l s)
    else if relT s l < calEnd s then refuseLaunch l stBusy s
    else if relT s l < (ns16 (leadMin s) : Int) then refuseLaunch l stTxLate s
    else if !clearAt s l (relT s l) then refuseLaunch l stBusy s
    else submitPlaced l s

/-! ## Progress of a launch -/

/-- A launch of the queue that has not ended. -/
def liveLaunch (s : Chip) (e : Nat) : Option Launch :=
  match s.tx.entries.get e with
  | some l => if l.ended.isNone && !l.held then some l else none
  | none => none

/-- HELD_LAUNCH_PLACE: output 2 has locked (R234); T counts from the lock, and no lead becomes shorter than its own. -/
def execHeldLaunchPlace (e : Fin 64) (s : State) : Out :=
  s.on fun s =>
  .next (match s.tx.entries.get e.val with
    | some l =>
      if !l.held || !synthLocked s || l.ended.isSome then s
      else
        let lead : Int := ((l.heldAt + leadMin s : Nat) : Int) - (s.now : Int)
        let lock := ((s.scs.txLockAt + max (biasLead s + enLead s) (100 * nsUs) : Nat) : Int) - (s.now : Int)
        let t0 := max (max lead lock) ((biasLead s + enLead s : Nat) : Int)
        match placeLaunch l (t0 * 2 ^ 16) s with
        | some l' =>
          if relT s l' < calEnd s then endLaunch e.val stBusy s
          else if regAdmits s l' then takeEntry e.val l' (bookLaunch l' s)
          else endLaunch e.val stBusy (regRefuse l s)
        | none => endLaunch e.val stBusy (regRefuse l s)
    | none => s)

/-- HOLD_MAX_EXPIRY (R234). -/
def execHoldMaxExpiry (e : Fin 64) (s : State) : Out :=
  s.on fun s =>
  .next (match s.tx.entries.get e.val with
    | some l => if l.held && decide (l.heldAt + txCfg s 3 * nsMs ≤ s.now) then endLaunch e.val stTxLateSynth s else s
    | none => s)

/-- LAUNCH_DESCRIPTOR_LOAD: the descriptor reaches its CD2 compare unit (R236); a band or carrier that has returned
meanwhile is raised for it (R120, R121). -/
def execLaunchDescriptorLoad (e : Fin 64) (s : State) : Out :=
  s.on fun s =>
  .next (match liveLaunch s e.val with
    | some l =>
      if l.loaded then s
      else raiseBand l.band l.carrier l.freq ((relT s l).toNat / 2 ^ 16) (entryUpd e.val (fun l => { l with loaded := true }) s)
    | none => s)

/-- LEASE + LEASE_GUARD, ns (R350). -/
def leaseGuard (s : Chip) : Nat := (cfgGet s 0x0D01 0xB + cfgGet s 0x0D01 0xC) * nsMs

/-- In lease mode: the lease runs past an instant, or this unit took ownership from a silent peer once LEASE + LEASE_GUARD
had passed since the boot start (R350, R351, DEDUCED, assumption 45). -/
def leaseCovers (s : Chip) (last : Int) : Bool :=
  (s.pair.leaseFree && decide (s.pair.bootAt + leaseGuard s ≤ s.now)) ||
    (match s.pair.leaseEnd with
      | some t => decide (last ≤ (t : Int))
      | none => false)

/-- This unit owns the output for a launch (R351): its lease, where one is needed, runs past the bias fall. A silence drill
mutes the output (R362). -/
def ownsOutput (s : Chip) (l : Launch) : Bool :=
  !s.pair.silent && (decide (cfgGet s 0x0D01 1 = 0) ||
    (s.pair.owner && (decide (pairMode s ≠ 2) ||
      leaseCovers s ((s.now : Int) + relEnd s l / 2 ^ 16 + ((enTail s + biasTail s : Nat) : Int)))))

/-- PA_BIAS_RISE: step 1 of Table 4.11 and the ownership check (R134, R245). -/
def execPaBiasRise (e : Fin 64) (s : State) : Out :=
  s.on fun s =>
  .next (match liveLaunch s e.val with
    | some l =>
      if !l.loaded || decide (l.phase ≠ 0) || !reached s l (enLead s + biasLead s) then s
      else if !ownsOutput s l then
        raiseLim 67 l.carrier nsSec (pack [(0, 2, l.carrier), (8, 1, b2n (pairMode s = 2))])
          (entryUpd e.val (fun l => { l with phase := 1, suppressed := true, biasAt := some s.now }) s)
      else
        let s := portActions 6 l.port (entryUpd e.val (fun l => { l with phase := 1, biasAt := some s.now }) s)
        rfUpd (fun r => { r with biasOn := true, biasFall := none
                                 biasPorts := if r.biasPorts.contains l.port then r.biasPorts else r.biasPorts ++ [l.port] }) s
    | none => s)

/-- PA_EN of the launch's port may rise (R136): its BAND is the launch's, and no other line of the band is high. A launch
whose port has lost its band since acceptance is refused here (DESIGN CHOICE, assumption 94). -/
def mayEnable (s : Chip) (l : Launch) : Bool :=
  decide (portBand s l.port = l.band + 1) &&
    (List.range 4).all fun p => p = l.port || !bitOf s.rf.paEn p || decide (portBand s p ≠ l.band + 1)

/-- PA_EN_RISE: step 2 of Table 4.11 and the check of output 2 (R136, R237). -/
def execPaEnRise (e : Fin 64) (s : State) : Out :=
  s.on fun s =>
  .next (match liveLaunch s e.val with
    | some l =>
      if l.phase ≠ 1 ∨ !reached s l (enLead s) then s
      else if !synthLocked s then
        endLaunch e.val stTxLateSynth (raise 57 (pack [(0, 2, l.carrier), (8, 8, e.val)]) s)
      else if !l.suppressed && !mayEnable s l then endLaunch e.val stAbortedDisabled s
      else
        let s := entryUpd e.val (fun l => { l with phase := 2, enAt := some s.now }) s
        if l.suppressed then s
        else rfUpd (fun r => { r with paEn := r.paEn ||| 2 ^ l.port, ports := r.ports.upd l.port fun p => { p with enFall := none } }) s
    | none => s)

/-- Eddy at the start of an emission (R248): near the frequency of the port's previous launch the stages start from its
weights and the bounds apply, in band B from T + 100 µs; else they start from the starting weights and converge. -/
def eddyStart (s : Chip) (l : Launch) (d : Eddy) : Eddy :=
  match d.saved.get l.port with
  | some (f, w) =>
    if l.freq ≤ f + 50 ∧ f ≤ l.freq + 50 then
      { d with converged := decide (l.band = 0), w := w, boundsAt := if l.band = 0 then none else some (s.now + 100 * nsUs) }
    else { d with converged := false, w := d.start, saved := d.saved.set l.port none, boundsAt := none }
  | none => { d with converged := false, w := d.start, boundsAt := none }

/-- The emission of a launch (R177, R178, R195, R197, R230, R232, R240): its PPDU with check or FCS as symbols or frequency
deviations, a tone of deviation 0 for a probe, K = 6 up-chirps for a simulcast burst; sent D_TX before T, the first ramp
sample RAMP_NS before that. -/
def emission (s : Chip) (l : Launch) (theta : Nat) : Air where
  fsk := l.fsk
  freq := if l.src = .probe then feCfg s (0x100 + 0x10 * l.port + 8) else 100 * l.freq
  k := fld l.phy 0 (if l.fsk then 2 else 4)
  bw := if l.fsk then fld l.phy 2 2 else fld l.phy 4 2
  gauss := l.fsk && bitOf l.phyCfg 4
  amp := amplitude s l.level l.freq * 10 ^ 9 / ampOne
  theta := theta
  sendAt := (l.t : Int) - s.tx.delays.dtx.get (4 * l.port + l.carrier) * 65536 / 1000 - (ns16 (rampNs s) : Int)
  syms := if l.fsk || l.src = .probe then [] else if l.src = .simcal then List.replicate 3 (true, 0)
    else amcSymbols (fld l.phy 0 4) (fld l.phy 4 2) (fld l.phy 8 8) (fld l.phy 16 12) l.psdu
  devs := if l.src = .probe then [0]
    else if l.fsk then fskSymbols l.phyCfg (fld l.phy 2 2) (bitOf l.phy 4) (bitOf l.phy 6) (bitOf l.phy 5) (fld l.phy 8 10) l.psdu
    else []

/-- A carrier is ACTIVE until T_end of its emission (R231). -/
def carSt (s : Chip) (k : Nat) : Nat :=
  let c := s.rf.carriers.get k
  if c.st = 2 ∧ c.endAt ≤ s.now then 1 else c.st

/-- A carrier of the band is ACTIVE. -/
def bandActive (s : Chip) (b : Nat) : Bool :=
  (List.range 4).any fun k => decide (carSt s k = 2 ∧ (s.rf.carriers.get k).band = b)

/-- LAUNCH_START: step 3 of Table 4.11 (R231). θ of the packet is a free value (R177; DESIGN CHOICE, assumption 3). -/
def execLaunchStart (e : Fin 64) (s : State) : Out :=
  s.on fun s =>
  .next (match liveLaunch s e.val with
    | some l =>
      if l.phase ≠ 2 ∨ !reached s l 0 then s
      else
        let un := decide ((tdGet s l.dom).st ≠ 1)
        let (theta, s) := freeNat 16 s
        let old := s.rf.carriers.get l.carrier
        let s := txUpd (fun t => { t with
          eddy := t.eddy.upd l.band fun d =>
            let d := eddyStart s l d
            if bandActive s l.band then d else { d with desenseAt := none }
          air := t.air.set l.carrier (emission s l theta) }) s
        let s := entryUpd e.val (fun l => { l with phase := 3, unlocked := un, startAt := some s.now }) s
        let s := carUpd l.carrier (fun _ => ⟨2, l.band, l.freq, s.now + l.airNs + txHold s, s.now + l.airNs⟩) s
        if old.st = 1 ∧ old.band ≠ l.band then bandSettle old.band s else s
    | none => s)

/-- LAUNCH_END: the down-ramp has left the antenna plane (R231, R238). -/
def execLaunchEnd (e : Fin 64) (s : State) : Out :=
  s.on fun s =>
  .next (match liveLaunch s e.val with
    | some l =>
      if l.phase ≠ 3 ∨ !decide (relEnd s l + (ns16 (rampNs s) : Int) ≤ 0) then s
      else
        let s := entryUpd e.val (fun l => { l with phase := 4, ended := some (if l.clamped then stClamped else stOk) }) s
        let s := if l.suppressed then s else
          portUpd l.port (fun p => { p with enFall := some (max (p.enFall.getD 0) (s.now + (enTail s - rampNs s))) }) s
        drainCar 64 l.carrier (carRest l.carrier s)
    | none => s)

/-- A launch of this test drives its pins now. -/
def driving (s : Chip) (p : Launch → Bool) : Bool :=
  (placed s).any fun e => decide (1 ≤ e.2.phase ∧ e.2.phase ≤ 3) && !e.2.suppressed && p e.2

/-- PA_EN_FALL: step 4 of Table 4.11; a line that a pin fault has released meanwhile ends its span here too (R135, R138). -/
def execPaEnFall (p : Fin 4) (s : State) : Out :=
  s.on fun s =>
  let due := match (s.rf.ports.get p.val).enFall with
    | some t => decide (t ≤ s.now)
    | none => false
  .next (if due && !driving s (fun l => l.port = p.val && decide (2 ≤ l.phase)) then
      let en := if bitOf s.rf.paEn p.val then s.rf.paEn - 2 ^ p.val else s.rf.paEn
      rfUpd (fun r => { r with paEn := en, biasFall := if en = 0 ∧ r.biasOn then some (s.now + biasTail s) else r.biasFall
                               ports := r.ports.upd p.val fun q => { q with enFall := none } }) s
    else s)

/-- A launch whose step 1 is due at or before now has not taken it yet: bias does not fall before it (R135). -/
def biasWanted (s : Chip) : Bool :=
  (placed s).any fun e => e.2.phase = 0 && reached s e.2 (enLead s + biasLead s) && ownsOutput s e.2

/-- PA_BIAS_FALL: step 5 of Table 4.11; bias stays high while another launch needs it (R135). A calibration that waited for
the pins is checked (R124). -/
def execPaBiasFall (s : State) : Out :=
  s.on fun s =>
  let due := match s.rf.biasFall with
    | some t => decide (t ≤ s.now)
    | none => false
  .next (if s.rf.biasOn && due && decide (s.rf.paEn = 0) && !driving s (fun _ => true) && !biasWanted s then
      let ps := s.rf.biasPorts
      calCheck 1 (calCheck 0 (forEach ps (fun p s => portActions 7 p s)
        (rfUpd (fun r => { r with biasOn := false, biasFall := none, biasPorts := [] }) s)))
    else s)

/-! ## Stops from outside (R117, R122, R138, R142, R236, R245) -/

/-- Output 2 has lost lock: emissions stop (R237). -/
def synthLost (s : Chip) : Chip := endAll (fun l => decide (2 ≤ l.phase)) stTxLateSynth s

/-- Launches of a band end (R122). -/
def endBand (b : Nat) (s : Chip) : Chip := endAll (fun l => l.band = b) stAbortedDisabled s

/-- Launches on a port end for a fault (R138, R142). -/
def endPort (p cause : Nat) (s : Chip) : Chip :=
  if (launches s).any fun e => e.2.ended.isNone && e.2.port = p then
    endAll (fun l => l.port = p) stAbortedDisabled (raisePaFault p cause s)
  else s

/-- A step of a domain leaves a launch a lead shorter than Table 4.11 has it: it has moved past step 1, or past what remains
of a lead that has begun, which is never made shorter, while the launch is never moved (R134, R236; DEDUCED, assumption 95). -/
def leadCut (s : Chip) (l : Launch) : Bool :=
  let need : Nat := match l.phase with
    | 0 => enLead s + biasLead s
    | 1 => enLead s + (l.biasAt.getD 0 + biasLead s - s.now)
    | 2 => l.enAt.getD 0 + enLead s - s.now
    | _ => 0
  decide (l.phase ≤ 2) && decide (relT s l < (ns16 need : Int))

/-- A forward step of a domain ends the launches that it makes late (R236). -/
def lateLaunches (d : Nat) (s : Chip) : Chip :=
  forEach (byTime s ((placed s).filter fun e => e.2.dom = d && leadCut s e.2))
    (fun e s =>
      match s.tx.entries.get e with
      | some l => endLaunch e stTxLate (raise 56 (pack [(0, 2, l.carrier), (8, 8, e)]) s)
      | none => s) s

/-- The output is lost: launches past step 1 stop, SUPPRESSED (R245, R362). -/
def muteOutput (s : Chip) : Chip :=
  let es := (placed s).filter fun e => decide (1 ≤ e.2.phase) && !e.2.suppressed
  forEach (byTime s es) (fun e s =>
    match s.tx.entries.get e with
    | some l =>
      let s := entryUpd e (fun l => { l with ended := some stAbortedDisabled, stopped := true, suppressed := true
                                             emitted := emittedNs s l }) s
      let s := pinsAfter l s
      drainCar 64 l.carrier (if l.phase = 3 then carRest l.carrier s else s)
    | none => s) s

/-- Ownership of a shared output is lost (R245). -/
def outputLost (s : Chip) : Chip := if cfgGet s 0x0D01 1 = 0 then s else muteOutput s

end Sys2Proof.Machine
end

