-- ==== Sys2Proof/Machine/TxCmds.lean ====
section
/-! DEFINITION. The transmit group (R232, R239, R242 to R254): TX_LAUNCH and its descriptor, cancelling, status,
simulcast calibration and Eddy. -/

namespace Sys2Proof.Machine

/-! ## Launch descriptor (Table 8.1) -/

/-- Field checks of a descriptor (check 1 of Table 8.2). -/
def descChecks (p : Bytes) (s : Chip) : List (Nat × Bool) :=
  let (fl, phy, len) := (rd p 4 1, rd p 24 4, rd p 22 2)
  let (asap, fsk) := (bitOf fl 0, bitOf fl 3)
  let port := fld (rd p 5 1) 2 2
  let b := portBand s port
  let fcs := if bitOf phy 6 then 2 else 4
  maskAt p 4 0x1F ++ [ck 4 (!bitOf fl 1 ∨ asap), ck 4 (!bitOf fl 2 ∨ !asap)] ++ maskAt p 5 0x0F ++
  [ck 5 (b ≠ 0), ck 6 (-400 ≤ toS 16 (rd p 6 2) ∧ toS 16 (rd p 6 2) ≤ 0), ck 8 (rd p 8 4 < nsSec)] ++
  (if asap then zeroAt p 8 12 else []) ++
  [(20, within (bandLow (b - 1)) (bandHigh (b - 1)) (rd p 20 2)),
   (22, within 1 (if fsk then cfgGet s 0x0701 5 - fcs else 255) len), ck 22 (p.length = 32 + (len + 3) / 4 * 4)] ++
  (if fsk then [ck 24 (bitOf phy 7 = false), (25, within 4 1000 (fld phy 8 10)), ck 26 (fld phy 18 6 = 0), ck 27 (fld phy 24 8 = 0)]
   else [(24, within 6 13 (fld phy 0 4)), ck 24 (fld phy 6 2 = 0), ck 25 (8 ≤ fld phy 8 8), ck 27 (fld phy 28 4 = 0)]) ++
  zeroAt p 28 4

/-- The launch that a descriptor asks for. -/
def descLaunch (src : LaunchSrc) (p : Bytes) : Launch :=
  let (fl, phy, len) := (rd p 4 1, rd p 24 4, rd p 22 2)
  { no := 0, src := src, id := rd p 0 4, carrier := fld (rd p 5 1) 0 2, port := fld (rd p 5 1) 2 2
    dom := b2n (bitOf fl 4), asap := bitOf fl 0, simulcast := bitOf fl 2, fsk := bitOf fl 3, level := toS 16 (rd p 6 2)
    clamped := false, t := (rd p 14 6 * nsSec + rd p 8 4) * 2 ^ 16 + rd p 12 2, freq := rd p 20 2, len := len, phy := phy
    psdu := (p.drop 32).take len, airNs := airOf (bitOf fl 3) phy len, emitted := 0, held := bitOf fl 1, heldAt := 0
    loaded := false, phase := 0, ended := none, stopped := false, suppressed := false, unlocked := false, cmd := none
    store := false, probe := none, measured := false, phyCfg := 0, biasAt := none, enAt := none, startAt := none, frame := 0
    node := 0 }

/-- A launch as a descriptor's 32 bytes and PSDU. -/
def launchDesc (l : Launch) : Bytes :=
  wr 4 l.id ++ wr 1 (pack [(0, 1, b2n l.asap), (2, 1, b2n l.simulcast), (3, 1, b2n l.fsk), (4, 1, l.dom)]) ++
    wr 1 (pack [(0, 2, l.carrier), (2, 2, l.port)]) ++ wr 2 (ofS 16 l.level) ++ tBytes l.t ++ wr 2 l.freq ++ wr 2 l.len ++
    wr 4 l.phy ++ zeros 4 ++ pad4 l.psdu

/-- TX_LAUNCH (R232, R233): its acceptance point is its entry; a refusal completes it. -/
def execTxLaunch (c : CmdRef) (s : State) : Out :=
  s.on fun s =>
  runCmd c 0x0501 s fun m =>
    let p := m.params
    checked c (ck 3 (rd p 0 4 < 2 ^ 31) :: descChecks p s) fun s =>
      let l := { descLaunch .host p with cmd := some c }
      let (st, e, s) := submit l s
      match e with
      | some _ => acceptCmd c s
      | none => complete c st (launchResult 0xFF { l with held := false }) s

/-! ## TX_CANCEL and TX_STATUS -/

/-- TX_CANCEL (R239): Trade launches lie outside its reach. -/
def execTxCancel (c : CmdRef) (s : State) : Out :=
  s.on fun s =>
  runCmd c 0x0502 s fun m =>
    let p := m.params
    let (id, fl, k) := (rd p 0 4, rd p 4 1, rd p 5 1)
    checked c ([ck 3 (fl % 4 ≠ 0 ∨ fld id 30 2 ≠ 2)] ++ maskAt p 4 3 ++ [ck 5 (k ≤ 3)] ++ zeroAt p 6 2) fun s =>
      let named := fun (l : Launch) => l.src ≠ .trade && (bitOf fl 1 || (if bitOf fl 0 then l.carrier = k else l.id = id))
      let ls := (launches s).filter fun e => e.2.ended.isNone && named e.2
      if ls.isEmpty ∧ fl % 4 = 0 then complete c stNotFound [] s
      else
        let emitting := ls.any fun e => e.2.phase = 3
        complete c stOk (wr 2 ls.length ++ wr 1 (b2n emitting) ++ zeros 1) (endAll named stAbortedFlush s)

/-- TXP_LQ_STAT (Table 8.6). -/
def lqStat (s : Chip) : Nat :=
  let l := launches s
  pack [(0, 7, l.length), (7, 7, (l.filter fun e => e.2.ofTrade).length), (14, 7, (l.filter fun e => e.2.held).length)]

/-- TXP_CAR_STATn (Table 8.7). -/
def carStat (s : Chip) (k : Nat) : Nat :=
  let c := s.rf.carriers.get k
  let q := (launches s).filter fun e => e.2.carrier = k && e.2.ended.isNone && decide (e.2.phase < 3)
  pack [(0, 2, carSt s k), (2, 1, c.band), (3, 15, c.freq), (18, 7, q.length)]

/-- R242 can measure the port: band A with a coupled wave at OBS_IN (MONITOR = 1, R140). -/
def obsPort (s : Chip) (p : Nat) : Bool := decide (portBand s p = 1 ∧ feCfg s (0x101 + 0x10 * p) = 1)

/-- A launch is measured when it is a probe, or lasts at least 100 µs and no other of its port was measured within 100 ms;
once (R141). -/
def mayMeasure (s : Chip) (p : Nat) (l : Launch) : Bool :=
  !l.measured && (l.src = .probe || (decide (100 * nsUs ≤ l.airNs) &&
    (match (s.rf.ports.get p).launchMeasAt with | some t => decide (t + 100 * nsMs ≤ s.now) | none => true)))

/-- The launch on a monitored port whose forward window has passed and whose reverse wave OBS takes now (R141). -/
def reverseWindow (s : Chip) (p : Nat) : Option (Nat × Launch) :=
  if !obsPort s p then none
  else (placed s).find? fun e => e.2.port = p && e.2.phase = 3 && !e.2.suppressed && mayMeasure s p e.2 &&
    (match e.2.startAt with | some t => decide (t + 30 * nsUs ≤ s.now) | none => false)

/-- The band-A digital stage holds its weights (R249): the OBS selector points to a reverse wave, or did within 5 µs. -/
def eddyHeld (s : Chip) (b : Nat) : Bool :=
  decide (b = 0) && ((List.range 4).any (fun p => (reverseWindow s p).isSome) ||
    (match (s.tx.eddy.get b).held with | some t => decide (s.now < t) | none => false))

/-- The reference of the digital stage (R249): the TXD waveform in band B, and in band A during a hold; else OBS. -/
def eddyFromTxd (s : Chip) (b : Nat) : Bool := decide (b = 1) || eddyHeld s b

/-- The bounds of Table 8.5 apply (R248, R249). -/
def eddyBounds (s : Chip) (b : Nat) : Bool :=
  let d := s.tx.eddy.get b
  (d.converged || (match d.boundsAt with | some t => decide (t ≤ s.now) | none => false)) && !eddyHeld s b

/-- TXP_EDDY_STATb (Table 8.8). -/
def eddyStat (s : Chip) (b : Nat) : Nat :=
  let d := s.tx.eddy.get b
  pack [(0, 1, txCfg s (6 + b)), (1, 1, b2n (eddyBounds s b)), (2, 1, b2n (eddyHeld s b)), (3, 1, b2n d.diverged), (8, 12, d.desense), (20, 12, if b = 0 then d.isolation else 0)]

/-- TX_STATUS (R252). -/
def execTxStatus (c : CmdRef) (s : State) : Out :=
  s.on fun s =>
  runCmd c 0x0500 s fun m =>
    checked c (maskAt m.params 0 1 ++ zeroAt m.params 1 3) fun s =>
      let head := wr 4 (lqStat s) ++ (List.range 4).flatMap (fun k => wr 4 (carStat s k)) ++ wr 4 (eddyStat s 0) ++
        wr 4 (eddyStat s 1)
      let (r, s) := readCounters 0x050200 32 (bitOf (rd m.params 0 1) 0) s
      complete c stOk (head ++ r) s

/-! ## Simulcast calibration (R242 to R244) -/

/-- The device's own launch: an ASAP burst or tone of `air` ns at PROBE_LEVEL (R144, R242; DESIGN CHOICE, assumption 26 for the t_byte
that OVERHEAD counts). -/
def ownLaunch (s : Chip) (src : LaunchSrc) (id carrier port freq air : Nat) (cmd : Option CmdRef) (store : Bool) : Launch :=
  { no := 0, src := src, id := id, carrier := carrier, port := port, dom := s.time.stampDom, asap := true
    simulcast := false, fsk := false, level := cfgGetI s 0x0301 0x10, clamped := false, t := 0, freq := freq, len := 0
    phy := 6 + 3 * 16, psdu := [], airNs := air, emitted := 0, held := false, heldAt := 0, loaded := false, phase := 0
    ended := none, stopped := false, suppressed := false, unlocked := false, cmd := cmd, store := store, probe := none
    measured := false, phyCfg := 0, biasAt := none, enAt := none, startAt := none, frame := 0, node := 0 }

/-- TX_SIMCAL (R242, R254). -/
def execTxSimcal (c : CmdRef) (s : State) : Out :=
  s.on fun s =>
  runCmd c 0x0503 s fun m =>
    let p := m.params
    let (port, k) := (rd p 0 1, rd p 1 1)
    checked c ([(0, decide (port ≤ 3) && obsPort s port), ck 1 (k ≤ 3)] ++ maskAt p 2 1 ++ zeroAt p 3 1 ++
        [(4, within (bandLow 0) (bandHigh 0) (rd p 4 2))] ++ zeroAt p 6 2) fun s =>
      let l := ownLaunch s .simcal (0xFFFFFD00 + 4 * port + k) k port (rd p 4 2) 200000 (some c) (bitOf (rd p 2 1) 0)
      let (st, e, s) := submit l s
      match e with
      | some _ => acceptCmd c s
      | none => complete c st [] s

def delaysUpd (f : Delays → Delays) (s : Chip) : Chip := txUpd (fun t => { t with delays := f t.delays }) s

/-- SIMCAL_MEASURE_DONE (R242). -/
def execSimcalMeasureDone (e : Fin 64) (delayM : Int) (spread : Nat) (s : State) : Out :=
  s.on fun s =>
  .next (match s.tx.entries.get e.val with
    | some l =>
      match l.cmd with
      | some c =>
        if l.src ≠ .simcal ∨ l.phase < 3 ∨ l.stopped then s
        else
          let i := 4 * l.port + l.carrier
          let d := delayM - s.tx.delays.obsCable.get l.port + s.tx.delays.tau.get l.port
          let change := d - s.tx.delays.dtx.get i
          let s := delaysUpd (fun x => { x with dtx := x.dtx.set i d }) s
          let s := if l.store then storeDelays [i] s else s
          let s := raise 65 (pack [(0, 2, l.carrier), (32, 32, ofS 32 change)]) s
          let s := complete c stOk (wr 4 (ofS 32 d) ++ wr 4 (ofS 32 change) ++ wr 4 spread) s
          drainCar 64 l.carrier (entryUpd e.val (fun l => { l with cmd := none }) s)
      | none => s
    | none => s)

/-- TX_SIMCAL_SET (R243). -/
def execTxSimcalSet (c : CmdRef) (s : State) : Out :=
  s.on fun s =>
  runCmd c 0x0504 s fun m =>
    let p := m.params
    let (port, item, k) := (rd p 0 1, rd p 1 1, rd p 2 1)
    let v := toS 32 (rd p 4 4)
    checked c ([ck 0 (port ≤ 3), ck 1 (item ≤ 2), ck 2 (k ≤ 3)] ++ maskAt p 3 1) fun s =>
      let s := delaysUpd (fun x =>
        if item = 0 then { x with tau := x.tau.set port v }
        else if item = 1 then { x with obsCable := x.obsCable.set port v }
        else { x with gb := x.gb.set (4 * port + k) v, dtx := x.dtx.set (4 * port + k) (x.dball.get k + v) }) s
      complete c stOk [] (if bitOf (rd p 3 1) 0 then storeDelays (if item = 2 then [4 * port + k] else []) s else s)

/-- SIMCAL_TRACK (R244): the running D_TX follows the forward window by at most 50 ps. -/
def simcalTrack (l : Launch) (delayM : Int) (s : Chip) : Chip :=
  if txCfg s 5 = 0 then s
  else
    let i := 4 * l.port + l.carrier
    let d := s.tx.delays
    let target := delayM - d.obsCable.get l.port + d.tau.get l.port
    let new := d.dtx.get i + clampI (-50) 50 (target - d.dtx.get i)
    let drift := new - d.dtxStored.get i
    let s := delaysUpd (fun x => { x with dtx := x.dtx.set i new }) s
    if 1000 ≤ drift.natAbs then raiseLim 66 l.carrier (3600 * nsSec) (pack [(0, 2, l.carrier), (32, 32, ofS 32 drift)]) s else s

/-! ## Eddy (R246 to R250) -/

def eddyUpd (b : Nat) (f : Eddy → Eddy) (s : Chip) : Chip := txUpd (fun t => { t with eddy := t.eddy.upd b f }) s

/-- Both stages at their starting weights, with a first convergence of every port to come (R247, R248). -/
def Eddy.restart (d : Eddy) : Eddy :=
  { d with converged := false, w := d.start, saved := Tab.const none, boundsAt := none, scale := 0, fits := 0 }

/-- A calibration of the band sets the starting weights: band A's analog stage has them in section 0x05 (R247, Table 4.8). -/
def eddyCal (b : Nat) (s : Chip) : Chip :=
  let (delay, taps) := Config.eddyStart (calBody s 5)
  eddyUpd b (fun d => ({ d with start := if b = 0 then ⟨delay, taps, []⟩ else EddyW.none } : Eddy).restart) s

/-- EDDY_RESET (R247, R254). -/
def execEddyReset (c : CmdRef) (s : State) : Out :=
  s.on fun s =>
  runCmd c 0x0505 s fun m =>
    let b := rd m.params 0 1
    checked c (ck 0 (b ≤ 1) :: zeroAt m.params 1 3) fun s =>
      if bandActive s b then complete c stBusy [] s
      else complete c stOk [] (eddyUpd b (fun d => { d.restart with diverged := false }) s)

/-- EV_EDDY_DESENSE: the estimate has stayed at or above DESENSE_WARN for 10 ms (R250). -/
def desenseCheck (b desense : Nat) (s : Chip) : Chip :=
  if desense < txCfg s 9 then eddyUpd b (fun d => { d with desenseAt := none }) s
  else match (s.tx.eddy.get b).desenseAt with
    | none => eddyUpd b (fun d => { d with desenseAt := some s.now }) s
    | some t =>
      if t + 10 * nsMs ≤ s.now then raiseLim 63 b (10 * nsSec) (pack [(0, 1, b), (16, 16, desense)]) s else s

/-- Isolation from the antenna port to the LNA input, 0.1 dB (R250): what the analog stage's fitted coupling and the coupler
make together (DEDUCED, assumption 96). Band B has none. -/
def isolation (s : Chip) (b : Nat) (coupling : Int) : Nat := if b = 0 then min 4095 (coupling + (txCfg s 8 : Nat)).toNat else 0

/-- The band's emissions: port, frequency. -/
def emitting (s : Chip) (b : Nat) : List (Nat × Nat) :=
  ((placed s).filter fun e => e.2.phase = 3 && e.2.band = b).map fun e => (e.2.port, e.2.freq)

/-- EDDY_DIGITAL_FIT (R247 to R250): every 100 µs while a carrier of the band is ACTIVE; nothing while the stage holds its
weights (R249). -/
def execEddyDigitalFit (bd : Band) (m : EddyFit) (s : State) : Out :=
  s.on fun s =>
  let b := bandIdx bd
  let d := s.tx.eddy.get b
  let early := match d.fitAt with
    | some t => decide (s.now < t + 100 * nsUs)
    | none => false
  .next (if txCfg s (6 + b) = 0 ∨ !bandActive s b ∨ eddyHeld s b ∨ early = true then s
    else
      let iso := isolation s b m.coupling
      let s := eddyUpd b (fun d => { d with
        held := none, desense := min 4095 m.desense, isolation := iso, fits := d.fits + 1, w := m.w, scale := 0, fitAt := some s.now }) s
      let s := desenseCheck b m.desense s
      let s := if b = 0 ∧ iso < 500 then raiseLim 64 0 (60 * nsSec) (pack [(16, 16, iso)]) s else s
      if m.residualOff < m.residualOn then
        raise 62 b (eddyUpd b (fun d => { d.restart with diverged := true }) s)
      else if !m.converged then eddyUpd b (fun d => { d with converged := false, boundsAt := none }) s
      else
        let now := emitting s b
        let s := eddyUpd b (fun x => { x with
          converged := true, diverged := false, saved := now.foldl (fun t e => t.set e.1 (some (e.2, m.w))) x.saved }) s
        if now.any fun e => (d.saved.get e.1).isNone then raise 61 (pack [(0, 1, b), (16, 16, ofS 16 m.residualOn)]) s else s)

/-- A bypass step of `gain` dB scales the digital weights; the bounds apply again within 300 µs (R249). -/
def eddyBypass (b : Nat) (gain : Int) (s : Chip) : Chip :=
  eddyUpd b (fun d => { d with
    scale := d.scale + gain, converged := false, boundsAt := if eddyBounds s b then some (s.now + 300 * nsUs) else d.boundsAt }) s

end Sys2Proof.Machine
end

