-- ==== Sys2Proof/Machine/Radio.lean ====
section
/-! DEFINITION. Converters, the sample clock synthesiser, band states, calibration, LNA bypass, control pins and the RFFE
commands (R114 to R132, R139, R145, R146, R148, R149). -/

namespace Sys2Proof.Machine

def scsUpd (f : Scs → Scs) (s : Chip) : Chip := { s with scs := f s.scs }

/-! ## Converters and clocks -/

/-- ADC_CLIP_REPORT (R114). -/
def execAdcClipReport (conv : Fin 3) (clipped : Word) (s : State) : Out :=
  s.on fun s =>
  .next (if pdOn s (if conv.val = 1 then 4 else 3) && decide (clipped ≠ 0) then
      raiseLim 41 conv.val nsSec (pack [(0, 2, conv.val), (32, 32, clipped.toNat)]) s
    else s)

/-- SCS_LOCK_LOSS (R117, R237). -/
def execScsLockLoss (o : Fin 4) (s : State) : Out :=
  s.on fun s =>
  .next (if !bitOf s.scs.lock o.val then s
    else
      let s := raise 30 o.val (scsUpd (fun c =>
        { c with lock := setFld c.lock o.val 1 0, losses := satAdd 255 c.losses 1, faults := setFld c.faults o.val 1 1 }) s)
      if o.val = 2 then synthLost s else s)

/-- SCS_RELOCKED (R115, R117): a lock after a fault raises EV_SCS_LOCKED; the last lock of an SCS_RELOCK completes it. A new
lock of output 0 or 1 gives RWD_SKEW a value that the specification does not state (R481, assumption 113). -/
def execScsRelocked (o : Fin 4) (s : State) : Out :=
  s.on fun s =>
  .next (if !pdOn s 11 || bitOf s.scs.lock o.val then s
    else
      let fault := bitOf s.scs.faults o.val
      let s := scsUpd (fun c => { c with lock := setFld c.lock o.val 1 1, faults := setFld c.faults o.val 1 0 }) s
      let s := if fault then raise 31 o.val s else s
      let s := if o.val < 2 then
          let (v, s) := freeNat 16 s
          { s with rwd := { s.rwd with skew := v } }
        else s
      let s' := match s.rf.relock with
        | some (c, t) =>
          if s.scs.lock % 16 = 15 then complete c stOk (wr 4 ((s.now - t) / nsUs)) (rfUpd (fun r => { r with relock := none }) s)
          else s
        | none => s
      if synthLocked s' && (decide (o.val = 2) || !synthLocked s) then scsUpd (fun c => { c with txLockAt := s.now }) s' else s')

/-- SCS_RELOCK (R116, R149): every output relocks. -/
def execScsRelock (c : CmdRef) (s : State) : Out :=
  s.on fun s =>
  runCmd c 0x0307 s fun m =>
    checked c (zeroAt m.params 0 4) fun s =>
      match s.rf.relock with
      | some (c', _) => if c' = c then s else complete c stBusy [] s
      | none =>
        synthLost (rfUpd (fun r => { r with relock := some (c, s.now) }) (scsUpd (fun x => { x with lock := 0 }) s))

/-- REFCLK_LOSS (R118). -/
def execRefclkLoss (s : State) : Out :=
  s.on fun s =>
  .next (if s.scs.refOk then raise 22 0 (scsUpd (fun c => { c with refOk := false, holdover := true, steering := false }) s)
    else s)

/-- REFCLK_RESTORE (R118): the steering back begins when outputs were held. -/
def execRefclkRestore (s : State) : Out :=
  s.on fun s =>
  .next (if pdOn s 11 && !s.scs.refOk then scsUpd (fun c => { c with refOk := true, steering := c.holdover }) s else s)

/-- STEERING_END (R118). -/
def execSteeringEnd (s : State) : Out :=
  s.on fun s =>
  .next (if s.scs.steering then raise 23 0 (scsUpd (fun c => { c with holdover := false, steering := false }) s) else s)

/-- RFA_SCS_STAT (Table 4.4). -/
def scsStat (s : Chip) : Nat :=
  pack [(0, 4, s.scs.lock), (4, 1, b2n s.scs.refOk), (5, 1, b2n s.scs.holdover), (8, 8, s.scs.losses)]

/-! ## Band states -/

/-- Band status word (Table 4.7). -/
def bandStat (s : Chip) (b : Nat) : Nat :=
  let r := band s b
  let cars := fun st => sumN ((List.range 4).map fun k =>
    if carSt s k = st ∧ (s.rf.carriers.get k).band = b then 2 ^ k else 0)
  pack [(0, 3, r.state), (3, 2, r.base), (5, 1, b2n r.target.isSome), (6, 1, b2n r.calValid),
    (7, 1, b2n (r.bypass && !(b = 0 && pinBad s 5))), (8, 4, cars 1), (12, 4, cars 2)]

/-- Carriers of a band are PARKED. -/
def parkBand (b : Nat) (s : Chip) : Chip :=
  forEach (List.range 4) (fun k s => carUpd k (fun c => if c.band = b then { c with st := 0 } else c) s) s

/-- The domain of a band is on, or the command completes with ST_ABORTED_DISABLED (R452). -/
def needBand (b : Nat) (c : CmdRef) (f : Chip → Chip) (s : Chip) : Chip :=
  if pdOn s (bandPd b) then f s else complete c stAbortedDisabled [] s

/-- A RADIO_STATE_SET to RX that has not completed ends when another takes the band's receive away; so does the calibration
that it asked for and that has not begun (DEDUCED, assumption 28). -/
def dropRx (b : Nat) (s : Chip) : Chip :=
  match (band s b).rxCmd with
  | some c =>
    complete c stAbortedDisabled [] (bandUpd b (fun r => { r with
      rxCmd := none, cal := r.cal.filter fun q => !(q.toRx && q.cmd.isNone && q.also.isEmpty && decide (q.phase ≠ 2)) }) s)
  | none => s

/-- RADIO_STATE_SET to OFF or SLEEP (R121, R122): detection stops, OFF cancels the launches, and the drain begins. A
calibration in progress goes on, and returns to the new base state. -/
def bandDisable (b st : Nat) (c : CmdRef) (s : Chip) : Chip :=
  let s := dropRx b s
  let s := bandUpd b (fun r => { r with base := st, prevBase := r.base, drain := some (st, c) }) s
  let s := refuseRecs (fun ch => ch / 64 = b) s
  acceptCmd c (if st = 0 then parkBand b (endBand b s) else s)

/-- RADIO_STATE_SET to RX (R121, R123, R149). A raise that runs brings the band to RXTX, and a transition to another state ends
first; the command completes in a receiving state. -/
def bandReceive (b : Nat) (c : CmdRef) (s : Chip) : Chip :=
  let r := band s b
  let s := bandUpd b (fun r => { r with base := 2, prevBase := r.base }) s
  if !r.calValid then calStart b false true true none (bandUpd b (fun r => { r with rxCmd := some c }) s)
  else if within 2 3 r.state ∧ r.target.isNone then
    complete c stOk (wr 1 r.base ++ zeros 3) (bandUpd b (fun r => { r with mute := false }) s)
  else
    let s := bandUpd b (fun r => { r with rxCmd := some c }) s
    if r.target.isNone ∨ (r.state = 3 ∧ r.target ≠ some 3) then bandGo b 2 s else s

/-- RADIO_STATE_SET. While the band drains it waits, and to RX also while the band calibrates or moves to RX for an earlier
command (DEDUCED, assumption 28). -/
def execRadioStateSet (c : CmdRef) (s : State) : Out :=
  s.on fun s =>
  runCmd c 0x0302 s fun m =>
    let p := m.params
    let (b, st) := (rd p 0 1, rd p 1 1)
    checked c ([ck 0 (b ≤ 1), ck 1 (st ≤ 2)] ++ zeroAt p 2 2) (needBand b c fun s =>
      let r := band s b
      if r.drain.isSome || (st = 2 && (r.cal.isSome || r.rxCmd.isSome)) then s
      else if st = 2 then bandReceive b c s
      else bandDisable b st c s)

/-- BAND_DRAIN_DONE: every context of the band has ended (R122). -/
def execBandDrainDone (bd : Band) (s : State) : Out :=
  s.on fun s =>
  let b := bandIdx bd
  .next (match (band s b).drain with
    | some (st, c) =>
      if !(bandBusy s b).isEmpty then s
      else
        let prev := (band s b).prevBase
        let s := bandUpd b (fun r => { r with drain := none, mute := true }) s
        let s := if (band s b).state = 4 then s
          else if st ≠ 0 ∧ ((band s b).state = 3 ∨ (band s b).target = some 3) then bandSettle b s else bandGo b st s
        complete c stOk (wr 1 prev ++ zeros 3) (raise 51 b s)
    | none => s)

/-! ## Calibration (R123 to R128) -/

/-- RADIO_CAL (R126). Sent again with WAIT = 0 it bounds a calibration that waits: that goes on without WAIT, and both
complete with it. Any other waits while the band calibrates or moves to RX for a command (DEDUCED, assumption 28). -/
def execRadioCal (c : CmdRef) (s : State) : Out :=
  s.on fun s =>
  runCmd c 0x0301 s fun m =>
    let p := m.params
    let b := rd p 0 1
    let (store, wait) := (bitOf (rd p 1 1) 0, bitOf (rd p 1 1) 1)
    checked c ([ck 0 (b ≤ 1)] ++ maskAt p 1 3 ++ zeroAt p 2 2) (needBand b c fun s =>
      match (band s b).cal with
      | some r =>
        if r.cmd = some c ∨ r.also.contains c ∨ wait ∨ r.phase = 2 then s
        else calCheck b (bandUpd b (fun x => { x with
          cal := some { r with phase := 0, wait := false, store := r.store || store, also := r.also ++ [c] } }) s)
      | none => if (band s b).rxCmd.isSome then s else calStart b store wait false (some c) s)

/-- The band leaves CAL for its base state, and is raised again for a carrier that is bound to it (R119, R126). -/
def leaveCal (b : Nat) (s : Chip) : Chip :=
  let s := bandEnter b (band s b).base (bandUpd b (fun r => { r with cal := none }) s)
  if bandBound s b ∧ within 1 2 (band s b).state then bandGo b 3 s else s

/-- The commands that waited for a calibration complete with its outcome (R123, R126). -/
def calTell (b step : Nat) (r : CalRun) (s : Chip) : Chip :=
  calTellAll b r stOk (wr 1 step ++ zeros 3 ++ wr 4 ((r.calAt - r.begunAt) / nsUs) ++ wr 4 ((s.now - r.calAt) / nsUs))
    (wr 1 (band s b).prevBase ++ zeros 3) s

/-- Boot step 8 calibrates a band of BANDS_AT_OPEN; a band whose domain is off stays off. -/
def bootCal (b : Nat) (s : Chip) : Chip :=
  if bitOf (bootCfg s 6) b && pdOn s (bandPd b) then
    calStart b false true false none (bandUpd b (fun r => { r with base := 2 }) s)
  else s

/-- Band B follows band A in boot step 8. -/
def bootCalNext (b : Nat) (r : CalRun) (s : Chip) : Chip :=
  if b = 0 ∧ s.boot.step = 8 ∧ r.cmd.isNone ∧ !r.toRx then bootCal 1 s else s

/-- A failed calibration: a band that fails in boot step 8 stays off until one succeeds on it (R87; DEDUCED, assumption 79). -/
def calFail (b step : Nat) (r : CalRun) (s : Chip) : Chip :=
  raise 33 (pack [(0, 1, b), (8, 8, step)]) (bandUpd b (fun x =>
    let boot := x.bootFail || (r.cmd.isNone && !r.toRx)
    { x with calValid := false, bootFail := boot, base := if boot then 0 else x.base }) s)

/-- CALIBRATION_DONE: `failed` gives the step that failed, 1 to 5, in band B 1, 3 or 5; `results` the bodies of the sections
in their order. -/
def execCalibrationDone (bd : Band) (failed : Option (Fin 6)) (results : List Bytes) (s : State) : Out :=
  s.on fun s =>
  let b := bandIdx bd
  if failed = some 0 ∨ (b = 1 ∧ (failed = some 2 ∨ failed = some 4)) then .fault .illFormed
  else .next (match (band s b).cal with
    | some r =>
      if r.phase ≠ 2 then s
      else match failed with
        | some k => bootCalNext b r (calTell b k.val r (leaveCal b (calFail b k.val r s)))
        | none =>
          let s := raise 32 b (bandUpd b (fun x => { x with calValid := true, bootFail := false }) s)
          let s := eddyCal b (if r.store then storeCal b results s else keepCal b results s)
          bootCalNext b r (calTell b 0 r (leaveCal b s))
    | none => s)

/-- BACKGROUND_TRACK (R125). -/
def execBackgroundTrack (bd : Band) (offset gain skew : Int) (s : State) : Out :=
  s.on fun s =>
  let b := bandIdx bd
  .next (if bandRx s b && pdOn s (bandPd b) then bandUpd b (fun r => { r with track := (offset, gain, skew) }) s else s)

/-! ## LNA bypass (R139) -/

/-- LNA_BYPASS_START: more than 1 in 10,000 samples of 100 µs have clipped. The pin stays low until service opens (R133). -/
def execLnaBypassStart (bd : Band) (clipped samples : Nat) (level : Int) (s : State) : Out :=
  s.on fun s =>
  let b := bandIdx bd
  .next (if !s.boot.service || !pdOn s (bandPd b) || !bandRx s b || decide (clipped * 10000 ≤ samples) then s
    else if (band s b).bypass then bandUpd b (fun r => { r with clipAt := s.now }) s
    else
      let s := raise 52 (pack [(0, 1, b), (16, 16, ofS 16 level)]) s
      if feCfg s (8 + b) = 0 ∨ (b = 0 ∧ pinBad s 5) then s
      else
        let s := bandUpd b (fun r => { r with bypass := true, bypassAt := s.now, clipAt := s.now }) s
        eddyBypass b (chnCfg s 0xE : Nat) (bypassGain b true (rffeActions b 8 0 s)))

/-- The bypass of a band ends. -/
def bypassOff (b : Nat) (s : Chip) : Chip :=
  eddyBypass b (-(chnCfg s 0xE : Nat)) (bypassGain b false (rffeActions b 9 0 (bandUpd b (fun r => { r with bypass := false }) s)))

/-- LNA_BYPASS_END: after BYP_HOLD, with no clipping at that rate in the last 10 ms. -/
def execLnaBypassEnd (bd : Band) (s : State) : Out :=
  s.on fun s =>
  let b := bandIdx bd
  let r := band s b
  .next (if r.bypass && decide (r.bypassAt + feCfg s 0xA * nsMs ≤ s.now ∧ r.clipAt + 10 * nsMs ≤ s.now) then bypassOff b s else s)

/-! ## Control pins (R145, R146) -/

/-- What a fault of pin `k` stops (Table 14 of chapter 4). -/
def pinEffect (k : Nat) (s : Chip) : Chip :=
  if k ≤ 3 then
    endPort k 1 (rfUpd (fun r => { r with paEn := setFld r.paEn k 1 0 }) s)
  else if k = 4 then
    forEach (List.range 4) (fun p s => endPort p 4 s)
      (rfUpd (fun r => { r with biasOn := false, biasFall := none, biasPorts := [] }) s)
  else if k = 5 ∧ (band s 0).bypass then bypassOff 0 s
  else s

/-- PIN_FAULT_DETECT: three mismatches in a row; `high`: the pad read high against a low drive. -/
def execPinFaultDetect (k : Fin 10) (high : Bool) (s : State) : Out :=
  s.on fun s =>
  .next (if pinBad s k.val then s
    else pinEffect k.val (raise 36 (pack [(0, 8, k.val), (8, 1, b2n high)])
      (rfUpd (fun r => { r with pinFault := setFld r.pinFault k.val 1 1, pinSupply := setFld r.pinSupply k.val 1 (b2n high) }) s)))

/-- PIN_REARM (R146): `stillBad` names the pins whose three comparisons fail again. -/
def execPinRearm (c : CmdRef) (stillBad : BitVec 10) (s : State) : Out :=
  s.on fun s =>
  runCmd c 0x0306 s fun m =>
    let p := m.params
    let mask := rd p 0 2
    checked c (maskAt p 1 3 ++ zeroAt p 2 2) fun s =>
      let s := forEach (List.range 10) (fun k s =>
        if !bitOf mask k || !pinBad s k then s
        else if stillBad.getLsbD k then raiseLim 36 k nsSec (pack [(0, 8, k), (8, 1, fld s.rf.pinSupply k 1)]) s
        else rfUpd (fun r => { r with pinFault := setFld r.pinFault k 1 0, pinSupply := setFld r.pinSupply k 1 0 }) s) s
      complete c stOk (wr 2 (s.rf.pinFault &&& mask) ++ zeros 2) s

/-- RFA_PIN_STAT (Table 4.15). -/
def pinStat (s : Chip) : Nat := pack [(0, 10, s.rf.pinFault), (16, 10, s.rf.pinSupply)]

/-! ## RFFE commands (R129, R132) -/

/-- RFFE_WRITE. -/
def execRffeWrite (c : CmdRef) (s : State) : Out :=
  s.on fun s =>
  runCmd c 0x0303 s fun m =>
    let p := m.params
    let (bus, usid, reg, n) := (rd p 0 1, rd p 1 1, rd p 2 1, rd p 3 1)
    checked c [ck 0 (bus ≤ 1), ck 1 (usid ≤ 15), (3, within 1 16 n)] fun s =>
      if rffeDown s bus || !pdOn s 5 then complete c stAbortedDisabled [] s
      else complete c stOk [] (forEach (List.range n) (fun i s => rffePut bus usid ((reg + i) % 256) (rd p (4 + i) 1) s) s)

/-- RFFE_READ: `data` is what the target returns, `parityFails` how many tries failed. -/
def execRffeRead (c : CmdRef) (data : Bytes) (parityFails : Nat) (s : State) : Out :=
  s.on fun s =>
  runCmd c 0x0304 s fun m =>
    let p := m.params
    let (bus, usid, n) := (rd p 0 1, rd p 1 1, rd p 3 1)
    checked c [ck 0 (bus ≤ 1), (1, within 1 15 usid), (3, within 1 16 n)] fun s =>
      if rffeDown s bus || !pdOn s 5 then complete c stAbortedDisabled [] s
      else if 3 ≤ parityFails then complete c stTimeout [] (raise 35 (pack [(0, 1, bus), (8, 4, usid)]) s)
      else complete c stOk ((data ++ zeros n).take n) s

end Sys2Proof.Machine
end

