-- ==== Sys2Proof/Machine/Antenna.lean ====
section
/-! DEFINITION. Antenna monitoring, probes and the tuner loop (R140 to R144, R244), and RADIO_STATUS. -/

namespace Sys2Proof.Machine

/-- Field `k` of port `p` in the front-end record (R147). -/
def portCfg (s : Chip) (p k : Nat) : Nat := feCfg s (0x100 + 0x10 * p + k)

/-- Classification of Table 4.12. -/
def condOf (s : Chip) (rl : Nat) (phase : Int) : Nat :=
  if feCfg s 0xB ≤ rl then 0
  else if feCfg s 0xC ≤ rl then 1
  else if phase.natAbs ≤ 600 then 2
  else if 1200 ≤ phase.natAbs then 3
  else 1

/-- Event of a change of COND. -/
def raiseCond (p cond rl : Nat) (s : Chip) : Chip :=
  if cond = 1 then raise 37 (pack [(0, 4, p), (16, 16, rl)]) s
  else if cond = 2 then raise 38 p s
  else if cond = 3 then raise 39 p s
  else s

/-! ## Tuner loop (R143) -/

/-- The code that the loop works on. -/
def AntPort.code (a : AntPort) : Nat := if a.onShunt then a.shunt else a.ser

/-- Writes that code. -/
def AntPort.setCode (a : AntPort) (v : Nat) : AntPort :=
  if a.onShunt then { a with shunt := v, toWrite := true } else { a with ser := v, toWrite := true }

/-- One step of the code in the direction in force, or a switch of code where it would pass 0 or 31. -/
def AntPort.move (a : AntPort) : AntPort :=
  if a.up ∧ a.code = 31 ∨ !a.up ∧ a.code = 0 then { a with onShunt := !a.onShunt, failed := 0, blocked := a.blocked + 1 }
  else { a.setCode (if a.up then a.code + 1 else a.code - 1) with blocked := 0, steps := a.steps + 1 }

/-- What the loop does on a measurement below TUNE_TARGET: it undoes a step that lowered RL by more than 0.3 dB and
reverses, and otherwise repeats the previous step (DEDUCED, assumption 27). -/
def AntPort.tune (a : AntPort) (rl : Nat) : AntPort :=
  match a.stepRl with
  | some prev =>
    if rl + 3 < prev then
      let a : AntPort := { a with up := !a.up }
      let a : AntPort := { a.move with failed := a.failed + 1, stepRl := some rl }
      if 2 ≤ a.failed then { a with onShunt := !a.onShunt, failed := 0 } else a
    else { a.move with stepRl := some rl }
  | none => { a.move with stepRl := some rl }

/-- The loop acts, or stops at its limit and says so once. -/
def tunerStep (p rl : Nat) (s : Chip) : Chip :=
  let a := s.rf.ports.get p
  if portCfg s p 4 = 0 then s
  else if feCfg s 0x11 ≤ rl then portUpd p (fun a => { a with atLimit := false, steps := 0, stepRl := none, blocked := 0, failed := 0 }) s
  else if a.atLimit then s
  else
    let a := a.tune rl
    if 2 ≤ a.blocked ∨ 64 ≤ a.steps then raise 40 p (portUpd p (fun _ => { a with atLimit := true }) s) else portUpd p (fun _ => a) s

/-- TUNER_CODE_WRITE: both codes, outside the span from step 1 to step 5 of any launch on the port. -/
def execTunerCodeWrite (p : Fin 4) (s : State) : Out :=
  s.on fun s =>
  .next (if (s.rf.ports.get p.val).toWrite && !driving s (fun l => l.port = p.val) && !s.rf.biasPorts.contains p.val then
      let a := s.rf.ports.get p.val
      let addr := portCfg s p.val 5
      let s := rffePut (fld addr 4 1) (fld addr 0 4) (portCfg s p.val 6) a.ser s
      let s := rffePut (fld addr 4 1) (fld addr 0 4) (portCfg s p.val 7) a.shunt s
      portUpd p.val (fun a => { a with toWrite := false }) s
    else s)

/-! ## Measurement (R141, R142) -/

/-- RL and the phase at the antenna plane (R141): Γ = V_rev ÷ V_fwd × 10^(COUPLER_DELTA ÷ 20), with the round trip
4π f τ to the antenna taken off; 0.1 dB, at least 0, and 0.1 degree in −1,800 to 1,799. -/
def reflection (s : Chip) (p : Nat) (l : Launch) (m : AntMeasure) : Nat × Int :=
  let trip : Int := 7200 * (l.freq : Int) * s.tx.delays.tau.get p / 10000000
  ((m.ratio - cfgGetI s 0x0301 (0x103 + 0x10 * p)).toNat, (m.arg - trip + 1800) % 3600 - 1800)

/-- A measurement classifies the port; an open or short port stops its launches, a probe that finds it better ends that
(R142). -/
def classifyPort (p : Nat) (probe : Bool) (rl : Nat) (phase : Int) (s : Chip) : Chip :=
  let cond := condOf s rl phase
  let old := (s.rf.ports.get p).cond
  let s := portUpd p (fun a => { a with rl := min rl 65535, cond := cond }) s
  let s := if cond = old then s else raiseCond p cond rl s
  if feCfg s 0xE = 1 ∧ 2 ≤ cond then
    let s := portUpd p (fun a => { a with faulted := true }) s
    if (placed s).any fun e => e.2.port = p && e.2.src ≠ .probe then
      endAll (fun l => l.port = p && l.src ≠ .probe) stAbortedDisabled (raisePaFault p cond s)
    else s
  else if probe ∧ cond ≤ 1 then portUpd p (fun a => { a with faulted := false }) s
  else s

/-- ANTENNA_MEASURE (R141, R142, R143, R244): the end of the reverse window; the selector turns forward again, and the hold
of Eddy lasts 5 µs more. -/
def execAntennaMeasure (pt : Fin 4) (m : AntMeasure) (s : State) : Out :=
  s.on fun s =>
  let p := pt.val
  .next (match reverseWindow s p with
    | some (e, l) =>
      let s := portActions 10 p (portActions 11 p s)
      let s := eddyUpd 0 (fun d => { d with held := some (s.now + 5 * nsUs) }) (entryUpd e (fun l => { l with measured := true }) s)
      let s := if l.src = .probe then s else portUpd p (fun a => { a with launchMeasAt := some s.now }) s
      if m.clipped then raise 53 1 s
      else
        let (rl, phase) := reflection s p l m
        let s := portUpd p (fun a => { a with measuredAt := s.now }) s
        let s := if m.fwdRel < -200 then raise 53 2 s else s
        let refl := m.rev + (portCfg s p 2 : Nat)
        let s := if (feCfg s 0xD : Nat) < refl then raiseLim 68 p (10 * nsSec) (pack [(0, 4, p), (16, 16, ofS 16 refl)]) s else s
        let s := if l.src = .probe then entryUpd e (fun l => { l with probe := some (rl, phase, condOf s rl phase) }) s
          else simcalTrack l m.delayM s
        tunerStep p rl (classifyPort p (l.src = .probe) rl phase s)
    | none => s)

/-! ## Probes (R144) -/

/-- The carrier of a probe: the first without a launch, else carrier 0 (DESIGN CHOICE, assumption 26). -/
def probeCarrier (s : Chip) : Nat :=
  ((List.range 4).find? fun k => (launches s).all fun e => e.2.carrier ≠ k).getD 0

/-- A probe of the port. -/
def probeLaunch (s : Chip) (p : Nat) (cmd : Option CmdRef) : Launch :=
  ownLaunch s .probe (0xFFFFFE00 + p) (probeCarrier s) p (portCfg s p 8 / 100) 100000 cmd false

/-- ANTENNA_PROBE_DUE; a probe that the queue or the shaper refuses is skipped until the next interval. -/
def execAntennaProbeDue (pt : Fin 4) (s : State) : Out :=
  s.on fun s =>
  let p := pt.val
  let a := s.rf.ports.get p
  let st := (band s 0).state
  .next (if s.boot.service && !goingDown s 5 && obsPort s p && decide (feCfg s 0xF ≠ 0) && decide (a.measuredAt + feCfg s 0xF * nsSec ≤ s.now) &&
      decide (st ≠ 0 ∧ st ≠ 4) && (launches s).all (fun e => e.2.src ≠ .probe || e.2.port ≠ p) then
      let (_, e, s) := submit (probeLaunch s p none) s
      if e.isNone then portUpd p (fun a => { a with measuredAt := s.now }) s else s
    else s)

/-- ANT_PROBE (R144, R149). -/
def execAntProbe (c : CmdRef) (s : State) : Out :=
  s.on fun s =>
  runCmd c 0x0305 s fun m =>
    let p := rd m.params 0 1
    checked c ((0, decide (p ≤ 3) && obsPort s p) :: zeroAt m.params 1 3) fun s =>
      let st := (band s 0).state
      if st = 0 ∨ st = 4 then complete c stBusy [] s
      else
        let (r, e, s) := submit (probeLaunch s p (some c)) s
        match e with
        | some _ => acceptCmd c s
        | none => complete c r [] s

/-! ## Status -/

/-- RFA_ANT_STATn (Table 4.13). -/
def antStat (s : Chip) (p : Nat) : Nat :=
  let a := s.rf.ports.get p
  pack [(0, 16, a.rl), (16, 2, a.cond), (18, 5, a.ser), (23, 5, a.shunt), (28, 1, b2n a.atLimit), (29, 1, b2n (!obsPort s p)),
    (30, 1, b2n (a.faulted || pinBad s p || bitOf s.pd0.latch 5))]

/-- RADIO_STATUS (Table 4.16). -/
def execRadioStatus (c : CmdRef) (s : State) : Out :=
  s.on fun s =>
  runCmd c 0x0300 s fun m =>
    let b := rd m.params 0 1
    checked c (ck 0 (b ≤ 1) :: zeroAt m.params 1 3) fun s =>
      complete c stOk (wr 4 (bandStat s b) ++ wr 4 (scsStat s) ++ (List.range 4).flatMap (fun p => wr 4 (antStat s p)) ++
        wr 4 (pinStat s)) s

end Sys2Proof.Machine
end

