-- ==== Sys2Proof/Machine/Apc.lean ====
section
/-! DEFINITION. The application cluster (R419 to R445): core states, Gust dispatch, watchdog and faults, load, counters,
samples, the machine timer. What the cores' own instructions compute is not the block's (DESIGN CHOICE, assumption 49). -/

namespace Sys2Proof.Machine

def apcUpd (f : Apc → Apc) (s : Chip) : Chip := { s with apc := f s.apc }
def coreUpd (n : Nat) (f : Core → Core) (s : Chip) : Chip := apcUpd (fun a => { a with cores := a.cores.upd n f }) s
def task (s : Chip) (t : Nat) : Task := s.apc.tasks.get t
def taskUpd (t : Nat) (f : Task → Task) (s : Chip) : Chip := apcUpd (fun a => { a with tasks := a.tasks.upd t f }) s
def apcCfg (s : Chip) (id : Nat) : Nat := cfgGet s 0x0F01 id

/-- Cores with an open activation of a task. -/
def openOn (s : Chip) (t : Nat) : Nat := ((List.range 8).filter fun n => (coreOf s n).act.any fun a => decide (a.task = t)).length

/-- Interval of the load second in progress that an open activation has used, ns (R439). -/
def actTime (s : Chip) (a : Act) : Nat := s.now - max a.at_ (s.now - (stampTd s).nsPart)

/-- Ends the open activation of a core, as gdone does. -/
def endAct (n : Nat) (s : Chip) : Chip :=
  match (coreOf s n).act with
  | some a => coreUpd n (fun c => { c with act := none, wd := false, busy := c.busy + actTime s a }) s
  | none => s

/-- Abandons the open activation of a core (R435). -/
def abandonAct (n : Nat) (s : Chip) : Chip :=
  match (coreOf s n).act with
  | some a => taskUpd a.task (fun t => { t with abandoned := satAdd 0xFFFF t.abandoned 1 }) (endAct n s)
  | none => s

/-! ## Taking an activation (R429, R430) -/

/-- A task is ready. -/
def taskReady (s : Chip) (t : Nat) (k : Task) : Bool := k.en && !k.ring.isEmpty && (k.multi || openOn s t = 0)

/-- Wait of a task: the age of its oldest pending activation, ns. -/
def taskWait (s : Chip) (k : Task) : Nat := match k.ring with
  | a :: _ => s.now - a.2
  | [] => 0

/-- The task with the longest wait; the lower number on a tie. -/
def longest (s : Chip) : List (Nat × Task) → Option (Nat × Task)
  | [] => none
  | e :: l => match longest s l with
    | some b => if taskWait s e.2 < taskWait s b.2 then some b else some e
    | none => some e

/-- Ready tasks of priority `p` that allow core `c`. -/
def candidates (s : Chip) (c p : Nat) : List (Nat × Task) :=
  s.apc.tasks.ents.filter fun e => taskReady s e.1 e.2 && decide (e.2.prio = p) && bitOf e.2.allow c

/-- The activation that R430 gives core `c` at priority `p`. -/
def pickAt (s : Chip) (c p : Nat) : Option (Nat × Task) :=
  let l := candidates s c p
  let idle := fun (k : Task) => match k.last with
    | some x => !coreLive s x
    | none => true
  match longest s (l.filter fun e => decide (apcCfg s 2 * nsUs ≤ taskWait s e.2)) with
  | some e => some e
  | none => match longest s (l.filter fun e => decide (e.2.last = some c)) with
    | some e => some e
    | none => longest s (l.filter fun e => idle e.2)

/-- The activation that core `c` could take now: priorities from 7 down. -/
def pickTask (s : Chip) (c : Nat) : Option (Nat × Task) := (List.range 8).findSome? fun i => pickAt s c (7 - i)

/-- Platform interrupt 16 is pending at a core (Table 15.2): it could take an activation. -/
def gustPending (s : Chip) (c : Nat) : Bool := coreLive s c && !(coreOf s c).hold && (coreOf s c).stop.isNone && (pickTask s c).isSome

/-- A queue holds a whole packet. -/
def holdsWhole (q : Dq) : Bool := !q.flushing && (!q.drain.isEmpty || !q.fill.isEmpty)

/-- Platform interrupts 16 to 19 of a core as bits of mip (Table 15.2): Gust, watchdog, counter overflow, mailbox. -/
def platformIrq (s : Chip) (n : Nat) : Nat :=
  let c := coreOf s n
  pack [(16, 1, b2n (gustPending s n)), (17, 1, b2n (c.wd && decide (apcCfg s 5 = 1))),
    (18, 1, b2n ((List.range 11).any fun k => decide (3 ≤ k) && bitOf (c.ev.get k) 12 && bitOf (c.ev.get k) 13)),
    (19, 1, b2n (holdsWhole (s.dq.get (24 + n))))]

/-- Core `c` takes the oldest activation of a task. -/
def takeAct (c : Nat) (e : Nat × Task) (s : Chip) : Chip :=
  match e.2.ring with
  | [] => s
  | a :: rest =>
    let us := taskWait s e.2 / nsUs
    let s := taskUpd e.1 (fun k => { k with ring := rest, last := some c, taken := satAdd 0xFFFFFFFF k.taken 1,
                                             maxWait := max k.maxWait (min 0xFFFFFFFF us) }) s
    coreUpd c (fun k => { k with act := some ⟨e.1, a.1, s.now⟩, wd := false, taken := satAdd 0xFFFFFFFF k.taken 1,
                                 csr := BitVec.ofNat 64 (2 ^ 63 + e.1) }) s

/-- The core is held: APC_CORE_STOP completes (R437). -/
def holdCore (n : Nat) (s : Chip) : Chip :=
  let ab := (coreOf s n).act.isSome
  let cmd := (coreOf s n).stop
  let s := coreUpd n (fun c => { c with st := 1, stop := none }) (abandonAct n s)
  match cmd with
  | some (c, _) => complete c stOk (wr 1 (b2n ab) ++ zeros 3) s
  | none => s

/-- GNEXT_READ. A core under a stop is held; a core named off receives nothing. -/
def execGnextRead (n : Fin 8) (s : State) : Out :=
  s.on fun s =>
  .next (if !coreLive s n.val then s
    else
      let s := coreUpd n.val (fun c => { c with st := 2, wfi := false, latch := none, csr := 0 }) (endAct n.val s)
      if (coreOf s n.val).stop.isSome then holdCore n.val s
      else if (coreOf s n.val).hold then s
      else match pickTask s n.val with
        | some e => takeAct n.val e s
        | none => s)

/-- GDONE_WRITE. -/
def execGdoneWrite (n : Fin 8) (s : State) : Out :=
  s.on fun s =>
  .next (if !coreLive s n.val then s
    else
      let s := coreUpd n.val (fun c => { c with st := 2, wfi := false }) (endAct n.val s)
      if (coreOf s n.val).stop.isSome then holdCore n.val s else s)

/-- CORE_WFI (Table 15.1, R437): IDLE when no activation is open; else RUNNING still, in WFI until its next access. -/
def execCoreWfi (n : Fin 8) (s : State) : Out :=
  s.on fun s =>
  .next (if !coreLive s n.val then s
    else if (coreOf s n.val).stop.isSome then holdCore n.val s
    else if (coreOf s n.val).act.isNone then coreUpd n.val (fun c => { c with st := 3 }) s
    else coreUpd n.val (fun c => { c with wfi := true }) s)

/-! ## Posting (R428, R432) -/

/-- EV_GUST_BACKPRESSURE of a source, and the task's count. -/
def backpressure (src t : Nat) (s : Chip) : Chip :=
  raiseLim 114 src nsSec src (taskUpd t (fun k => { k with backpressed := satAdd 0xFFFF k.backpressed 1 }) s)

/-- The ring of a task is full. -/
def ringFull (k : Task) : Bool := decide (k.depth ≤ k.ring.length)

/-- An activation enters a task's ring. -/
def post (t : Nat) (arg : BitVec 64) (s : Chip) : Chip := taskUpd t (fun k => { k with ring := k.ring ++ [(arg, s.now)] }) s

/-- GPOST: the value read is 0 accepted, 1 ring full, 2 disabled. -/
def execGpost (n : Fin 8) (t : Fin 4096) (arg : BitVec 64) (s : State) : Out :=
  s.on fun s =>
  .next (if !coreLive s n.val then s
    else
      let set := fun (v : BitVec 64) (s : Chip) => coreUpd n.val (fun c => { c with st := 2, wfi := false, latch := none, postArg := arg, csr := v }) s
      let k := task s t.val
      if !k.en then set 2 s
      else if ringFull k then set 1 (backpressure (0x100 + n.val) t.val s)
      else set 0 (post t.val arg s))

/-- GUSER_WRITE: at most 100 per core per second. -/
def execGuserWrite (n : Fin 8) (value : BitVec 64) (s : State) : Out :=
  s.on fun s =>
  .next (if coreLive s n.val then
      raiseUpTo 119 (100 * n.val) 100 value.toNat (coreUpd n.val (fun c => { c with st := 2, wfi := false }) s)
    else s)

/-- The task that a queue is bound to. -/
def boundTask (s : Chip) (q : Nat) : Option (Nat × Task) := s.apc.tasks.ents.find? fun e => decide (e.2.bind = q)

/-- BOUND_QUEUE_POST: a whole packet has entered queue `q`. A bound queue that is held back keeps arrival order. -/
def execBoundQueuePost (q : Fin 24) (s : State) : Out :=
  s.on fun s =>
  .next (if (s.dq.get q.val).fresh = 0 then s
    else
      let s := dqUpd q.val (fun d => { d with fresh := d.fresh - 1 }) s
      match boundTask s q.val with
      | some (t, k) =>
        if !pdOn s 2 || !k.en then s
        else if ringFull k || decide (0 < s.apc.unposted.get q.val) then
          backpressure q.val t (apcUpd (fun a => { a with unposted := a.unposted.upd q.val (· + 1) }) s)
        else post t (BitVec.ofNat 64 q.val) s
      | none => s)

/-- DEFERRED_POST: ring space has returned. -/
def execDeferredPost (q : Fin 24) (s : State) : Out :=
  s.on fun s =>
  .next (match boundTask s q.val with
    | some (t, k) =>
      if s.apc.unposted.get q.val = 0 ∨ !k.en ∨ ringFull k ∨ !pdOn s 2 then s
      else post t (BitVec.ofNat 64 q.val) (apcUpd (fun a => { a with unposted := a.unposted.upd q.val (· - 1) }) s)
    | none => s)

/-- TASK_LATE: the task's wait reaches AFF_MAX, from which instant `pickTask` gives it to every permitted core and platform
interrupt 16 follows; no register of the block holds more than that. -/
def execTaskLate (_t : Fin 4096) (s : State) : Out := s.on fun s => .next s

/-! ## Watchdog and faults (R434 to R436) -/

/-- A core faults: its activation is abandoned, its mailbox queues are disabled (R37). -/
def faultCore (n cause : Nat) (s : Chip) : Chip :=
  let s := coreUpd n (fun c => { c with st := 4 }) (abandonAct n s)
  dqUpd (24 + n) Dq.disable (dqUpd (56 + n) Dq.disable (raise 112 (pack [(0, 3, n), (8, 8, cause)]) s))

/-- APC_WATCHDOG: an activation has been open for WD_LIMIT. -/
def execApcWatchdog (n : Fin 8) (s : State) : Out :=
  s.on fun s =>
  let lim := apcCfg s 4 * nsMs
  .next (match (coreOf s n.val).act with
    | some a =>
      if lim = 0 ∨ (coreOf s n.val).wd ∨ s.now < a.at_ + lim ∨ !coreLive s n.val then s
      else
        let s := raise 113 n.val (coreUpd n.val (fun c => { c with wd := true }) s)
        if apcCfg s 5 = 2 then faultCore n.val 3 s else s
    | none => s)

/-- CORE_FAULT: an uncorrected error (cause 1) or a double trap (cause 2); causes 3 and 4 come about in their own rows. -/
def execCoreFault (n : Fin 8) (cause : Fin 5) (s : State) : Out :=
  s.on fun s =>
  .next (if coreLive s n.val && within 1 2 cause.val then faultCore n.val cause.val s else s)

/-- ECC_ERROR (R436): corrected errors at most once per core per second. -/
def execEccError (n : Fin 8) (uncorrectedDirty : Bool) (line : BitVec 24) (s : State) : Out :=
  s.on fun s =>
  let p := pack [(0, 1, b2n uncorrectedDirty), (8, 24, line.toNat)]
  .next (if !coreLive s n.val then s
    else if uncorrectedDirty then faultCore n.val 1 (raise 118 p s)
    else raiseLim 118 n.val nsSec p s)

/-! ## Load (R439) -/

/-- Load of a core over the second that ends now, %. -/
def loadOf (s : Chip) (c : Core) : Nat :=
  let now := match c.act with
    | some a => s.now - max a.at_ (s.now - nsSec)
    | none => 0
  min 100 ((c.busy + now) * 100 / nsSec)

/-- One core at a second boundary. -/
def coreLoad (n : Nat) (s : Chip) : Chip :=
  let l := loadOf s (coreOf s n)
  let hot := if apcCfg s 3 ≤ l then (coreOf s n).hot + 1 else 0
  let s := coreUpd n (fun c => { c with load := l, busy := 0, hot := hot }) s
  if 10 ≤ hot then raiseLim 115 n (60 * nsSec) (pack [(0, 3, n), (8, 8, l)]) s else s

/-- LOAD_UPDATE, at a second boundary of the stamping domain. -/
def execLoadUpdate (s : State) : Out :=
  s.on fun s =>
  .next (if pdOn s 2 && decide ((stampTd s).sec ≠ s.apc.loadSec) then
      forEach (List.range 8) coreLoad (apcUpd (fun a => { a with loadSec := (stampTd s).sec }) s)
    else s)

/-! ## Counters and samples (R440 to R444) -/

/-- CHAIN of a counter. -/
def chained (c : Core) (k : Nat) : Bool := within 4 10 k && bitOf (c.ev.get k) 11

/-- Value of a counter of core `n`, without the latch (Table 15.7). -/
def counterVal (s : Chip) (n k : Nat) : Nat :=
  if k = 1 then (stampTd s).ns % 2 ^ 64
  else if k = 2 then (Config.retired n s.now).toNat
  else (coreOf s n).ctr.get k

/-- A core may read counter `k` in a mode (0 user, 1 supervisor, 2 machine), bit `k` of its mcounteren and scounteren being `mcen` and
`scen` (R442). -/
def mayReadCounter (s : Chip) (k : Nat) (mode : Fin 3) (mcen scen : Bool) : Bool :=
  decide (mode = 2) || (mcen && (decide (mode = 1) || (scen && bitOf (apcCfg s 6) k)))

/-- HPM_COUNTER_READ (R441, R442). A read that is refused raises the core's illegal-instruction exception and reads
nothing. -/
def execHpmCounterRead (n : Fin 8) (k : Fin 11) (mode : Fin 3) (mcen scen : Bool) (s : State) : Out :=
  s.on fun s =>
  .next (if !coreLive s n.val then s
    else if !mayReadCounter s k.val mode mcen scen then coreUpd n.val (fun c => { c with st := 2, wfi := false }) s
    else
      let c := coreOf s n.val
      let v := match c.latch with
        | some (j, x) => if j = k.val then x else counterVal s n.val k.val
        | none => counterVal s n.val k.val
      coreUpd n.val (fun c => { c with
        st := 2, wfi := false, csr := BitVec.ofNat 64 v
        latch := if chained c (k.val + 1) then some (k.val + 1, c.ctr.get (k.val + 1)) else none }) s)

/-- Counter `k` wraps: into the chained counter above it, or with OVF. -/
def wrapCounter : Nat → Nat → Nat → Chip → Chip
  | 0, _, _, s => s
  | f + 1, n, k, s =>
    let s := coreUpd n (fun c => { c with ctr := c.ctr.set k 0 }) s
    let c := coreOf s n
    if chained c (k + 1) then
      if c.ctr.get (k + 1) = 0xFFFFFFFF then wrapCounter f n (k + 1) s
      else coreUpd n (fun c => { c with ctr := c.ctr.upd (k + 1) (· + 1) }) s
    else
      raiseLim 116 (11 * n + k) nsSec (pack [(0, 3, n), (3, 5, k)])
        (coreUpd n (fun c => { c with ev := c.ev.upd k fun e => setFld e 13 1 1 }) s)

/-- COUNTER_OVERFLOW of counter 3 to 10. -/
def execCounterOverflow (n : Fin 8) (k : Fin 11) (s : State) : Out :=
  s.on fun s =>
  .next (if coreLive s n.val && decide (3 ≤ k.val) then wrapCounter 8 n.val k.val s else s)

/-- Empties a core's sample buffer (R444). -/
def clearSamples (n : Nat) (s : Chip) : Chip := coreUpd n (fun c => { c with samples := [], lost := 0 }) s

/-- MSAMPLE_CLEAR: a write to msample with CLR = 1; its other fields take the value written (Table 15.13). -/
def execMsampleClear (n : Fin 8) (value : BitVec 64) (s : State) : Out :=
  s.on fun s =>
  .next (if coreLive s n.val then
      let v := value.toNat
      clearSamples n.val (coreUpd n.val (fun c => { c with
        st := 2, wfi := false, sEvent := fld v 0 8, sPeriod := max 1 (fld v 8 24), sLatMin := fld v 32 16
        sEn := bitOf v 48 }) s)
    else s)

/-- A sample record (Table 15.14). -/
def sampleRec (c : Core) (t : SampleTag) : Bytes :=
  wr 8 t.pc.toNat ++ wr 1 c.sEvent ++ wr 1 (pack [(0, 2, t.priv.toNat), (2, 1, b2n c.act.isSome), (3, 1, b2n c.lostMark)]) ++
    wr 2 ((c.act.map Act.task).getD 0) ++ wr 4 (min t.latency 0xFFFFFFFF)

/-- SAMPLE_RECORD_WRITE: a tagged instruction has retired. -/
def execSampleRecordWrite (n : Fin 8) (t : SampleTag) (s : State) : Out :=
  s.on fun s =>
  .next (if !coreLive s n.val || !(coreOf s n.val).sEn then s
    else
      let c := coreOf s n.val
      if c.samples.length < 1024 then
        let s := coreUpd n.val (fun c => { c with samples := c.samples ++ [sampleRec c t], lostMark := false }) s
        if c.samples.length = 1023 then raise 117 n.val s else s
      else coreUpd n.val (fun c => { c with lost := satAdd 0xFFFF c.lost 1, lostMark := true }) s)

/-! ## Machine timer (R421, R502) -/

/-- MTIP of a core against mtimecmp. -/
def timerDue (s : Chip) (n : Nat) : Bool := decide ((coreOf s n).mtimecmp.toNat ≤ (stampTd s).ns % 2 ^ 64)

/-- MACHINE_TIMER_PENDING. -/
def execMachineTimerPending (n : Fin 8) (s : State) : Out :=
  s.on fun s =>
  .next (if pdOn s 2 && timerDue s n.val then coreUpd n.val (fun c => { c with mtip := true }) s else s)

/-- A requester may write and read a core's APC_MTIMECMPn: the executive while PD2 is on, a core that runs (R423). -/
def mtimeReach (who : Requester) (s : Chip) : Bool :=
  match who with
  | .executive => pdOn s 2
  | .core c => coreLive s c.val

/-- Key of a requester's half of a pair. -/
def mtimeKey (who : Requester) (n : Nat) : Nat := 16 * reqIdx who + n

/-- The low word is held (R502). -/
def mtimeLo (who : Requester) (n : Nat) (v : Word) (s : Chip) : Chip :=
  apcUpd (fun a => { a with held := a.held.set (mtimeKey who n) (some v) }) s

/-- The high word takes effect, with the held low word when there is one (R502). -/
def mtimeHi (who : Requester) (n : Nat) (v : Word) (s : Chip) : Chip :=
  let lo := (s.apc.held.get (mtimeKey who n)).getD ((coreOf s n).mtimecmp.extractLsb' 0 32)
  let s := apcUpd (fun a => { a with held := a.held.set (mtimeKey who n) none }) s
  let s := coreUpd n (fun c => { c with mtimecmp := v ++ lo }) s
  coreUpd n (fun c => { c with mtip := timerDue s n }) s

/-- A read of the low word latches the high word for the requester's next read of it (R502). -/
def mtimeLoRead (who : Requester) (n : Nat) (s : Chip) : Word × Chip :=
  let c := (coreOf s n).mtimecmp
  (c.extractLsb' 0 32, apcUpd (fun a => { a with latch := a.latch.set (mtimeKey who n) (some (c.extractLsb' 32 32)) }) s)

/-- A read of the high word returns the latch, once. -/
def mtimeHiRead (who : Requester) (n : Nat) (s : Chip) : Word × Chip :=
  ((s.apc.latch.get (mtimeKey who n)).getD ((coreOf s n).mtimecmp.extractLsb' 32 32),
   apcUpd (fun a => { a with latch := a.latch.set (mtimeKey who n) none }) s)

/-- MTIMECMP_LO_WRITE. -/
def execMtimecmpLoWrite (who : Requester) (n : Fin 8) (value : Word) (s : State) : Out :=
  s.on fun s =>
  .next (if mtimeReach who s then mtimeLo who n.val value s else s)

/-- MTIMECMP_HI_WRITE. -/
def execMtimecmpHiWrite (who : Requester) (n : Fin 8) (value : Word) (s : State) : Out :=
  s.on fun s =>
  .next (if mtimeReach who s then mtimeHi who n.val value s else s)

/-- MTIMECMP_LO_READ. -/
def execMtimecmpLoRead (who : Requester) (n : Fin 8) (s : State) : Out :=
  s.on fun s =>
  .next (if mtimeReach who s then
      let (v, s) := mtimeLoRead who n.val s
      setLoad who v s
    else s)

/-! ## Power (R424, R425, R438) -/

/-- A core starts at an entry address (R425). -/
def startCore (n : Nat) (entry a1 : BitVec 64) (s : Chip) : Chip :=
  let s := coreUpd n (fun c => { Core.reset with st := 2, entry := entry, a1 := a1, load := c.load, taken := c.taken, stop := c.stop,
                                                 hold := c.hold, ev := c.ev, sEvent := c.sEvent, sPeriod := c.sPeriod,
                                                 sLatMin := c.sLatMin, sEn := c.sEn, mtip := c.mtip, mtimecmp := c.mtimecmp }) s
  dqUpd (24 + n) Dq.enable (dqUpd (56 + n) Dq.enable s)

/-- Start of LPDDR4X in the cores' map (Table 15.3). -/
def dramBase : Nat := 0x80000000

/-- AUTO_START (R424, R461): the named cores that are held start at the application image. -/
def autoStart (a1 : Nat) (s : Chip) : Chip :=
  forEach ((List.range 8).filter fun n => bitOf (apcCfg s 1) n) (fun n s =>
    if (coreOf s n).st = 1 then startCore n (BitVec.ofNat 64 dramBase) (BitVec.ofNat 64 a1) s else s) s

/-- A core loses power: its mailbox queues are disabled (R57); an APC_CORE_STOP that waits for it ends (R438). -/
def coreOff (n : Nat) (s : Chip) : Chip :=
  let s := match (coreOf s n).stop with
    | some (c, _) => complete c stAbortedDisabled [] s
    | none => s
  dqUpd (24 + n) Dq.disable (dqUpd (56 + n) Dq.disable (coreUpd n (fun _ => { Core.reset with st := 0 }) (abandonAct n s)))

/-- PD2 powers down: cores, tasks and activations are lost (Table 16.5). -/
def apcOff (s : Chip) : Chip :=
  let s := forEach (List.range 8) coreOff s
  apcUpd (fun a => { a with tasks := Tab.const Task.reset, unposted := Tab.const 0, held := Tab.const none, latch := Tab.const none }) s

end Sys2Proof.Machine
end

