-- ==== Sys2Proof/Machine/ApcCmds.lean ====
section
/-! DEFINITION. The application-cluster group (R445 to R447) and its registers. -/

namespace Sys2Proof.Machine

/-- APC_CLUSTER_STAT (Table 15.8). -/
def clusterStat (s : Chip) : Nat :=
  let mask := fun (p : Nat → Bool) => sumN ((List.range 8).map fun n => if p (coreOf s n).st then 2 ^ n else 0)
  pack [(0, 8, mask (within 2 3)), (8, 8, mask (fun x => x = 4)), (16, 1, b2n s.apc.imageLoaded)]

/-- Pending activations over all tasks. -/
def actsPending (s : Chip) : Nat := sumN (s.apc.tasks.ents.map fun e => e.2.ring.length)

/-- APC_GUST_STAT (Table 15.9). -/
def gustStat (s : Chip) : Nat :=
  pack [(0, 13, (s.apc.tasks.ents.filter fun e => e.2.en).length), (13, 17, actsPending s), (30, 1, b2n (pdOn s 2))]

/-- APC_GUST_PRIp. -/
def gustPri (s : Chip) (p : Nat) : Nat :=
  let l := s.apc.tasks.ents.filter fun e => taskReady s e.1 e.2 && decide (e.2.prio = p)
  pack [(0, 13, l.length), (16, 16, min 0xFFFF (((l.map fun e => taskWait s e.2).foldl max 0) / nsUs))]

/-- Per-core registers (Table 15.10). -/
def coreStat (s : Chip) (n : Nat) : Nat :=
  let c := coreOf s n
  pack [(0, 3, c.st), (3, 1, b2n c.act.isSome), (4, 12, (c.act.map Act.task).getD 0), (16, 1, b2n c.wd), (24, 8, c.load)]
def sampleStat (s : Chip) (n : Nat) : Nat :=
  let c := coreOf s n
  pack [(0, 11, c.samples.length), (11, 1, b2n (decide (c.samples.length = 1024))), (12, 1, b2n c.sEn), (16, 16, c.lost)]

/-- APC_STATUS: CLEAR clears the counters, APC_CORE_RUNn. -/
def execApcStatus (c : CmdRef) (s : State) : Out :=
  s.on fun s =>
  runCmd c 0x0C00 s fun m =>
    checked c (maskAt m.params 0 1 ++ zeroAt m.params 1 3) fun s =>
      let r := wr 4 (clusterStat s) ++ wr 4 (apcCfg s 6) ++ wr 4 (gustStat s) ++
        (List.range 8).flatMap (fun p => wr 4 (gustPri s p)) ++
        (List.range 8).flatMap (fun n => wr 4 (coreStat s n) ++ wr 4 (coreOf s n).taken ++ wr 4 (sampleStat s n))
      let s := if bitOf (rd m.params 0 1) 0 then
          apcUpd (fun a => { a with cores := a.cores.mapEnts fun _ k => { k with taken := 0 } }) s else s
      complete c stOk r s

/-- Parameter bytes as a 64-bit value. -/
def arg64 (p : Bytes) (off : Nat) : BitVec 64 := BitVec.ofNat 64 (rd p off 8)

/-- An entry address lies in LPDDR4X as fitted (R425, Table 15.3). -/
def inDram (s : Chip) (a : Nat) : Bool := decide (dramBase ≤ a) && decide (a < dramBase + min (dramBytes s) (2 ^ 32))

/-- APC_CORE_START (R425). -/
def execApcCoreStart (c : CmdRef) (s : State) : Out :=
  s.on fun s =>
  runCmd c 0x0C01 s fun m =>
    let p := m.params
    checked c (ck 0 (rd p 0 1 ≤ 7) :: zeroAt p 1 7 ++ [(8, inDram s (rd p 8 8))]) fun s =>
      let n := rd p 0 1
      if (coreOf s n).st = 1 ∨ (coreOf s n).st = 4 then complete c stOk [] (startCore n (arg64 p 8) (arg64 p 16) s)
      else complete c stBusy [] s

/-- APC_CORE_STOP (R437): with FORCE the core faults with cause 4; an idle core is in WFI and is held there. -/
def execApcCoreStop (c : CmdRef) (s : State) : Out :=
  s.on fun s =>
  runCmd c 0x0C02 s fun m =>
    let p := m.params
    checked c (ck 0 (rd p 0 1 ≤ 7) :: maskAt p 1 1 ++ zeroAt p 2 2) fun s =>
      let n := rd p 0 1
      let k := coreOf s n
      if bitOf (rd p 1 1) 0 then
        complete c stOk (wr 1 (b2n k.act.isSome) ++ zeros 3) (if coreLive s n then faultCore n 4 s else s)
      else if k.st = 1 then complete c stOk (zeros 4) s
      else if k.stop.isSome then complete c stBusy [] s
      else
        let s := coreUpd n (fun k => { k with stop := some (c, s.now) }) s
        if k.st = 3 then holdCore n s else s

/-- APC_CORE_STOP_TIMEOUT: not HELD within 1 s. -/
def execApcCoreStopTimeout (n : Fin 8) (s : State) : Out :=
  s.on fun s =>
  .next (match (coreOf s n.val).stop with
    | some (c, t) =>
      if t + nsSec ≤ s.now then complete c stTimeout [] (coreUpd n.val (fun k => { k with stop := none }) s) else s
    | none => s)

/-- DEPTH over the enabled tasks but one. -/
def depthOthers (s : Chip) (t : Nat) : Nat :=
  sumN ((s.apc.tasks.ents.filter fun e => decide (e.1 ≠ t) && e.2.en).map fun e => e.2.depth)

/-- GUST_TASK_SET (R426, R428, R433). -/
def execGustTaskSet (c : CmdRef) (s : State) : Out :=
  s.on fun s =>
  runCmd c 0x0C03 s fun m =>
    let p := m.params
    let (t, fl, bind, depth) := (rd p 0 2, rd p 2 1, rd p 5 1, rd p 6 2)
    checked c (ck 0 (t ≤ 4095) :: maskAt p 2 3 ++ [ck 3 (rd p 3 1 ≤ 7), ck 4 (1 ≤ rd p 4 1), ck 5 (bind ≤ 23 ∨ bind = 0xFF),
        (6, within 1 256 depth)]) fun s =>
      let k := task s t
      let en := bitOf fl 0
      let taken := bind ≠ 0xFF ∧ (s.apc.tasks.ents.any fun e => decide (e.1 ≠ t) && decide (e.2.bind = bind)) = true
      if (en ∧ 65536 < depthOthers s t + depth) ∨ (en ∧ depth < k.ring.length) ∨ taken then complete c stBusy [] s
      else
        let gone := if en then 0 else k.ring.length
        let k' : Task := { k with en := en, prio := rd p 3 1, allow := rd p 4 1, multi := bitOf fl 1, depth := depth
                                  bind := bind, entry := arg64 p 8, last := none, ring := if en then k.ring else [] }
        let s := taskUpd t (fun _ => k') s
        let s := if bind = 0xFF ∨ bind = k.bind then s
          else dqUpd bind (fun q => { q with fresh := 0 }) (apcUpd (fun a => { a with unposted := a.unposted.set bind 0 }) s)
        complete c stOk (wr 4 gone) s

/-- GUST_TASK_STATUS. -/
def execGustTaskStatus (c : CmdRef) (s : State) : Out :=
  s.on fun s =>
  runCmd c 0x0C04 s fun m =>
    let p := m.params
    let (t, k) := (rd p 0 2, rd p 2 2)
    checked c ([ck 0 (t ≤ 4095), ck 2 (1 ≤ k ∧ k ≤ 500 ∧ t + k ≤ 4096)] ++ maskAt p 4 1 ++ zeroAt p 5 3) fun s =>
      let row := fun (i : Nat) =>
        let x := task s (t + i)
        wr 2 x.ring.length ++ wr 1 (openOn s (t + i)) ++ wr 1 (x.last.getD 0xFF) ++ wr 4 x.taken ++ wr 4 x.maxWait ++
          wr 2 x.backpressed ++ wr 2 x.abandoned
      let r := (List.range k).flatMap row
      let s := if bitOf (rd p 4 1) 0 then
          apcUpd (fun a => { a with tasks := a.tasks.mapEnts fun j x =>
            if t ≤ j ∧ j < t + k then { x with maxWait := 0, backpressed := 0, abandoned := 0 } else x }) s
        else s
      complete c stOk r s

/-- GUST_POST (R432). -/
def execGustPost (c : CmdRef) (s : State) : Out :=
  s.on fun s =>
  runCmd c 0x0C05 s fun m =>
    let p := m.params
    checked c (ck 0 (rd p 0 2 ≤ 4095) :: zeroAt p 2 6) fun s =>
      let t := rd p 0 2
      if !(task s t).en then complete c stNotFound [] s
      else if ringFull (task s t) then complete c stBusy [] (backpressure 0x200 t s)
      else complete c stOk [] (post t (arg64 p 8) s)

/-- APC_PERF_READ. -/
def execApcPerfRead (c : CmdRef) (s : State) : Out :=
  s.on fun s =>
  runCmd c 0x0C06 s fun m =>
    checked c (ck 0 (rd m.params 0 1 ≤ 7) :: zeroAt m.params 1 3) fun s =>
      let k := coreOf s (rd m.params 0 1)
      complete c stOk ((List.range 11).flatMap (fun i => wr 8 (counterVal s (rd m.params 0 1) i)) ++
        (List.range 8).flatMap (fun i => wr 8 (k.ev.get (3 + i)))) s

/-- APC_SAMPLE_READ. -/
def execApcSampleRead (c : CmdRef) (s : State) : Out :=
  s.on fun s =>
  runCmd c 0x0C07 s fun m =>
    let p := m.params
    let (n, i, k) := (rd p 0 1, rd p 2 2, rd p 4 2)
    checked c (ck 0 (n ≤ 7) :: maskAt p 1 1 ++ [ck 2 (i ≤ 1023), ck 4 (1 ≤ k ∧ k ≤ 510 ∧ i + k ≤ 1024)] ++ zeroAt p 6 2) fun s =>
      let x := coreOf s n
      let l := (x.samples.drop i).take k
      let r := wr 2 l.length ++ wr 2 x.samples.length ++ wr 4 x.lost ++ l.flatten
      complete c stOk r (if bitOf (rd p 1 1) 0 then clearSamples n s else s)

end Sys2Proof.Machine
end

