-- ==== Sys2Proof/Machine/Vault.lean ====
section
/-! DEFINITION. The key vault (R366 to R382, R391 to R397): the locked region, handles and the key tree, the journal,
unseal, zeroisation and the Squall alarm. -/

namespace Sys2Proof.Machine

def secUpd (f : Sec → Sec) (s : Chip) : Chip := { s with sec := f s.sec }

/-! ## Locked region (R369, R370) -/

/-- The value in force: copy B where it is valid, else copy A. -/
def TwoCopy.get {α : Type} (c : TwoCopy α) (d : α) : α :=
  match c.b with
  | some v => v
  | none => match c.a with
    | some v => v
    | none => d

/-- What boot leaves: copy A rewritten from a valid copy B. -/
def TwoCopy.fix {α : Type} (c : TwoCopy α) : TwoCopy α :=
  match c.b with
  | some v => ⟨some v, some v⟩
  | none => c

def lockedUpd (f : Locked → Locked) (s : Chip) : Chip := secUpd (fun v => { v with locked := f v.locked }) s

/-- Life-cycle state; 0xFF when no copy is valid. -/
def lcNow (s : Chip) : Nat := s.sec.locked.lc.get 0xFF
def tampSet (s : Chip) : TampSet := s.sec.locked.tamper.get ⟨false, false, false, 10, 0, 0⟩
def opKey (s : Chip) : Option Bytes := s.sec.locked.opKey.get none
def signedCtr (s : Chip) : Nat := s.sec.locked.ctr.get 0

/-- Writes the life-cycle state, and SYS_MODE.LC with it. -/
def setLc (v : Nat) (s : Chip) : Chip :=
  lockedUpd (fun l => { l with lc := TwoCopy.both v }) { s with sys := { s.sys with lc := v } }

/-! ## Byte strings -/

/-- Brings a byte string to `n` bytes. -/
def fitB (n : Nat) (b : Bytes) : Bytes := (b ++ zeros n).take n

/-- Big-endian value, and `n` bytes of a value. -/
def beNat (b : Bytes) : Nat := leNat b.reverse
def beBytes (n v : Nat) : Bytes := (wr n v).reverse

/-- `n` random bytes from the DRBG. -/
def drbgBytes (n : Nat) (s : Chip) : Bytes × Chip :=
  ((List.range n).map fun i => BitVec.ofNat 8 (Config.free (s.freeCtr + i)).toNat, { s with freeCtr := s.freeCtr + n })

/-- A DRBG request; the 65,537th reseeds first (R397). -/
def drbgTake (s : Chip) : Chip :=
  if 65536 ≤ s.sec.drbgReqs then secUpd (fun v => { v with drbgReqs := 1, drbgAt := s.now }) s
  else secUpd (fun v => { v with drbgReqs := v.drbgReqs + 1 }) s

def serialBytes (s : Chip) : Bytes := wr 8 s.sys.serial.toNat

/-- ASCII octets. -/
def ascii (t : String) : Bytes := t.toList.map fun c => BitVec.ofNat 8 c.toNat

/-- Order of P-521. -/
def p521n : Nat := 0x01FFFFFFFFFFFFFFFFFFFFFFFFFFFFFFFFFFFFFFFFFFFFFFFFFFFFFFFFFFFFFFFFFFFA51868783BF2F966B7FCC0148F709A5D03BB5C9B8899C47AEBB6FB71E91386409

/-- A private scalar from 66 octets (R367). -/
def scalarOf (okm : Bytes) : Bytes := beBytes 66 (beNat (fitB 66 okm) % (p521n - 1) + 1)

/-! ## Keys (R371 to R375) -/

/-- Handles and octets of material of a type (Table 13.2). -/
def keySpan (typ : Nat) : Nat := [1, 2, 2, 5, 9].getD typ 1
def matLen (typ : Nat) : Nat := [16, 32, 32, 66, 133].getD typ 0

/-- The key that begins at a handle. -/
def findKey (s : Chip) (h : Nat) : Option Key := s.sec.keys.find? fun k => k.handle = h

/-- Keys of the vault and those that a journal commit is about to create. -/
def heldKeys (s : Chip) : List Key :=
  s.sec.keys ++ s.sec.commits.flatMap fun j => match j.eff with
    | .create ks => ks
    | _ => []

/-- `h` is `top` or lies below it. -/
def below : Nat → Chip → Nat → Nat → Bool
  | 0, _, _, _ => false
  | n + 1, s, top, h =>
    h = top || (match findKey s h with
      | some k => decide (k.level > 1 ∧ k.parent ≠ 0) && below n s top k.parent
      | none => false)

/-- The key or a key above it is orphaned (R380). -/
def orphaned : Nat → Chip → Nat → Bool
  | 0, _, _ => false
  | n + 1, s, h =>
    match findKey s h with
    | some k => decide (k.st = 1) || (decide (k.level > 1 ∧ k.parent ≠ 0) && orphaned n s k.parent)
    | none => false

/-- Below a key, itself left out. -/
def descendants (s : Chip) (h : Nat) : List Key := s.sec.keys.filter fun k => decide (k.handle ≠ h) && below 5 s h k.handle

/-- The key for an operation that needs an attribute, or the status that refuses it (R372, R380, R392). -/
def keyUse (s : Chip) (h attr : Nat) : Nat ⊕ Key :=
  if s.sec.vault ≠ 1 then .inl stTampered
  else match findKey s h with
  | none => .inl stNotFound
  | some k => if orphaned 5 s h then .inl stKeyOrphaned else if k.attr = attr then .inr k else .inl stAttrDenied

/-- A parent (R373): its level, or the status that refuses it. -/
def parentLevel (s : Chip) (h : Nat) : Nat ⊕ Nat :=
  if s.sec.vault ≠ 1 then .inl stTampered
  else match findKey s h with
  | none => .inl stNotFound
  | some k =>
    if orphaned 5 s h then .inl stKeyOrphaned
    else if (k.attr = 2 ∨ k.attr = 3) ∧ k.level < 4 then .inr k.level
    else .inl stAttrDenied

/-- Completes a command; ST_ATTR_DENIED is counted (R372). -/
def secDone (c : CmdRef) (st : Nat) (res : Bytes) (s : Chip) : Chip :=
  complete c st res (if st = stAttrDenied then secUpd (fun v => { v with attrDenied := satAdd 0xFFFFFFFF v.attrDenied 1 }) s else s)

/-- Handles of persistent keys (SEC_PERSIST), in use (SEC_KEYS), orphaned (SEC_ORPH). -/
def spanSum (l : List Key) : Nat := sumN (l.map fun k => keySpan k.typ)
def persistSpan (s : Chip) : Nat := spanSum ((heldKeys s).filter fun k => k.persist && decide (k.st = 0) && !orphaned 5 s k.handle)
def usedSpan (s : Chip) : Nat := spanSum s.sec.keys
def orphSpan (s : Chip) : Nat := spanSum (s.sec.keys.filter fun k => k.st = 1)

/-- First start of `n` free handles from `h` on, on an even handle where `even` asks for it. -/
def freeRun : Nat → List Key → Nat → Bool → Nat → Option Nat
  | 0, _, _, _, _ => none
  | f + 1, ks, n, even, h =>
    let h := if even && decide (h % 2 = 1) then h + 1 else h
    if 0x40000 < h + n then none
    else match ks.find? fun k => decide (k.handle < h + n ∧ h < k.handle + keySpan k.typ) with
      | some k => freeRun f ks n even (k.handle + keySpan k.typ)
      | none => some h

/-- Handles for a new key: the specification names no order, so the search starts anywhere (DESIGN CHOICE, assumption 3). -/
def allocRun (n : Nat) (even : Bool) (s : Chip) : Option Nat × Chip :=
  let (v, s) := freeNat 18 s
  let ks := heldKeys s
  match freeRun (2 * ks.length + 4) ks n even (max 64 v) with
  | some h => (some h, s)
  | none => (freeRun (2 * ks.length + 4) ks n even 64, s)

/-- The attribute suits the type (Table 13.3; DEDUCED, assumption 30). -/
def attrFits (typ attr : Nat) : Bool :=
  match attr with
  | 0 => [0, 1, 3].contains typ
  | 1 => [0, 1, 4].contains typ
  | 2 => typ = 1
  | _ => [2, 3].contains typ

/-- The keys of one creation: twins share their material (R374). -/
def newKeys (h typ attr level : Nat) (persist exprt twin : Bool) (parent : Nat) (mat : Bytes) : List Key :=
  let k : Key := ⟨h, typ, attr, level, persist, exprt, twin, 0, parent, 0, 0, fitB (matLen typ) mat⟩
  if twin then [{ k with attr := 1 }, { k with handle := h + 1, attr := 0 }] else [k]

/-- A key descriptor (Table 13.4). -/
def keyDesc (s : Chip) (k : Key) : Bytes :=
  let named := (List.range 16).any fun n => decide (s.sys.grpHandle.get n ≠ 0 ∧ s.sys.grpHandle.get n + 1 = k.handle)
  wr 4 k.handle ++ wr 1 (pack [(0, 4, k.typ), (4, 2, k.attr)]) ++
    wr 1 (pack [(0, 3, k.level), (3, 1, b2n k.persist), (4, 1, b2n k.exprt), (5, 1, b2n k.twin),
      (6, 2, if k.st = 0 ∧ orphaned 5 s k.handle then 1 else k.st)]) ++ zeros 2 ++
    wr 4 k.parent ++ wr 4 (if named then k.counter else 0)

/-! ## Journal (R394 to R396) -/

/-- First journal slot in use: A and B, or TA and TB under the test root (R368). -/
def jBase (s : Chip) : Nat := if s.sys.debugRoot then 2 else 0

/-- The persistent keys that a record holds now. -/
def jKeys (s : Chip) : List Key := s.sec.keys.filter fun k => k.persist && decide (k.st = 0) && !orphaned 5 s k.handle

/-- Octets derived from the root under a label (R367). -/
def rootDerive (root : Bytes) (label : String) (n : Nat) (s : Chip) : Bytes :=
  fitB n (Config.hkdf root (serialBytes s) (ascii label) n)

/-- A persistent key's entry: descriptor, with the reservation of R377 as its COUNTER, then material. -/
def jEntry (s : Chip) (k : Key) : Bytes := (keyDesc s k).take 12 ++ wr 4 k.reserve ++ fitB (16 * keySpan k.typ) k.mat

/-- COMMIT of a record that is committed (Table 13.10). -/
def jCommit : Bytes := wr 4 0xC3C3A5A5

/-- A record up to its COMMIT: header, synthetic IV, sealed body, tag and MAC (R394, Table 13.10). -/
def jRecord (g : Nat) (ks : List Key) (s : Chip) : Bytes :=
  let root := s.sec.root.getD []
  let macKey := rootDerive root "SC9740 JH" 64 s
  let body := ks.flatMap (jEntry s)
  let head := wr 4 0x4A520001 ++ wr 4 g ++ wr 4 body.length ++ wr 4 s.sec.bootCount
  let iv := fitB 12 (Config.hmac macKey (ascii "SC9740 JIV" ++ head ++ body))
  let (ct, tag) := Config.gcmSeal (rootDerive root "SC9740 JW" 32 s) iv head body
  let text := head ++ iv ++ fitB body.length ct ++ fitB 16 tag
  text ++ fitB 64 (Config.hmac macKey text)

/-- The slot that the next record goes to: the one that is not in force (R395). -/
def jNext (s : Chip) : Nat := jBase s + (if s.sec.inB then 0 else 1)

/-- A record is written into the slot that is not in force, and committed (R395). -/
def jWrite (s : Chip) : Chip :=
  let g := (s.sec.gen + 1) % 2 ^ 32
  let ks := jKeys s
  secUpd (fun v => { v with slots := v.slots.set (jNext s) (some ⟨g, v.bootCount, true, ks, jRecord g ks s ++ jCommit⟩)
                            inB := !v.inB, gen := g }) s

/-- A record whose write is cut short before COMMIT (R395, R396); the slot holds what was written first (DEDUCED,
assumption 82). -/
def jTear (s : Chip) : Chip :=
  if s.sec.commits.isEmpty then s
  else
    let g := (s.sec.gen + 1) % 2 ^ 32
    secUpd (fun v => { v with
      slots := v.slots.set (jNext s) (some ⟨g, v.bootCount, false, [], jRecord g (jKeys s) s⟩), commits := [] }) s

/-- EV_KEY_JOURNAL_TORN for a slot that is not valid. -/
def jTorn (slot : Nat) (s : Chip) : Chip :=
  match s.sec.slots.get (jBase s + slot) with
  | some r => if r.ok then s else
      raise 105 (pack [(0, 1, slot), (32, 32, r.gen)]) (secUpd (fun v => { v with torn := true }) s)
  | none => s

/-- The valid record of a slot. -/
def jValid (s : Chip) (slot : Nat) : Option JSlot :=
  match s.sec.slots.get (jBase s + slot) with
  | some r => if r.ok then some r else none
  | none => none

/-- The journal is recovered (R396): the later valid record wins, slot A where neither is later. -/
def jRecover (s : Chip) : Chip :=
  let s := jTorn 1 (jTorn 0 s)
  let pick : Option (Bool × JSlot) := match jValid s 0, jValid s 1 with
    | some a, some b => if later 32 b.gen a.gen then some (true, b) else some (false, a)
    | some a, none => some (false, a)
    | none, some b => some (true, b)
    | none, none => none
  match pick with
  | some (inB, r) => secUpd (fun v => { v with inB := inB, gen := r.gen, bootCount := r.boot
                                               keys := v.keys ++ r.keys.map fun k => { k with counter := k.reserve } }) s
  | none => secUpd (fun v => { v with inB := false, gen := 0, bootCount := 0 }) s

/-! ## Unseal (R366 to R368) -/

/-- The fixed keys of Table 13.1 and the operator public key. -/
def fixedKeys (root : Bytes) (s : Chip) : List Key :=
  let id := scalarOf (rootDerive root "SC9740 ID" 66 s)
  let ag := scalarOf (rootDerive root "SC9740 AG" 66 s)
  [⟨0x08, 3, 0, 1, false, false, false, 0, 0, 0, 0, id⟩, ⟨0x10, 4, 1, 1, false, false, false, 0, 0, 0, 0, Config.p521Pub id⟩,
    ⟨0x20, 3, 3, 1, false, false, false, 0, 0, 0, 0, ag⟩,
    ⟨0x28, 4, Config.agreeAttr.toNat, 1, false, false, false, 0, 0, 0, 0, Config.p521Pub ag⟩] ++
  (match opKey s with
    | some p => [⟨0x34, 4, 1, 2, false, false, false, 0, 0, 0, 0, p⟩]
    | none => [])

/-- Unseal with a root: its keys, then the journal; BOOT_COUNT rises by one commit (R395). -/
def unsealWith (root : Bytes) (s : Chip) : Chip :=
  let s := jRecover (secUpd (fun v => { v with vault := 1, root := some root, keys := fixedKeys root s, torn := false }) s)
  secUpd (fun v => { v with commits := v.commits ++ [⟨none, .boot⟩] }) s

/-- The first boot in BLANK (R366): a root, helper data, PROVISION; the journal starts at generation 1. -/
def firstUnseal (s : Chip) : Chip :=
  let (root, s) := drbgBytes 32 (drbgTake s)
  let s := setLc 1 (lockedUpd (fun l => { l with helper := TwoCopy.both (some root) }) s)
  unsealWith root (raise 107 (pack [(8, 8, 1)]) s)

/-- Test root (R368). -/
def testRoot : Bytes := List.replicate 32 0x5A

/-- Unseal in step 4: none when PUF reconstruction fails (R367), or when the first boot has no entropy (R397). -/
def vaultOpen (pufOk entropyOk : Bool) (s : Chip) : Option Chip :=
  if lcNow s = 4 then some s
  else if s.sys.debugRoot then some (unsealWith testRoot s)
  else if lcNow s = 0 then (if entropyOk then some (firstUnseal s) else none)
  else if !pufOk then none
  else some (unsealWith ((s.sec.locked.helper.get none).getD []) s)

/-! ## Zeroisation (R391, R392) -/

/-- An installation session ends with its slot invalid (R411). -/
def closeSession (s : Chip) : Chip := { s with img := { s.img with session := none } }

/-- Crypto and security commands that have not completed: group 0x0B, and those with an operation in the engine. -/
def tamperedCmd (s : Chip) (m : Cmd) : Bool :=
  m.done.isNone && (decide (m.opcode / 256 = 0x0B) || s.sec.ops.any fun o => o.cmd.tr.val = m.tr && o.cmd.tag = m.tag)

/-- Every crypto and security command not yet completed completes with ST_TAMPERED, in admission order (R45). -/
def tamperCmds (s : Chip) : Chip :=
  forEach ((s.ubfen.cmds.filter (tamperedCmd s)).map Cmd.ref) (fun c s => complete c stTampered [] s) s

/-- Every secret of the vault is zeroised; crypto and security commands complete with ST_TAMPERED, in admission order
(R45). -/
def zeroise (s : Chip) : Chip :=
  let cs := (s.ubfen.cmds.filter (tamperedCmd s)).map Cmd.ref
  let s := closeSession (jTear s)
  let s := secUpd (fun v => { v with
    vault := 2, root := none, ops := [], sweeps := [], drbgOn := false
    keys := v.keys.map fun k => { k with mat := zeros k.mat.length, st := if k.st = 1 then 1 else 2 } }) s
  let (t, s) := freeNat 32 s
  let s := raise 101 (t % 2001) s
  forEach cs (fun c s => complete c stTampered [] s) s

/-! ## Squall (R389, R390, R92) -/

/-- Where an alarm falls (Table 13.9). -/
def alarmWhere (s : Chip) : Nat :=
  if s.boot.wait = .calm then 0 else if s.boot.tamperHold then 2 else if 4 ≤ s.boot.stage then 3 else 1

/-- RTC sub-seconds, 1 ÷ 32,768 s. -/
def rtcSub (s : Chip) : Nat := s.pd0.rtc % nsSec * 32768 / nsSec

/-- A tamper log entry (Table 13.9). -/
def logEntry (loopB : Bool) (kind sample base : Nat) (s : Chip) : Bytes :=
  wr 4 (s.pd0.rtc / nsSec) ++ wr 2 (rtcSub s) ++ wr 1 (pack [(0, 1, b2n loopB), (1, 2, kind)]) ++ wr 1 (alarmWhere s) ++
    wr 2 (min 0xFFFF sample) ++ wr 2 base ++ wr 4 (min 0xFFFFFFFF (s.pd0.tampCount + 1))

/-- The alarm is latched and logged; a full log replaces its newest entry (R390). -/
def logAlarm (loopB : Bool) (kind sample base : Nat) (s : Chip) : Chip :=
  let e := logEntry loopB kind sample base s
  let full := decide (32 ≤ s.pd0.tampLog.length)
  { s with pd0 := { s.pd0 with
      tampLatch := true, tampOver := s.pd0.tampOver || full, tampCount := satAdd 0xFFFFFFFF s.pd0.tampCount 1
      tampLog := (if full then s.pd0.tampLog.take 31 else s.pd0.tampLog) ++ [e] } }

/-- Tamper-Hold is entered (R92): the boot stops. -/
def enterHold (w : BootWait) (s : Chip) : Chip :=
  raise 102 s.pd0.tampLog.length
    { secUpd (fun v => { v with vault := 3 }) s with
      boot := { s.boot with tamperHold := true, wait := w, step := 0 } }

/-- SYS_MODE.MODE. -/
def modeNow (s : Chip) : Nat := if s.boot.tamperHold then 1 else if s.sys.debugRoot then 2 else 0

/-- The Squall alarm (R390): in steps 3 and 4 the boot stops (R92); after unseal the vault is zeroised (R391); a further alarm
finds it empty. Every alarm closes an installation session (R411) and ends the crypto and security commands not yet completed
(R45). -/
def alarm (loopB : Bool) (kind sample base : Nat) (s : Chip) : Chip :=
  let s := logAlarm loopB kind sample base s
  let s := if pdOn s 1 then raise 100 (pack [(0, 1, b2n loopB), (1, 2, kind)]) s else s
  tamperCmds (closeSession (
    if s.boot.tamperHold then s
    else if s.boot.step = 3 then enterHold .tamperExec s
    else if s.boot.step = 4 ∧ s.boot.wait = .none then enterHold .tamperExec (zeroise s)
    else if 4 ≤ s.boot.stage ∧ s.sec.vault = 1 then zeroise s
    else s))

/-- Class of a sample (R389, Table 13.12). -/
def loopClass (r base delta : Nat) : Nat :=
  if 100000 < r then 1 else if r < 20 then 2
  else if delta * base < 100 * (max r base - min r base) then 3 else 0

/-- TAMPER_SAMPLE: `r` in units of 10 Ω, every 250 µs; three samples of one class in a row raise the alarm (R389). -/
def execTamperSample (loop : Fin 2) (r : Nat) (s : State) : Out :=
  s.on fun s =>
  .next (let t := tampSet s
    let b := decide (loop.val = 1)
    let base := if b then t.baseB else t.baseA
    let p := s.sec.loops.get loop.val
    if !(if b then t.enB else t.enA) || decide (s.boot.wait = .vaon) || decide (s.now < p.next) then s
    else
      let cl := loopClass r base t.delta
      let row := if cl = 0 then 0 else if p.cond = cl then p.row + 1 else 1
      let s := secUpd (fun v => { v with loops := v.loops.set loop.val ⟨min 0xFFFF r, cl, row, s.now + 250 * nsUs⟩ }) s
      if row = 3 then alarm b (cl - 1) (min 0xFFFF r) base s else s)

/-! ## Entropy (R397) -/

/-- DRBG_RESEED. -/
def execDrbgReseed (s : State) : Out :=
  s.on fun s =>
  .next (if s.sec.drbgOn && (decide (65536 ≤ s.sec.drbgReqs) || decide (s.sec.drbgAt + 60 * nsSec ≤ s.now)) then
      secUpd (fun v => { v with drbgReqs := 0, drbgAt := s.now }) s
    else s)

/-- ENTROPY_HEALTH_FAIL: codes 1 to 3; the DRBG stops. -/
def execEntropyHealthFail (code : Fin 4) (s : State) : Out :=
  s.on fun s =>
  .next (if pdOn s 1 && decide (code.val ≠ 0) then
      raise 108 code.val (secUpd (fun v => { v with drbgOn := false, failCode := code.val }) s)
    else s)

/-- ENTROPY_SAMPLES_PASS: 1,024 further samples have passed; the DRBG runs again. -/
def execEntropySamplesPass (s : State) : Out :=
  s.on fun s =>
  .next (if pdOn s 1 && !s.sec.drbgOn then
      secUpd (fun v => { v with drbgOn := true, failCode := 0, drbgReqs := 0, drbgAt := s.now }) s
    else s)

end Sys2Proof.Machine
end

