-- ==== Sys2Proof/Machine/Images.lean ====
section
/-! DEFINITION. Firmware images (R401 to R407, R412 to R414): slots, the slot state, headers, the checks of an image, body
keys, and the slot that each type runs. -/

namespace Sys2Proof.Machine

def imgUpd (f : Img → Img) (s : Chip) : Chip := { s with img := f s.img }

/-- Index of a slot. -/
def slotIx (t : Nat) (b : Bool) : Nat := 2 * t + b2n b
def imgSlot (s : Chip) (t : Nat) (b : Bool) : ImgSlot := s.img.slots.get (slotIx t b)
def slotUpd (t : Nat) (b : Bool) (f : ImgSlot → ImgSlot) (s : Chip) : Chip :=
  imgUpd (fun i => { i with slots := i.slots.upd (slotIx t b) f }) s

/-- Largest body, end of a slot in flash (Table 14.1). -/
def maxBody (t : Nat) : Nat := [786432, 1572864, 12582912, 524288].getD t 0
def slotEnd (t : Nat) (b : Bool) : Nat :=
  if b then [0x00300000, 0x00800000, 0x03000000, 0x00A00000].getD t 0
  else [0x00200000, 0x00600000, 0x02000000, 0x00900000].getD t 0

/-! ## Slot state (R402) -/

/-- The record in force: the later valid one (R11). -/
def slotRec (s : Chip) : SlotRec :=
  if s.img.recB.ok && (!s.img.recA.ok || later 32 s.img.recB.gen s.img.recA.gen) then s.img.recB else s.img.recA

def slotState (s : Chip) (t : Nat) : SlotState := (slotRec s).types.get t

/-- Writes a slot state into the copy not in force. -/
def slotPut (t : Nat) (f : SlotState → SlotState) (s : Chip) : Chip :=
  let r := slotRec s
  let r' : SlotRec := ⟨(r.gen + 1) % 2 ^ 32, true, r.types.upd t f⟩
  if s.img.recB.ok && (!s.img.recA.ok || later 32 s.img.recB.gen s.img.recA.gen) then
    imgUpd (fun i => { i with recA := r' }) s
  else imgUpd (fun i => { i with recB := r' }) s

/-- A trial ends in a fallback (R412, Table 14.4): the trial slot is marked FAILED, the previous slot is in force. -/
def SlotState.fallBack (x : SlotState) : SlotState :=
  { x with trial := false, tries := 0, failA := x.failA || x.inB, failB := x.failB || !x.inB }

/-- Payload of EV_IMAGE_FALLBACK: the type, and whether slot B is now in force. -/
def fallbackPay (t : Nat) (b : Bool) : Nat := pack [(0, 8, t), (8, 1, b2n b)]

/-- Stored anti-rollback counter (R413). -/
def arbOf (s : Chip) (t : Nat) : Nat := (s.img.arb.get t).get 0

/-! ## Headers (R403) -/

def hVersion (h : Bytes) : Nat := rd h 12 4
def hRequires (h : Bytes) (u : Nat) : Nat := rd h (32 + 4 * u) 4
def hSealed (h : Bytes) : Nat := rd h 24 4

/-- Check 3 of Table 14.3. -/
def hdrForm (h : Bytes) : Bool :=
  let t := rd h 5 1
  decide (rd h 0 4 = 0x53494D31) && decide (rd h 4 1 = 1) && decide (rd h 7 1 = 0) && decide (rd h 28 4 = 0) &&
    decide (rd h 181 3 = 0) && decide (rd h 380 4 = 0) &&
    (List.range 4).all fun u => decide (hRequires h u % 65536 = 0 ∧ (u = t → hRequires h u = 0))

/-- Check 4. -/
def hdrPart (h : Bytes) : Bool := decide (rd h 8 2 = 0x9740 ∧ rd h 10 1 ≤ 0xA1 ∧ 0xA1 ≤ rd h 11 1)

/-- Check 5. -/
def hdrSize (h : Bytes) : Bool :=
  let (t, l) := (rd h 5 1, rd h 20 4)
  decide (t ≤ 3 ∧ 1 ≤ l ∧ l ≤ maxBody t ∧ hSealed h = l + 16 * ((l + 65535) / 65536))

/-- Check 6 (R404). -/
def hdrSigner (s : Chip) (h : Bytes) : Bool :=
  let (t, g) := (rd h 5 1, rd h 6 1)
  decide (g = 0) || (decide (g = 1 ∧ 2 ≤ t) && (opKey s).isSome)

/-- Check 7. -/
def hdrSigned (s : Chip) (h : Bytes) : Bool :=
  let key := if rd h 6 1 = 0 then Config.vendorKey else (opKey s).getD []
  Config.p521Verify key (fitB 64 (Config.sha512 (h.take 248))) ((h.drop 248).take 132)

/-- Version `v` satisfies entry `r` (R414). -/
def satisfies (v r : Nat) : Bool := decide (r = 0) || decide (r / 65536 ≤ v / 65536)

/-! ## Slots in force -/

/-- Header of the image in force of a type: the running slot, else the slot in force; none without a valid image. -/
def inForce (s : Chip) (t : Nat) : Option Bytes :=
  match s.img.running.get t with
  | some b => some (imgSlot s t b).header
  | none => none

/-- SYS_VERt: version of the running image. -/
def runVersion (s : Chip) (t : Nat) : Nat := ((inForce s t).map hVersion).getD 0

/-- First failing entry of check 9: the other type, and whose entry failed. -/
def incompatible (s : Chip) (h : Bytes) : Option (Nat × Nat) :=
  let t := rd h 5 1
  (List.range 4).findSome? fun u =>
    if u = t then none
    else if !satisfies (runVersion s u) (hRequires h u) then some (u, 0)
    else match inForce s u with
      | some g => if satisfies (hVersion h) (hRequires g t) then none else some (u, 1)
      | none => none

/-- Step 3's check of a slot (R401, R404, R413, R512): header, signature, digest of the sealed body, anti-rollback. -/
def slotOk (s : Chip) (t : Nat) (b : Bool) : Bool :=
  let sl := imgSlot s t b
  let h := sl.header
  !sl.invalid && hdrForm h && hdrPart h && hdrSize h && decide (rd h 5 1 = t) && hdrSigner s h && hdrSigned s h &&
    decide (sl.body.length = hSealed h) && decide (fitB 64 (Config.sha512 sl.body) = (h.drop 184).take 64) &&
    decide (arbOf s t ≤ rd h 16 4) && s.sys.flashFound && decide (slotEnd t b ≤ 2 ^ s.sys.flashLog2)

/-! ## Bodies (R405, R406) -/

/-- The root that the engine can rebuild now (R407). -/
def rootNow (s : Chip) : Option Bytes :=
  if s.sec.vault = 2 then none
  else if s.sys.debugRoot then some testRoot
  else s.sec.locked.helper.get none

/-- Body key of an image. -/
def bodyKey (s : Chip) (h : Bytes) : Option Bytes :=
  (rootNow s).map fun root =>
    let d := scalarOf (rootDerive root "SC9740 AG" 66 s)
    fitB 32 (Config.hkdf (Config.p521Ecdh d ((h.drop 48).take 133)) (serialBytes s) (ascii "SC9740 IMAGE" ++ [byte (rd h 5 1)]) 32)

/-- Opens sealed segment `i`. -/
def openSeg (key h : Bytes) (i : Nat) (seg : Bytes) : Option Bytes :=
  Config.gcmOpen key (wr 4 (hVersion h) ++ wr 4 i ++ zeros 4) (h.take 48) (seg.take (seg.length - 16)) (seg.drop (seg.length - 16))

/-- The segments of a sealed body. -/
def segments : Nat → Bytes → List Bytes
  | 0, _ => []
  | n + 1, b => if b.isEmpty then [] else b.take 65552 :: segments n (b.drop 65552)

/-- The plaintext of a body; none when a tag fails. -/
def openBody (s : Chip) (h body : Bytes) : Option Bytes :=
  match bodyKey s h with
  | some key =>
    (segments body.length body).zipIdx.foldl (fun acc p =>
      match acc, openSeg key h p.2 p.1 with
      | some l, some m => some (l ++ m)
      | _, _ => none) (some [])
  | none => none

/-- The body in a slot opens: every segment tag holds. In BLANK no root and so no body key exists yet. -/
def bodyOpens (s : Chip) (t : Nat) (b : Bool) : Bool :=
  let sl := imgSlot s t b
  if (rootNow s).isNone && decide (lcNow s = 0) then Config.keylessOpen sl.body
  else (openBody s sl.header sl.body).isSome

/-! ## Registers (R416) -/

/-- SYS_IMG_STATt (Table 14.5). -/
def imgStat (s : Chip) (t : Nat) : Nat :=
  let st := slotState s t
  let runB := (s.img.running.get t).getD st.inB
  let trial := decide (s.img.trialOf = some t)
  pack [(0, 1, b2n runB), (1, 1, b2n (imgSlot s t false).valid), (2, 1, b2n (imgSlot s t true).valid),
    (3, 1, b2n trial), (4, 2, st.tries), (6, 1, b2n (if runB then st.failA else st.failB)),
    (7, 1, b2n (match s.img.session with | some g => decide (g.typ = t) | none => false)),
    (8, 12, if trial then (s.img.confirmDue - s.now) / nsSec else 0)]

/-- Version in the slot that does not run; 0 when it is invalid. -/
def otherVersion (s : Chip) (t : Nat) : Nat :=
  let b := !((s.img.running.get t).getD (slotState s t).inB)
  if (imgSlot s t b).valid then hVersion (imgSlot s t b).header else 0

/-- EV_IMAGE_REJECTED. -/
def raiseRejected (t st : Nat) (s : Chip) : Chip := raise 123 (pack [(0, 8, t), (16, 16, st)]) s

end Sys2Proof.Machine
end

