-- ==== Sys2Proof/Machine/KeyCmds.lean ====
section
/-! DEFINITION. The commands of the security group (R383 to R388, R393, R398 to R400), the end of crypto operations, journal
commits and orphan sweeps. TAMPER_CLEAR stands with the boot, which it resumes. -/

namespace Sys2Proof.Machine

/-! ## Registers (R398) -/

/-- The operation of a command runs: at most 64 at once, at most 8 of them P-521. -/
def opRuns (c : CmdRef) (s : Chip) : Bool :=
  let before := s.sec.ops.takeWhile fun o => o.cmd ≠ c
  match s.sec.ops.find? fun o => o.cmd = c with
  | some o => decide (before.length < 64) && (!o.p521 || decide ((before.filter CryptoOp.p521).length < 8))
  | none => false

/-- Operations that run (IN_FLIGHT). -/
def inFlight (s : Chip) : Nat := (s.sec.ops.filter fun o => opRuns o.cmd s).length

/-- SEC_STAT (Table 13.11). -/
def secStat (s : Chip) : Nat :=
  let v := s.sec
  pack [(0, 3, lcNow s), (3, 3, v.vault), (6, 1, b2n s.sys.debugRoot), (7, 1, b2n (v.locked.debugEn.get false)),
    (8, 1, b2n s.pd0.tampLatch), (9, 1, b2n v.drbgOn), (10, 1, b2n v.inB), (11, 1, b2n v.torn),
    (12, 1, b2n (opKey s).isSome), (13, 7, inFlight s)]

/-- SEC_TAMP_STATn, SEC_TAMP_BASEn (Table 13.12). -/
def tampStat (s : Chip) (n : Nat) : Nat :=
  let p := s.sec.loops.get n
  pack [(0, 16, p.sample), (16, 2, p.cond), (18, 1, b2n (if n = 0 then (tampSet s).enA else (tampSet s).enB))]
def tampBase (s : Chip) (n : Nat) : Nat := if n = 0 then (tampSet s).baseA else (tampSet s).baseB

/-! ## Life-cycle gates and signed commands (R385, R386) -/

/-- What Table 13.7 says of a command in a state. -/
inductive Gate7 where
  | run | signed | refused
deriving DecidableEq, Repr

/-- Table 13.7. -/
def lcGate (op lc : Nat) : Gate7 :=
  if op = 0x0B11 then (if lc ≤ 3 then .signed else .refused)
  else if op = 0x0B12 then (if lc = 1 ∨ lc = 3 then .run else if lc = 2 then .signed else .refused)
  else if op = 0x0B21 ∨ op = 0x0B22 then (if lc = 1 then .run else if lc = 2 then .signed else .refused)
  else if op = 0x0B24 then (if lc = 0 ∨ lc = 1 ∨ lc = 3 then .run else .refused)
  else if (0x0B01 ≤ op ∧ op ≤ 0x0B0A) ∨ op = 0x0B0C then (if 1 ≤ lc ∧ lc ≤ 3 then .run else .refused)
  else .run

/-- ST_SIG_INVALID with its reason, and EV_SIG_FAIL (R385). -/
def sigInvalid (c : CmdRef) (op reason : Nat) (s : Chip) : Chip :=
  complete c stSigInvalid [byte reason] (raise 110 op s)

/-- The signed trailer is verified; its counter is stored before the command runs (R385). `least`: bytes of the shortest
parameters. -/
def signedCmd (c : CmdRef) (m : Cmd) (least : Nat) (f : Bytes → Chip → Chip) (s : Chip) : Chip :=
  let n := m.params.length - 148
  let p := m.params.take n
  let t := m.params.drop n
  if m.params.length < least + 148 then sigInvalid c m.opcode 4 s
  else if t.take 8 ≠ serialBytes s then sigInvalid c m.opcode 1 s
  else if !later 32 (rd t 8 4) (signedCtr s) then sigInvalid c m.opcode 2 s
  else match opKey s with
  | none => sigInvalid c m.opcode 4 s
  | some k =>
    if Config.p521Verify k (fitB 64 (Config.sha512 (wr 2 m.opcode ++ p ++ t.take 16))) ((t.drop 16).take 132) then
      f p (lockedUpd (fun l => { l with ctr := TwoCopy.both (rd t 8 4) }) s)
    else sigInvalid c m.opcode 3 s

/-- A command under Table 13.7: refused, run on its parameters, or run behind its trailer. -/
def gated (c : CmdRef) (m : Cmd) (least : Nat) (f : Bytes → Chip → Chip) (s : Chip) : Chip :=
  match lcGate m.opcode (lcNow s) with
  | .refused => complete c stLifecycle [] s
  | .run => f m.params s
  | .signed => signedCmd c m least f s

/-! ## Crypto operations (R379) -/

/-- The command has an operation or a journal commit under way. -/
def underWay (c : CmdRef) (s : Chip) : Bool :=
  (s.sec.ops.any fun o => o.cmd = c) || s.sec.commits.any fun j => j.cmd = some c

/-- A security command that has not begun its operation runs; while one is under way it waits. -/
def secCmd (c : CmdRef) (op : Nat) (s : Chip) (f : Cmd → Chip → Chip) : Eff :=
  runCmd c op s fun m s => if underWay c s then s else f m s

/-- Submits an operation. -/
def submitOp (c : CmdRef) (p521 : Bool) (hs : List Nat) (s : Chip) : Chip :=
  secUpd (fun v => { v with ops := v.ops ++ [⟨c, p521, hs⟩] }) s

/-- Completion with a status, or on with a key. -/
def withKey (c : CmdRef) (h attr : Nat) (f : Key → Chip → Chip) (s : Chip) : Chip :=
  match keyUse s h attr with
  | .inl st => secDone c st [] s
  | .inr k => f k s

/-- Flags of a creation: PERSIST, EXPORT, TWIN. -/
structure KeyOpts where
  typ : Nat
  attr : Nat
  persist : Bool
  exprt : Bool
  twin : Bool
deriving DecidableEq, Repr

def keyOpts (typ attr flags : Nat) : KeyOpts := ⟨typ, attr, bitOf flags 0, bitOf flags 1, bitOf flags 2⟩

/-- Handles of a creation. -/
def KeyOpts.span (o : KeyOpts) : Nat := if o.twin then 2 else keySpan o.typ

/-- Type and attribute of a creation match (Table 13.3, R374). -/
def KeyOpts.fits (o : KeyOpts) : Bool := if o.twin then decide (o.typ = 0 ∧ o.attr ≤ 1) else attrFits o.typ o.attr

/-- Common checks of a creation, then its operation (R373, R375, R399). `level`: of the new key. -/
def createChecks (c : CmdRef) (o : KeyOpts) (level flagOff : Nat) (drbg p521 : Bool) (hs : List Nat) (s : Chip) : Chip :=
  if level = 2 ∧ !o.persist then badParam c flagOff s
  else if o.persist ∧ 2048 < persistSpan s + o.span then complete c stBusy [] s
  else if drbg && !s.sec.drbgOn then complete c stBusy [] s
  else submitOp c p521 hs (if drbg then drbgTake s else s)

/-- The level below a parent; 0 names the root, whose child takes level 2 (R373). -/
def childLevel (s : Chip) (parent : Nat) : Nat ⊕ Nat :=
  if parent = 0 then (if s.sec.vault ≠ 1 then .inl stTampered else .inr 2)
  else match parentLevel s parent with
    | .inl st => .inl st
    | .inr l => .inr (l + 1)

/-- The new key takes its handles; a persistent one exists at its journal commit (R375). -/
def createKey (c : CmdRef) (o : KeyOpts) (level parent : Nat) (mat : Bytes) (s : Chip) : Chip :=
  match allocRun o.span o.twin s with
  | (none, s) => complete c stBusy [] s
  | (some h, s) =>
    let ks := newKeys h o.typ o.attr level o.persist o.exprt o.twin parent mat
    if o.persist then secUpd (fun v => { v with commits := v.commits ++ [⟨some c, .create ks⟩] }) s
    else complete c stOk (wr 4 h) (secUpd (fun v => { v with keys := v.keys ++ ks }) s)

/-- Material of a type from derived octets. -/
def matFrom (typ : Nat) (okm : Bytes) : Bytes := if typ = 3 then scalarOf okm else okm

/-! ## Starting the commands -/

/-- SEC_STATUS. -/
def execSecStatus (c : CmdRef) (s : State) : Out :=
  s.on fun s =>
  runCmd c 0x0B00 s fun m =>
    checked c (zeroAt m.params 0 4) fun s =>
      complete c stOk (wr 4 (secStat s) ++ wr 4 s.sec.gen ++ wr 4 (usedSpan s) ++ wr 4 (orphSpan s) ++ wr 4 (persistSpan s) ++
        wr 4 (signedCtr s) ++ wr 4 (tampStat s 0) ++ wr 4 (tampStat s 1)) s

/-- KEY_GENERATE. -/
def execKeyGenerate (c : CmdRef) (s : State) : Out :=
  s.on fun s =>
  secCmd c 0x0B01 s fun m =>
    gated c m 0 fun p =>
      let o := keyOpts (rd p 0 1) (rd p 1 1) (rd p 2 1)
      checked c ([ck 0 (o.typ ≤ 3), ck 1 (o.attr ≤ 3 ∧ o.fits)] ++ maskAt p 2 7 ++ zeroAt p 3 1 ++ [ck 6 (rd p 4 4 < 2 ^ 18)]) fun s =>
        match childLevel s (rd p 4 4) with
        | .inl st => secDone c st [] s
        | .inr l => createChecks c o l 2 true (decide (o.typ = 3)) [rd p 4 4] s

/-- KEY_DERIVE. -/
def execKeyDerive (c : CmdRef) (s : State) : Out :=
  s.on fun s =>
  secCmd c 0x0B02 s fun m =>
    gated c m 0 fun p =>
      let o := keyOpts (rd p 0 1) (rd p 1 1) (rd p 2 1)
      checked c ([ck 0 (o.typ ≤ 3), ck 1 (o.attr ≤ 3 ∧ o.fits)] ++ maskAt p 2 7 ++
          [(3, within 1 64 (rd p 3 1)), ck 6 (rd p 4 4 < 2 ^ 18)]) fun s =>
        withKey c (rd p 4 4) 3 (fun k s =>
          if 4 ≤ k.level then secDone c stAttrDenied [] s else createChecks c o (k.level + 1) 2 false false [k.handle] s) s

/-- Descriptor of an import blob. -/
def blobOpts (d : Bytes) : KeyOpts :=
  let (t, f) := (rd d 4 1, rd d 5 1)
  ⟨fld t 0 4, fld t 4 2, bitOf f 3, bitOf f 4, bitOf f 5⟩

/-- Octets of a blob's material: 16 per handle of the named key (R378; DEDUCED, assumption 30). -/
def blobLen (o : KeyOpts) : Nat := 16 * keySpan o.typ

/-- KEY_IMPORT. -/
def execKeyImport (c : CmdRef) (s : State) : Out :=
  s.on fun s =>
  secCmd c 0x0B03 s fun m =>
    gated c m 0 fun p =>
      let o := blobOpts (p.drop 4)
      checked c [ck 2 (rd p 0 4 < 2 ^ 18), ck 8 (o.typ ≤ 4 ∧ o.fits), ck 4 (p.length = 4 + 44 + blobLen o)] fun s =>
        withKey c (rd p 0 4) 2 (fun k s =>
          if 4 ≤ k.level then secDone c stAttrDenied [] s else createChecks c o (k.level + 1) 9 false false [k.handle] s) s

/-- KEY_EXPORT. -/
def execKeyExport (c : CmdRef) (s : State) : Out :=
  s.on fun s =>
  secCmd c 0x0B04 s fun m =>
    gated c m 0 fun p =>
      checked c [ck 2 (rd p 0 4 < 2 ^ 18), ck 6 (rd p 4 4 < 2 ^ 18)] fun s =>
        withKey c (rd p 0 4) 2 (fun w s =>
          match findKey s (rd p 4 4) with
          | none => complete c stNotFound [] s
          | some k =>
            if orphaned 5 s k.handle then complete c stKeyOrphaned [] s
            else if !k.exprt then secDone c stAttrDenied [] s
            else if !s.sec.drbgOn then complete c stBusy [] s
            else submitOp c false [w.handle, k.handle] (drbgTake s)) s

/-- A creation whose commit is pending below a parent of a test. -/
def createsUnder (bad : Nat → Bool) (j : JCommit) : Bool :=
  match j.eff with
  | .create ks => ks.any fun k => bad k.parent
  | _ => false

/-- Operations and pending creations under keys of a test stop; their commands complete with ST_KEY_ORPHANED (R380,
Table 1.11). -/
def stopUnder (bad : Nat → Bool) (s : Chip) : Chip :=
  let ops := s.sec.ops.filter fun o => o.handles.any bad
  let js := s.sec.commits.filter (createsUnder bad)
  forEach (ops.map (fun o => o.cmd) ++ js.filterMap (fun j => j.cmd)) (fun c s => complete c stKeyOrphaned [] s)
    (secUpd (fun v => { v with
      ops := v.ops.filter fun o => !o.handles.any bad
      commits := v.commits.filter fun j => !createsUnder bad j }) s)

/-- What runs under an orphaned key stops (R380). -/
def stopOrphanedOps (s : Chip) : Chip := stopUnder (orphaned 5 s) s

/-- The key and its twin. -/
def twinOf (k : Key) : List Nat :=
  if k.twin then [k.handle - k.handle % 2, k.handle - k.handle % 2 + 1] else [k.handle]

/-- KEY_INVALIDATE (R380, R382). -/
def execKeyInvalidate (c : CmdRef) (s : State) : Out :=
  s.on fun s =>
  secCmd c 0x0B05 s fun m =>
    gated c m 0 fun p =>
      checked c [ck 2 (rd p 0 4 < 2 ^ 18)] fun s =>
        if s.sec.vault ≠ 1 then complete c stTampered [] s
        else match findKey s (rd p 0 4) with
        | none => complete c stNotFound [] s
        | some k =>
          if k.level ≤ 2 then complete c stLifecycle [] s
          else if orphaned 5 s k.handle then complete c stKeyOrphaned [] s
          else
            let n := (descendants s k.handle).length
            let kept := k.persist || (descendants s k.handle).any fun e => e.persist
            let s := secUpd (fun v => { v with
              keys := v.keys.map fun e => if (twinOf k).contains e.handle then { e with st := 1 } else e
              sweeps := v.sweeps ++ [(k.handle, n)] }) s
            let s := stopOrphanedOps s
            if kept then secUpd (fun v => { v with commits := v.commits ++ [⟨some c, .remove k.handle n⟩] }) s
            else complete c stOk (wr 4 n) s

/-- KEY_RECLAIM (R381). -/
def execKeyReclaim (c : CmdRef) (s : State) : Out :=
  s.on fun s =>
  secCmd c 0x0B06 s fun m =>
    gated c m 0 fun p =>
      checked c (zeroAt p 0 4) fun s =>
        let gone := s.sec.keys.filter fun k => orphaned 5 s k.handle
        complete c stOk (wr 4 (spanSum gone)) (secUpd (fun v => { v with
          keys := v.keys.filter fun k => !gone.contains k
          exhausted := v.exhausted.filter fun h => !gone.any fun k => k.handle = h }) s)

/-- KEY_INFO. -/
def execKeyInfo (c : CmdRef) (s : State) : Out :=
  s.on fun s =>
  secCmd c 0x0B07 s fun m =>
    gated c m 0 fun p =>
      checked c [ck 2 (rd p 0 4 < 2 ^ 18)] fun s =>
        match findKey s (rd p 0 4) with
        | none => complete c stNotFound [] s
        | some k => complete c stOk (keyDesc s k) s

/-- KEY_AGREE. -/
def execKeyAgree (c : CmdRef) (s : State) : Out :=
  s.on fun s =>
  secCmd c 0x0B08 s fun m =>
    gated c m 0 fun p =>
      let o := keyOpts (rd p 4 1) (rd p 5 1) (rd p 6 1)
      checked c ([ck 2 (rd p 0 4 < 2 ^ 18), ck 4 (o.typ ≤ 3), ck 5 (o.attr ≤ 3 ∧ o.fits)] ++ maskAt p 6 7 ++ zeroAt p 7 1 ++
          zeroAt p 141 3) fun s =>
        withKey c (rd p 0 4) 3 (fun k s =>
          if k.typ ≠ 3 then badParam c 0 s
          else if !Config.p521On ((p.drop 8).take 133) then badParam c 8 s
          else if 4 ≤ k.level then secDone c stAttrDenied [] s
          else createChecks c o (k.level + 1) 6 false true [k.handle] s) s

/-- SIGN. -/
def execSign (c : CmdRef) (s : State) : Out :=
  s.on fun s =>
  secCmd c 0x0B09 s fun m =>
    gated c m 0 fun p =>
      checked c [ck 2 (rd p 0 4 < 2 ^ 18)] fun s =>
        withKey c (rd p 0 4) 0 (fun k s =>
          if k.typ ≠ 3 then badParam c 0 s
          else if !s.sec.drbgOn then complete c stBusy [] s
          else submitOp c true [k.handle] (drbgTake s)) s

/-- VERIFY. -/
def execVerify (c : CmdRef) (s : State) : Out :=
  s.on fun s =>
  secCmd c 0x0B0A s fun m =>
    gated c m 0 fun p =>
      checked c [ck 2 (rd p 0 4 < 2 ^ 18)] fun s =>
        withKey c (rd p 0 4) 1 (fun k s => if k.typ ≠ 4 then badParam c 0 s else submitOp c true [k.handle] s) s

/-- RANDOM. -/
def execRandom (c : CmdRef) (s : State) : Out :=
  s.on fun s =>
  runCmd c 0x0B0B s fun m =>
    let n := rd m.params 0 2
    checked c (ck 0 (4 ≤ n ∧ n ≤ 4096 ∧ n % 4 = 0) :: zeroAt m.params 2 2) fun s =>
      if !s.sec.drbgOn then complete c stBusy [] s
      else
        let (b, s) := drbgBytes n (drbgTake s)
        complete c stOk b s

/-- ATTEST. -/
def execAttest (c : CmdRef) (s : State) : Out :=
  s.on fun s =>
  secCmd c 0x0B0C s fun m =>
    gated c m 0 fun _ s =>
      withKey c 0x08 0 (fun k s => if !s.sec.drbgOn then complete c stBusy [] s else submitOp c true [k.handle] (drbgTake s)) s

/-- The attestation report without its signature (Table 13.8). -/
def attestBody (nonce : Bytes) (s : Chip) : Bytes :=
  let d := stampTd s
  wr 2 1 ++ wr 2 484 ++ serialBytes s ++ wr 1 (lcNow s) ++ wr 1 (modeNow s) ++
    wr 1 (pack [(0, 1, b2n s.pd0.tampLatch), (1, 1, b2n (decide (s.sec.vault = 2)))]) ++ zeros 1 ++ wr 4 s.pd0.tampCount ++
    wr 4 s.sec.bootCount ++ wr 4 s.sec.gen ++ wr 4 (signedCtr s) ++ (List.range 4).flatMap (fun t => wr 4 (runVersion s t)) ++
    (List.range 4).flatMap (fun t => match inForce s t with
      | some h => fitB 64 ((h.drop 184).take 64)
      | none => zeros 64) ++
    fitB 32 nonce ++ wr 6 d.sec ++ wr 4 d.nsPart ++ wr 1 d.st ++ zeros 5

/-- CAL_EXPORT's result without its signature (Table 3.13). -/
def calExportBody (k : Nat) (s : Chip) : Bytes :=
  let x := calSec s k
  let b := pad4 x.body
  wr 1 k ++ wr 1 x.source ++ wr 2 b.length ++ serialBytes s ++ wr 4 x.gen ++ b

/-! ## Ends (R379, R380, R395) -/

/-- The blob of an exported key (R378). -/
def exportBlob (w k : Key) (s : Chip) : Bytes × Chip :=
  let (iv, s) := drbgBytes 12 s
  let d := keyDesc s k
  let (ct, tag) := Config.gcmSeal w.mat iv d (fitB (16 * keySpan k.typ) k.mat)
  (d ++ iv ++ fitB (16 * keySpan k.typ) ct ++ fitB 16 tag, s)

/-- A signature by a key. -/
def signWith (k : Key) (digest : Bytes) (s : Chip) : Bytes × Chip :=
  (fitB 132 (Config.p521Sign k.mat digest (Config.free s.freeCtr)), { s with freeCtr := s.freeCtr + 1 })

/-- The material that an import opens; none when the tag fails. -/
def importMat (w : Key) (blob : Bytes) : Option Bytes :=
  let n := blob.length
  Config.gcmOpen w.mat ((blob.drop 16).take 12) (blob.take 16) ((blob.drop 28).take (n - 44)) (blob.drop (n - 16))

/-- What the end of a command's operation does. -/
def finishOp (c : CmdRef) (m : Cmd) (s : Chip) : Chip :=
  let p := m.params
  match m.opcode with
  | 0x0B01 =>
    let o := keyOpts (rd p 0 1) (rd p 1 1) (rd p 2 1)
    (match childLevel s (rd p 4 4) with
      | .inl st => secDone c st [] s
      | .inr l =>
        let (b, s) := drbgBytes (matLen o.typ) s
        createKey c o l (rd p 4 4) (matFrom o.typ b) s)
  | 0x0B02 =>
    let o := keyOpts (rd p 0 1) (rd p 1 1) (rd p 2 1)
    withKey c (rd p 4 4) 3 (fun k s =>
      let okm := Config.hkdf k.mat Config.deriveSalt ((p.drop 8).take (rd p 3 1)) (matLen o.typ)
      createKey c o (k.level + 1) k.handle (matFrom o.typ okm) s) s
  | 0x0B03 =>
    withKey c (rd p 0 4) 2 (fun w s =>
      match importMat w (p.drop 4) with
      | some mat => createKey c (blobOpts (p.drop 4)) (w.level + 1) w.handle mat s
      | none => secDone c stAttrDenied [] s) s
  | 0x0B04 =>
    withKey c (rd p 0 4) 2 (fun w s =>
      match findKey s (rd p 4 4) with
      | some k =>
        let (b, s) := exportBlob w k s
        complete c stOk b s
      | none => complete c stNotFound [] s) s
  | 0x0B08 =>
    let o := keyOpts (rd p 4 1) (rd p 5 1) (rd p 6 1)
    withKey c (rd p 0 4) 3 (fun k s =>
      let x := Config.p521Ecdh k.mat ((p.drop 8).take 133)
      let okm := Config.hkdf x (serialBytes s) (ascii "SC9740 WRAP") (matLen o.typ)
      createKey c o (k.level + 1) k.handle (matFrom o.typ okm) s) s
  | 0x0B09 =>
    withKey c (rd p 0 4) 0 (fun k s =>
      let (g, s) := signWith k ((p.drop 4).take 64) s
      complete c stOk g s) s
  | 0x0B0A =>
    withKey c (rd p 0 4) 1 (fun k s =>
      complete c stOk (wr 4 (b2n (Config.p521Verify k.mat ((p.drop 4).take 64) ((p.drop 68).take 132)))) s) s
  | 0x0F10 =>
    withKey c 0x08 0 (fun k s =>
      let b := calExportBody (rd p 0 1) s
      let (g, s) := signWith k (fitB 64 (Config.sha512 b)) s
      complete c stOk (b ++ g) s) s
  | _ =>
    withKey c 0x08 0 (fun k s =>
      let b := attestBody p s
      let (g, s) := signWith k (fitB 64 (Config.sha512 b)) s
      complete c stOk (b ++ g) s) s

/-- CRYPTO_OP_COMPLETE (R379). -/
def execCryptoOpComplete (c : CmdRef) (s : State) : Out :=
  s.on fun s =>
  .next (match findCmd c s with
    | some m =>
      if opRuns c s then finishOp c m (secUpd (fun v => { v with ops := v.ops.filter fun o => o.cmd ≠ c }) s) else s
    | none => s)

/-- JOURNAL_COMMIT_DONE: the oldest commit takes effect (R375, R380, R395). -/
def execJournalCommitDone (s : State) : Out :=
  s.on fun s =>
  .next (match s.sec.commits with
    | [] => s
    | j :: rest =>
      let s := secUpd (fun v => { v with commits := rest }) s
      let done := fun (st : Nat) (res : Bytes) (s : Chip) => match j.cmd with
        | some c => complete c st res s
        | none => s
      match j.eff with
      | .create ks =>
        done stOk (wr 4 ((ks.head?.map Key.handle).getD 0)) (jWrite (secUpd (fun v => { v with keys := v.keys ++ ks }) s))
      | .remove _ n => done stOk (wr 4 n) (jWrite s)
      | .boot => jWrite (secUpd (fun v => { v with bootCount := (v.bootCount + 1) % 2 ^ 32 }) s))


/-- ORPHAN_SWEEP_END: the oldest sweep has zeroised the key and its descendants, and marks them (R380). -/
def execOrphanSweepEnd (s : State) : Out :=
  s.on fun s =>
  .next (match s.sec.sweeps with
    | [] => s
    | (h, n) :: rest =>
      let hit := (s.sec.keys.filter fun k => orphaned 5 s k.handle && below 5 s h k.handle).map Key.handle
      let twin := if (match findKey s h with | some k => k.twin | none => false) then [h - h % 2, h - h % 2 + 1] else []
      raise 106 (pack [(0, 18, h), (32, 32, n)]) (secUpd (fun v => { v with
        sweeps := rest
        keys := v.keys.map fun k =>
          if hit.contains k.handle || twin.contains k.handle then { k with st := 1, mat := zeros k.mat.length } else k }) s))

/-! ## Reading and the locked region -/

/-- PUBLIC_READ. -/
def execPublicRead (c : CmdRef) (s : State) : Out :=
  s.on fun s =>
  runCmd c 0x0B0D s fun m =>
    checked c [ck 2 (rd m.params 0 4 < 2 ^ 18)] fun s =>
      if s.sec.vault ≠ 1 then complete c stTampered [] s
      else match findKey s (rd m.params 0 4) with
      | none => complete c stNotFound [] s
      | some k =>
        if orphaned 5 s k.handle then complete c stKeyOrphaned [] s
        else if k.typ ≠ 4 then badParam c 0 s
        else complete c stOk (fitB 133 k.mat) s

/-- TAMPER_LOG_READ. -/
def execTamperLogRead (c : CmdRef) (s : State) : Out :=
  s.on fun s =>
  runCmd c 0x0B10 s fun m =>
    checked c (ck 0 (rd m.params 0 1 ≤ 31) :: zeroAt m.params 1 3) fun s =>
      let l := s.pd0.tampLog.drop (rd m.params 0 1)
      complete c stOk (wr 1 l.length ++ wr 1 (b2n s.pd0.tampOver) ++ zeros 2 ++ wr 4 s.pd0.tampCount ++ l.flatten) s

/-- A loop's mean lies within 1–50 kΩ, in units of 10 Ω. -/
def loopGood (r : Nat) : Bool := within 100 5000 r

/-- A loop's baseline: the mean of 64 samples (R389), rounded down (DEDUCED, assumption 82). -/
def loopMean (l : List Nat) : Nat := sumN l / 64

/-- TAMPER_ARM, with the 64 samples of each loop that it takes, in 10 Ω (R389, R400). -/
def execTamperArm (c : CmdRef) (loopA loopB : List Nat) (s : State) : Out :=
  if loopA.length ≠ 64 ∨ loopB.length ≠ 64 then .fault .illFormed
  else s.on fun s =>
  let meanA := loopMean loopA
  let meanB := loopMean loopB
  secCmd c 0x0B12 s fun m =>
    gated c m 4 fun p =>
      let b := rd p 0 1
      checked c (maskAt p 0 7 ++ [(1, within 1 50 (rd p 1 1))] ++ zeroAt p 2 2) fun s =>
        if (bitOf b 0 && !loopGood meanA) || (bitOf b 1 && !loopGood meanB) then badParam c 0 s
        else
          let t : TampSet := ⟨bitOf b 0, bitOf b 1, bitOf b 2, rd p 1 1, if bitOf b 0 then meanA else 0, if bitOf b 1 then meanB else 0⟩
          complete c stOk (wr 2 t.baseA ++ wr 2 t.baseB)
            (secUpd (fun v => { v with loops := v.loops.updAll 2 fun _ l => { l with cond := 0, row := 0 } }) (lockedUpd (fun l => { l with tamper := TwoCopy.both t }) s))

/-- The transition exists (Table 13.6), and whether it is signed. -/
def lcMove (a b : Nat) : Option Bool :=
  if a = 1 ∧ b = 2 ∨ a = 2 ∧ b = 3 ∨ a = 2 ∧ b = 4 then some true
  else if a = 3 ∧ b = 1 ∨ (a = 0 ∨ a = 1 ∨ a = 3) ∧ b = 4 then some false
  else none

/-- Effects of a transition (Table 13.6, R384). -/
def lcEffects (b : Nat) (s : Chip) : Chip :=
  if b = 2 then lockedUpd (fun l => { l with debugEn := TwoCopy.both false }) s
  else if b = 3 then
    let s := secUpd (fun v => { v with keys := v.keys.filter fun k => k.level ≤ 1, sweeps := [] }) s
    jWrite (lockedUpd (fun l => { l with opKey := TwoCopy.both none }) s)
  else if b = 4 then
    secUpd (fun v => { v with vault := 0, root := none, keys := [], sweeps := [], gen := 0, inB := false
                              slots := (v.slots.set 0 none).set 1 none })
      (lockedUpd (fun l => { l with helper := TwoCopy.both none }) s)
  else s

/-- A handle names a key that is gone; handle 0 names the root. -/
def handleGone (s : Chip) (h : Nat) : Bool := if h = 0 then s.sec.root.isNone else (findKey s h).isNone

/-- Commands whose keys a transition has destroyed end as orphaned (R380, R384). -/
def lcDrain (s : Chip) : Chip := stopUnder (handleGone s) s

/-- LIFECYCLE_SET (R383, R384). -/
def execLifecycleSet (c : CmdRef) (s : State) : Out :=
  s.on fun s =>
  secCmd c 0x0B20 s fun m s =>
    let (a, b) := (lcNow s, rd m.params 0 1)
    let go := fun (p : Bytes) => checked c (zeroAt p 1 3) fun s =>
      if b = 2 ∧ s.sys.debugRoot then complete c stLifecycle [] s
      else complete c stOk (wr 1 a ++ wr 1 b ++ zeros 2)
        (lcDrain (raise 107 (pack [(0, 8, a), (8, 8, b)]) (lcEffects b (setLc b s))))
    match lcMove a b with
    | none => complete c stLifecycle [] s
    | some true => signedCmd c m 4 go s
    | some false => go m.params s

/-- OPERATOR_KEY_SET (R382, R400). -/
def execOperatorKeySet (c : CmdRef) (s : State) : Out :=
  s.on fun s =>
  secCmd c 0x0B21 s fun m =>
    gated c m 136 fun p =>
      let pt := fitB 133 p
      checked c (zeroAt p 133 3) fun s =>
        if !Config.p521On pt then badParam c 0 s
        else
          let s := lockedUpd (fun l => { l with opKey := TwoCopy.both (some pt) }) s
          let k : Key := ⟨0x34, 4, 1, 2, false, false, false, 0, 0, 0, 0, pt⟩
          complete c stOk [] (if s.sec.vault = 1 then
            secUpd (fun v => { v with keys := v.keys.filter (fun e => e.handle ≠ 0x34) ++ [k] }) s else s)

/-- CERT_SET. -/
def execCertSet (c : CmdRef) (s : State) : Out :=
  s.on fun s =>
  secCmd c 0x0B22 s fun m =>
    gated c m (4 + (rd m.params 0 2 + 3) / 4 * 4) fun p =>
      let n := rd p 0 2
      checked c (ck 0 (1 ≤ n ∧ n ≤ 4096 ∧ 4 + n ≤ p.length) :: zeroAt p 2 2) fun s =>
        if lcNow s = 2 then complete c stLifecycle [] s
        else complete c stOk [] (lockedUpd (fun l => { l with cert := TwoCopy.both ((p.drop 4).take n) }) s)

/-- CERT_READ. -/
def execCertRead (c : CmdRef) (s : State) : Out :=
  s.on fun s =>
  runCmd c 0x0B23 s fun m =>
    checked c (zeroAt m.params 0 4) fun s =>
      let d := s.sec.locked.cert.get []
      complete c stOk (wr 2 d.length ++ zeros 2 ++ d) s

/-- DEBUG_SET (R387). -/
def execDebugSet (c : CmdRef) (s : State) : Out :=
  s.on fun s =>
  secCmd c 0x0B24 s fun m =>
    gated c m 0 fun p =>
      checked c (maskAt p 0 1 ++ zeroAt p 1 3) fun s =>
        complete c stOk (wr 1 (b2n s.sys.debugRoot) ++ zeros 3)
          (lockedUpd (fun l => { l with debugEn := TwoCopy.both (bitOf (rd p 0 1) 0) }) s)

end Sys2Proof.Machine
end

