-- ==== Sys2Proof/Machine/Iphc.lean ====
section
/-! DEFINITION. IPv6 and UDP octets, and IPHC decompression and compression with the contexts FRM_CTXn (R294, R295, RFC 6282). -/

namespace Sys2Proof.Machine

/-! ## Network order -/

/-- Big-endian value of octets, and `n` octets of a value. -/
def netNat (b : Bytes) : Nat := b.foldl (fun a x => 256 * a + x.toNat) 0
def netBytes (n v : Nat) : Bytes := (wr n v).reverse
def netRd (b : Bytes) (off n : Nat) : Nat := netNat ((b.drop off).take n)

/-- One's complement sum of 16-bit words, folded (RFC 1071). -/
def onesSum : Bytes → Nat
  | a :: b :: l => a.toNat * 256 + b.toNat + onesSum l
  | [a] => a.toNat * 256
  | [] => 0

/-- Folds carries into 16 bits. -/
def fold16 (v : Nat) : Nat :=
  let f := fun (x : Nat) => x % 65536 + x / 65536
  f (f (f v))

/-- UDP checksum of a datagram between two addresses, with its own checksum field at zero (RFC 8200). -/
def udpSum (src dst dgram : Bytes) : Nat :=
  let c := 65535 - fold16 (onesSum (src ++ dst ++ netBytes 4 dgram.length ++ [0, 0, 0, 17] ++ dgram))
  if c = 0 then 65535 else c

/-- An IPv6 header and its payload. -/
def ipv6 (tc flow next hop : Nat) (src dst payload : Bytes) : Bytes :=
  netBytes 4 (6 * 2 ^ 28 + tc % 256 * 2 ^ 20 + flow % 2 ^ 20) ++ netBytes 2 payload.length ++ [byte next, byte hop] ++
    src ++ dst ++ payload

/-- A UDP datagram with its checksum. -/
def udp (sport dport : Nat) (src dst body : Bytes) : Bytes :=
  let h := fun (c : Nat) => netBytes 2 sport ++ netBytes 2 dport ++ netBytes 2 (8 + body.length) ++ netBytes 2 c ++ body
  h (udpSum src dst (h 0))

/-- Fields of an IPv6 packet. -/
def ipSrc (p : Bytes) : Bytes := (p.drop 8).take 16
def ipDst (p : Bytes) : Bytes := (p.drop 24).take 16
def ipNext (p : Bytes) : Nat := rd p 6 1

/-- An interface identifier from an EUI-64, and back: the U/L bit inverted (RFC 4291). -/
def iidOf (eui : BitVec 64) : Bytes := netBytes 8 (eui.toNat ^^^ 2 ^ 57)
def euiOfIid (iid : Bytes) : BitVec 64 := BitVec.ofNat 64 (netNat iid ^^^ 2 ^ 57)

/-! ## Contexts (R304) -/

/-- FRM_CTXn: prefix as a 128-bit number, its bits beyond the length ignored, and its length. -/
def frmCtx (s : Chip) (n : Nat) : Nat × Nat :=
  let f := fun k => cfgGet s 0x0801 (0x100 + 8 * n + k)
  let low := 2 ^ (128 - min 128 (f 4))
  ((f 0 * 2 ^ 96 + f 1 * 2 ^ 64 + f 2 * 2 ^ 32 + f 3) / low * low, min 128 (f 4))

/-- An address whose bits the context covers come from it, the others from `rest` (RFC 6282, 3.1.1). -/
def withCtx (c : Nat × Nat) (rest : Nat) : Bytes :=
  netBytes 16 (c.1 + rest % 2 ^ (128 - c.2))

/-! ## Decompression -/

/-- A reader: what is left, or nothing where the octets have run out. -/
def takeN (n : Nat) (b : Bytes) : Option (Bytes × Bytes) := if b.length < n then none else some (b.take n, b.drop n)

/-- Traffic class and flow label. -/
def rdTf (tf : Nat) (b : Bytes) : Option (Nat × Nat × Bytes) :=
  let tc := fun (v : Nat) => v % 64 * 4 + v / 64
  match tf with
  | 0 => (takeN 4 b).map fun x => (tc (netRd x.1 0 1), netRd x.1 1 3 % 2 ^ 20, x.2)
  | 1 => (takeN 3 b).map fun x => (netRd x.1 0 1 / 64, netRd x.1 0 3 % 2 ^ 20, x.2)
  | 2 => (takeN 1 b).map fun x => (tc (netRd x.1 0 1), 0, x.2)
  | _ => some (0, 0, b)

/-- A unicast address: stateless or by context; `iid` is the identifier that the MAC address gives. -/
def rdAddr (ctx : Option (Nat × Nat)) (mode : Nat) (iid : Bytes) (b : Bytes) : Option (Bytes × Bytes) :=
  let join := fun (low : Nat) => match ctx with
    | some c => withCtx c low
    | none => netBytes 16 (0xFE80 * 2 ^ 112 + low)
  match mode with
  | 0 => takeN 16 b
  | 1 => (takeN 8 b).map fun x => (join (netNat x.1), x.2)
  | 2 => (takeN 2 b).map fun x => (join (0x000000FFFE000000 + netNat x.1), x.2)
  | _ => some (join (netNat iid), b)

/-- A multicast address. -/
def rdMulti (ctx : Option (Nat × Nat)) (mode : Nat) (b : Bytes) : Option (Bytes × Bytes) :=
  match ctx with
  | some c =>
    if mode = 0 then
      (takeN 6 b).map fun x => (0xFF :: x.1.take 2 ++ [byte c.2] ++ netBytes 8 (c.1 / 2 ^ 64) ++ x.1.drop 2, x.2)
    else none
  | none =>
    match mode with
    | 0 => takeN 16 b
    | 1 => (takeN 6 b).map fun x => (0xFF :: x.1.take 1 ++ zeros 9 ++ x.1.drop 1, x.2)
    | 2 => (takeN 4 b).map fun x => (0xFF :: x.1.take 1 ++ zeros 11 ++ x.1.drop 1, x.2)
    | _ => (takeN 1 b).map fun x => (0xFF :: 0x02 :: zeros 13 ++ x.1, x.2)

/-- NHC for UDP: the ports, whether the checksum is elided, and the rest. -/
def rdPorts (pp : Nat) (b : Bytes) : Option (Nat × Nat × Bytes) :=
  match pp with
  | 0 => (takeN 4 b).map fun x => (netRd x.1 0 2, netRd x.1 2 2, x.2)
  | 1 => (takeN 3 b).map fun x => (netRd x.1 0 2, 0xF000 + netRd x.1 2 1, x.2)
  | 2 => (takeN 3 b).map fun x => (0xF000 + netRd x.1 0 1, netRd x.1 1 2, x.2)
  | _ => (takeN 1 b).map fun x => (0xF0B0 + netRd x.1 0 1 / 16, 0xF0B0 + netRd x.1 0 1 % 16, x.2)

/-- A UDP datagram behind its NHC octet. -/
def rdUdp (src dst : Bytes) (b : Bytes) : Option Bytes := do
  let (h, b) ← takeN 1 b
  let v := netNat h
  if v / 8 ≠ 0b11110 then none
  else
    let (sp, dp, b) ← rdPorts (v % 4) b
    if v / 4 % 2 = 1 then some (udp sp dp src dst b)
    else
      let (c, b) ← takeN 2 b
      some (netBytes 2 sp ++ netBytes 2 dp ++ netBytes 2 (8 + b.length) ++ c ++ b)

/-- Decompresses an IPHC payload (dispatch 011); none for a form that is not supported (R294). -/
def iphcOpen (s : Chip) (srcIid dstIid : Bytes) (b : Bytes) : Option Bytes := do
  let (h, b) ← takeN 2 b
  let (v, w) := (netRd h 0 1, netRd h 1 1)
  if v / 32 ≠ 0b011 then none
  else
    let (ids, b) ← if w / 128 = 1 then (takeN 1 b).map (fun x => (netNat x.1, x.2)) else some (0, b)
    let (tc, flow, b) ← rdTf (v / 8 % 4) b
    let (next, b) ← if v / 4 % 2 = 1 then some (17, b) else (takeN 1 b).map (fun x => (netNat x.1, x.2))
    let (hop, b) ← match v % 4 with
      | 0 => (takeN 1 b).map (fun x => (netNat x.1, x.2))
      | 1 => some (1, b)
      | 2 => some (64, b)
      | _ => some (255, b)
    let sctx := if w / 64 % 2 = 1 then some (frmCtx s (ids / 16)) else none
    let dctx := if w / 4 % 2 = 1 then some (frmCtx s (ids % 16)) else none
    let (src, b) ← if w / 64 % 2 = 1 ∧ w / 16 % 4 = 0 then some (zeros 16, b) else rdAddr sctx (w / 16 % 4) srcIid b
    let (dst, b) ← if w / 8 % 2 = 1 then rdMulti dctx (w % 4) b
      else if dctx.isSome ∧ w % 4 = 0 then none else rdAddr dctx (w % 4) dstIid b
    let body ← if v / 4 % 2 = 1 then rdUdp src dst b else some b
    some (ipv6 tc flow next hop src dst body)

/-! ## Compression (R295) -/

/-- One of the forms that RFC 6282 admits for part `k` of a header; the specification does not say which (DESIGN CHOICE, assumption
56). -/
def pickForm {α : Type} (k : Nat) (l : List α) : Option α := l[Config.iphcForm k % max 1 l.length]?

/-- Forms of traffic class and flow label: TF, octets. -/
def tfForms (tc flow : Nat) : List (Nat × Bytes) :=
  let v := tc % 4 * 64 + tc / 4
  [(0, byte v :: netBytes 3 flow)] ++ (if tc < 4 then [(1, netBytes 3 (tc * 2 ^ 22 + flow))] else []) ++
    (if flow = 0 then [(2, [byte v])] else []) ++ (if tc = 0 ∧ flow = 0 then [(3, [])] else [])

/-- Forms of the hop limit: HLIM, octets. -/
def hopForms (hop : Nat) : List (Nat × Bytes) :=
  [(0, [byte hop])] ++ (if hop = 1 then [(1, [])] else if hop = 64 then [(2, [])] else if hop = 255 then [(3, [])] else [])

/-- A compressed address: AC, context, AM, octets. -/
structure AddrForm where
  ac : Bool
  ctx : Nat
  am : Nat
  octets : Bytes
deriving DecidableEq, Repr

/-- Forms of a unicast address, each of which expands to it; `iid` is the identifier that the MAC address gives. -/
def uniForms (s : Chip) (iid a : Bytes) : List AddrForm :=
  let short := fun (ac : Bool) (n : Nat) =>
    ([⟨ac, n, 1, a.drop 8⟩, ⟨ac, n, 2, a.drop 14⟩, ⟨ac, n, 3, []⟩] : List AddrForm).filter fun f =>
      decide (rdAddr (if ac then some (frmCtx s n) else none) f.am iid f.octets = some (a, []))
  ⟨false, 0, 0, a⟩ :: short false 0 ++ (List.range 16).flatMap (short true)

/-- Forms of a source address: the unspecified address has one more. -/
def srcForms (s : Chip) (iid a : Bytes) : List AddrForm := uniForms s iid a ++ (if a = zeros 16 then [⟨true, 0, 0, []⟩] else [])

/-- Forms of a multicast address. -/
def multiForms (s : Chip) (a : Bytes) : List AddrForm :=
  let hi := (a.drop 1).take 1
  ([⟨false, 0, 0, a⟩, ⟨false, 0, 1, hi ++ a.drop 11⟩, ⟨false, 0, 2, hi ++ a.drop 13⟩, ⟨false, 0, 3, a.drop 15⟩] ++
    (List.range 16).map fun n => ⟨true, n, 0, (a.drop 1).take 2 ++ a.drop 12⟩ : List AddrForm).filter fun f =>
      decide (rdMulti (if f.ac then some (frmCtx s f.ctx) else none) f.am f.octets = some (a, []))

/-- Forms of the UDP ports: PP, octets. -/
def portForms (sp dp : Nat) : List (Nat × Bytes) :=
  [(0, netBytes 2 sp ++ netBytes 2 dp)] ++ (if dp / 256 = 0xF0 then [(1, netBytes 2 sp ++ [byte dp])] else []) ++
    (if sp / 256 = 0xF0 then [(2, byte sp :: netBytes 2 dp)] else []) ++
    (if sp / 16 = 0xF0B ∧ dp / 16 = 0xF0B then [(3, [byte (sp % 16 * 16 + dp % 16)])] else [])

/-- UDP under NHC: the checksum goes inline, never elided (R295). -/
def packUdp (u : Bytes) : Bytes :=
  let p := (pickForm 4 (portForms (netRd u 0 2) (netRd u 2 2))).getD (0, u.take 4)
  byte (0b11110000 + p.1) :: p.2 ++ (u.drop 6).take 2 ++ u.drop 8

/-- An IPv6 packet under IPHC, with NHC where its next header is UDP (RFC 6282, R295). -/
def iphcPack (s : Chip) (srcIid dstIid pkt : Bytes) : Bytes :=
  let (tc, flow, nh, hop) := (netRd pkt 0 2 / 16 % 256, netRd pkt 0 4 % 2 ^ 20, ipNext pkt, rd pkt 7 1)
  let (src, dst, body) := (ipSrc pkt, ipDst pkt, pkt.drop 40)
  let nhc := decide (nh = 17 ∧ 8 ≤ body.length)
  let multi := decide (dst.getD 0 0 = 0xFF)
  let tf := (pickForm 0 (tfForms tc flow)).getD (3, [])
  let hl := (pickForm 1 (hopForms hop)).getD (0, [])
  let sa := (pickForm 2 (srcForms s srcIid src)).getD ⟨false, 0, 0, src⟩
  let da := (pickForm 3 (if multi then multiForms s dst else uniForms s dstIid dst)).getD ⟨false, 0, 0, dst⟩
  let cid := decide (sa.ctx ≠ 0 ∨ da.ctx ≠ 0)
  [byte (0b01100000 + 8 * tf.1 + 4 * b2n nhc + hl.1),
   byte (128 * b2n cid + 64 * b2n sa.ac + 16 * sa.am + 8 * b2n multi + 4 * b2n da.ac + da.am)] ++
  (if cid then [byte (16 * sa.ctx + da.ctx)] else []) ++ tf.2 ++ (if nhc then [] else [byte nh]) ++ hl.2 ++ sa.octets ++ da.octets ++
  (if nhc then packUdp body else body)

end Sys2Proof.Machine
end

