-- ==== Sys2Proof/Machine/NodeStore.lean ====
section
/-! DEFINITION. The node store (R279 to R283, R288 to R292, R303, R306 to R309): buckets, entries, learning, coincidence groups,
ageing, and the node commands. -/

namespace Sys2Proof.Machine

def feUpd (f : Fe → Fe) (s : Chip) : Chip := { s with fe := f s.fe }

/-- Fields of the frame engine, node store and forwarding records. -/
def frmCfg (s : Chip) (id : Nat) : Nat := cfgGet s 0x0801 id
def nodeCfg (s : Chip) (id : Nat) : Nat := cfgGet s 0x0901 id
def fwdCfg (s : Chip) (id : Nat) : Nat := cfgGet s 0x0A01 id

/-- Addresses of the counters of Table 10.7 and of FWD_CNT. -/
def nodeCnt (off : Nat) : Nat := 0x090010 + off
def fwdCnt (off : Nat) : Nat := 0x0A0010 + off

/-! ## Entries (R279, R280, R283) -/

/-- Octets of an EUI-64, first octet first. -/
def euiBytes (e : BitVec 64) : Bytes := netBytes 8 e.toNat

/-- Bucket of a node. -/
def bucketOf (s : Chip) (e : BitVec 64) : Nat := crc32c (wr 4 (nodeCfg s 1) ++ euiBytes e) % 32768

/-- Valid entry at an index. -/
def nodeAt (s : Chip) (i : Nat) : Option NodeEnt := lookupIn s.fe.nodes i

/-- Index and entry of a node. -/
def findNode (s : Chip) (e : BitVec 64) : Option (Nat × NodeEnt) :=
  let b := 4 * bucketOf s e
  [b, b + 1, b + 2, b + 3].findSome? fun i =>
    match nodeAt s i with
    | some n => if n.eui = e then some (i, n) else none
    | none => none

/-- Index and entry that the short map gives. -/
def findShort (s : Chip) (a : Nat) : Option (Nat × NodeEnt) :=
  match lookupIn s.fe.shorts a with
  | some i => (nodeAt s i).map fun n => (i, n)
  | none => none

/-- Writes an entry. -/
def nodePut (i : Nat) (n : NodeEnt) (s : Chip) : Chip := feUpd (fun f => { f with nodes := insertIn f.nodes i n }) s

/-- Removes an entry; its word of the short map becomes invalid (R283). -/
def nodeDrop (i : Nat) (s : Chip) : Chip :=
  feUpd (fun f => { f with nodes := f.nodes.filter fun e => e.1 ≠ i, shorts := f.shorts.filter fun e => e.2 ≠ i }) s

/-- Removes every word of the short map that names an entry, then names it under `a` unless `a` is 0xFFFF. -/
def shortPut (i a : Nat) (s : Chip) : Chip :=
  feUpd (fun f =>
    let l := f.shorts.filter fun e => e.2 ≠ i
    { f with shorts := if a = 0xFFFF then l else insertIn l a i }) s

/-- A learned entry as creation leaves it. -/
def NodeEnt.fresh (e : BitVec 64) (key : Nat) : NodeEnt where
  eui := e
  short := 0xFFFF
  hit := false
  marked := false
  prov := false
  locValid := false
  aged := false
  secReq := false
  rplValid := false
  groupOpen := false
  cls := 0
  locA := 0
  locB := 0
  netid := 0
  rssi := 0
  margin := 0
  locNs := 0
  lastNs := 0
  key := key
  rxCtr := 0
  txCtr := 0
  parent := 0
  pathExp := 0
  pathSeq := 0
  depth := 0
  moveS := 0
  grpNs := 0
  pend := ⟨0, 0, 0, 0⟩
  grpAt := 0

/-- Bytes of an entry (Table 10.1). -/
def NodeEnt.bytes (n : NodeEnt) : Bytes :=
  euiBytes n.eui ++ wr 2 n.short ++
    wr 1 (pack [(0, 1, 1), (1, 1, b2n n.hit), (2, 1, b2n n.marked), (3, 1, b2n n.prov), (4, 1, b2n n.locValid),
      (5, 1, b2n n.secReq), (6, 1, b2n n.rplValid), (7, 1, b2n n.groupOpen)]) ++
    wr 1 n.cls ++ wr 1 n.locA ++ wr 1 n.locB ++ wr 2 n.netid ++ wr 2 (ofS 16 n.rssi) ++ wr 2 (ofS 16 n.margin) ++
    wr 4 n.locNs ++ wr 4 n.lastNs ++ wr 4 n.key ++ wr 4 n.rxCtr ++ wr 4 n.txCtr ++ euiBytes n.parent ++ wr 4 n.pathExp ++
    wr 1 n.pathSeq ++ wr 1 n.depth ++ wr 2 n.moveS ++ wr 4 n.grpNs ++ wr 4 (n.pend.loc % 65536 + ofS 16 n.pend.margin * 65536)

/-- LOC_A and LOC_B of an observation. -/
def Obs.locA (o : Obs) : Nat := fld o.loc 0 8
def Obs.locB (o : Obs) : Nat := fld o.loc 8 4 + 16 * fld o.loc 12 2 + 64 * fld o.loc 14 2

/-- PORT, CHANNEL, FAMILY, MODE and BW of an entry's location. -/
def NodeEnt.port (n : NodeEnt) : Nat := fld n.locB 6 2
def NodeEnt.channel (n : NodeEnt) : Nat := fld n.locA 0 7
def NodeEnt.fsk (n : NodeEnt) : Bool := bitOf n.locA 7
def NodeEnt.mode (n : NodeEnt) : Nat := fld n.locB 0 4
def NodeEnt.bw (n : NodeEnt) : Nat := fld n.locB 4 2

/-- Key handle of an entry. -/
def NodeEnt.handle (n : NodeEnt) : Nat := fld n.key 0 18

/-! ## Groups (R289) -/

/-- COINCIDE_WINDOW, COINCIDE_SLACK in ns. -/
def coWindow (s : Chip) : Nat := nodeCfg s 4 * nsMs
def coSlack (s : Chip) : Nat := nodeCfg s 5 * nsMs

/-- extend(s, r) of R270. -/
def extendNs (w : Nat) (r : Nat) : Nat :=
  let base : Int := (r : Int) + 2 ^ 20 - 2 ^ 32
  (base + ((w : Int) - base) % 2 ^ 32).toNat

/-- TU seconds of the stamping domain. -/
def tuSec (s : Chip) : Nat := (stampTd s).sec

/-- The group of an entry closes: PEND may become the location; EV_NODE_MOVE at most once per 10 s. -/
def closeGroup (i : Nat) (n : NodeEnt) (s : Chip) : Chip :=
  let same := n.locValid && decide (n.locA = n.pend.locA ∧ n.locB = n.pend.locB ∧ n.netid = n.pend.netid)
  let n' := { n with groupOpen := false, margin := n.pend.margin }
  if same then nodePut i n' s
  else
    let n' := { n' with locA := n.pend.locA, locB := n.pend.locB, netid := n.pend.netid, locNs := n.pend.ns, locValid := true, aged := false }
    let s := bump (nodeCnt 0x08) 1 s
    let now := tuSec s % 65536
    if (now + 65536 - n.moveS) % 65536 < 10 then nodePut i n' s
    else raise 73 n.eui.toNat (nodePut i { n' with moveS := now } s)

/-- An observation opens a group. -/
def NodeEnt.open (n : NodeEnt) (o : Obs) (s : Chip) : NodeEnt :=
  { n with groupOpen := true, grpNs := o.ns, pend := o, grpAt := extendNs o.ns (stampTd s).ns }

/-- The stamp lies within the window of the group's first observation. -/
def inWindow (s : Chip) (n : NodeEnt) (ns : Nat) : Bool :=
  decide ((ns + 2 ^ 32 - n.grpNs) % 2 ^ 32 ≤ coWindow s) || decide ((n.grpNs + 2 ^ 32 - ns) % 2 ^ 32 ≤ coWindow s)

/-- An observation of an entry (R289). -/
def observe (i : Nat) (o : Obs) (s : Chip) : Chip :=
  match nodeAt s i with
  | none => s
  | some n =>
    if !n.groupOpen then nodePut i (n.open o s) s
    else if inWindow s n o.ns then
      nodePut i { n with pend := if n.pend.margin < o.margin then o else n.pend } (bump (nodeCnt 0x04) 1 s)
    else
      let s := closeGroup i n s
      match nodeAt s i with
      | some n => nodePut i (n.open o s) s
      | none => s

/-- GROUP_CLOSE: TU time GRP_NS + COINCIDE_WINDOW + COINCIDE_SLACK (R289). -/
def execGroupClose (index : Fin 131072) (s : State) : Out :=
  s.on fun s =>
  .next (match nodeAt s index.val with
    | some n =>
      if pdOn s 7 && n.groupOpen && decide (n.grpAt + coWindow s + coSlack s ≤ (stampTd s).ns) then closeGroup index.val n s else s
    | none => s)

/-! ## Learning (R288, R290) -/

/-- What the frame engine knows of a frame for the store: its observation, RSSI, and the counter to keep. -/
structure Heard where
  obs : Obs
  rssi : Int
  ctr : Option Nat
deriving DecidableEq, Repr

/-- LAST_NS, RSSI, RX_CTR, HIT and MARKED of a refresh. -/
def NodeEnt.heard (n : NodeEnt) (h : Heard) : NodeEnt :=
  { n with hit := true, marked := false, lastNs := h.obs.ns, rssi := h.rssi, rxCtr := h.ctr.getD n.rxCtr }

/-- A location taken from an observation, and a group opened by it. -/
def NodeEnt.place (n : NodeEnt) (h : Heard) (s : Chip) : NodeEnt :=
  { (n.heard h).open h.obs s with
    locValid := true, aged := false, locA := h.obs.locA, locB := h.obs.locB, netid := h.obs.netid, locNs := h.obs.ns, margin := h.obs.margin }

/-- Free ways of a bucket. -/
def freeWays (s : Chip) (b : Nat) : List Nat := ((List.range 4).map (4 * b + ·)).filter fun i => (nodeAt s i).isNone

/-- The entry with the oldest LAST_NS (R290, R307). -/
def oldest : List (Nat × NodeEnt) → Option (Nat × NodeEnt)
  | [] => none
  | e :: l => match oldest l with
    | some f => if later 32 e.2.lastNs f.2.lastNs then some f else some e
    | none => some e

/-- Entries of a bucket that meet a test. -/
def bucketEnts (s : Chip) (b : Nat) (p : NodeEnt → Bool) : List (Nat × NodeEnt) :=
  ((List.range 4).map (4 * b + ·)).filterMap fun i => match nodeAt s i with
    | some n => if p n then some (i, n) else none
    | none => none

/-- One of the free ways: the specification does not say which (DESIGN CHOICE, assumption 3). -/
def pickWay (l : List Nat) (s : Chip) : Option Nat × Chip :=
  match l with
  | [] => (none, s)
  | _ =>
    let (v, s) := freeNat 8 s
    (l[v % l.length]?, s)

/-- The way for a learned node: a free one, or under EVICT_MARKED a marked learned entry's (R290). -/
def learnWay (e : BitVec 64) (s : Chip) : Option Nat × Chip :=
  let b := bucketOf s e
  match pickWay (freeWays s b) s with
  | (some i, s) => (some i, s)
  | (none, s) =>
    if nodeCfg s 6 = 1 then
      match oldest (bucketEnts s b fun n => !n.prov && n.marked) with
      | some (i, _) => (some i, nodeDrop i s)
      | none => (none, s)
    else (none, s)

/-- A node that missed is learned, or its bucket is full. -/
def learn (e : BitVec 64) (h : Heard) (s : Chip) : Chip :=
  match learnWay e s with
  | (some i, s) =>
    let n := (NodeEnt.fresh e (frmCfg s 1)).place h s
    raise 72 e.toNat (bump (nodeCnt 0x0C) 1 (nodePut i n s))
  | (none, s) => raiseLim 76 0 nsSec e.toNat (bump (nodeCnt 0x18) 1 s)

/-- Step 4 of Table 10.2: `hit` is the entry of step 2, `ext` an extended source (R288). An entry whose location ageing has cleared is
relearned; every other one is refreshed, and its location comes from the close of the group (R289; DEDUCED, assumption 31). -/
def refreshOrLearn (hit : Option (Nat × NodeEnt)) (ext : Option (BitVec 64)) (h : Heard) (s : Chip) : Chip :=
  let s := bump (nodeCnt 0x00) 1 s
  match hit with
  | some (i, n) =>
    if n.locValid || !n.aged then observe i h.obs (nodePut i (n.heard h) s)
    else raise 74 n.eui.toNat (bump (nodeCnt 0x10) 1 (nodePut i (n.place h s) s))
  | none =>
    match ext with
    | some e => if nodeCfg s 2 = 1 then learn e h s else s
    | none => s

/-! ## Ageing (R291) -/

/-- Removals and clearings, added up. -/
def aged (k : Nat) (s : Chip) : Chip :=
  feUpd (fun f => { f with sweepCount := f.sweepCount + k }) (bump (nodeCnt 0x14) k s)

/-- A visit of one entry. -/
def ageEntry (i : Nat) (s : Chip) : Chip :=
  match nodeAt s i with
  | none => s
  | some n =>
    if n.hit then nodePut i { n with hit := false, marked := false } s
    else if !n.marked then nodePut i { n with marked := true } s
    else if n.prov then aged 1 (nodePut i { n with locValid := false, aged := n.locValid || n.aged, marked := false } s)
    else aged 1 (nodeDrop i s)

/-- A visit of a bucket. -/
def ageBucket (b : Nat) (s : Chip) : Chip := forEach [4 * b, 4 * b + 1, 4 * b + 2, 4 * b + 3] ageEntry s

/-- AGE_SWEEP_VISIT: the next bucket that is due; a new sweep begins at a TU second that is a multiple of AGE_PERIOD, and the
last bucket ends the sweep with EV_AGE_SWEEP (R291). -/
def execAgeSweepVisit (s : State) : Out :=
  s.on fun s =>
  .next (if !pdOn s 7 || !pdOn s 8 then s
    else
      let p := nodeCfg s 3
      let now := (stampTd s).ns
      let start := tuSec s / p * p
      if 32768 ≤ s.fe.sweepNext then
        if s.fe.sweepStart < start then
          ageBucket 0 (feUpd (fun f => { f with sweepStart := start, sweepNext := 1, sweepCount := 0 }) s)
        else s
      else if s.fe.sweepStart * nsSec + s.fe.sweepNext * p * nsSec / 32768 ≤ now then
        let s := ageBucket s.fe.sweepNext s
        let s := feUpd (fun f => { f with sweepNext := f.sweepNext + 1 }) s
        if s.fe.sweepNext = 32768 then raise 75 s.fe.sweepCount s else s
      else s)

/-! ## Registers and commands (R303, R306 to R309) -/

/-- NODE_STAT (Table 10.6): LEARN is LEARN_EN while the node store is powered, so it resets to 0. -/
def nodeStat (s : Chip) : Nat :=
  pack [(0, 18, s.fe.nodes.length), (18, 1, b2n (decide (s.fe.sweepNext < 32768))), (19, 1, b2n (decide (nodeCfg s 2 = 1) && pdOn s 8))]

/-- Counters read, and cleared when asked. -/
def counters (addr n : Nat) (clear : Bool) (s : Chip) : Bytes × Chip :=
  ((List.range n).flatMap fun i => wr 4 (s.cnt.get (addr + 4 * i)),
   if clear then { s with cnt := (List.range n).foldl (fun t i => t.set (addr + 4 * i) 0) s.cnt } else s)

/-- NODE_STATUS. -/
def execNodeStatus (c : CmdRef) (s : State) : Out :=
  s.on fun s =>
  runCmd c 0x0600 s fun m =>
    checked c (maskAt m.params 0 1 ++ zeroAt m.params 1 3) fun s =>
      let st := wr 4 (nodeStat s)
      let (b, s) := counters (nodeCnt 0) 12 (bitOf (rd m.params 0 1) 0) s
      complete c stOk (st ++ b) s

/-- An EUI-64 parameter. -/
def euiAt (p : Bytes) (off : Nat) : BitVec 64 := BitVec.ofNat 64 (netRd p off 8)

/-- NODE_SEARCH. -/
def execNodeSearch (c : CmdRef) (s : State) : Out :=
  s.on fun s =>
  runCmd c 0x0601 s fun m =>
    let p := m.params
    checked c (maskAt p 0 1 ++ zeroAt p 1 3 ++ [ck 6 (!bitOf (rd p 0 1) 0 ∨ rd p 4 4 < 131072)]) fun s =>
      let hit := if bitOf (rd p 0 1) 0 then (nodeAt s (rd p 4 4)).map fun n => (rd p 4 4, n) else findNode s (euiAt p 4)
      match hit with
      | some (i, n) => complete c stOk (wr 4 i ++ n.bytes) s
      | none => complete c stNotFound [] s

/-- Filters of NODE_NEXT: PORT, PROV only, learned only, CLASS. -/
def walkTakes (f v : Nat) (n : NodeEnt) : Bool :=
  (!bitOf f 0 || (n.locValid && decide (n.port = fld v 0 2))) && (!bitOf f 1 || n.prov) && (!bitOf f 2 || !n.prov) &&
    (!bitOf f 3 || decide (n.cls = fld v 4 4))

/-- NODE_NEXT (R308). -/
def execNodeNext (c : CmdRef) (s : State) : Out :=
  s.on fun s =>
  runCmd c 0x0602 s fun m =>
    let p := m.params
    checked c ([ck 0 (rd p 0 4 < 131072), (4, within 1 120 (rd p 4 2))] ++ maskAt p 6 15 ++ maskAt p 7 0xF3) fun s =>
      let l := s.fe.nodes.filter fun e => decide (rd p 0 4 ≤ e.1) && walkTakes (rd p 6 1) (rd p 7 1) e.2
      let got := l.take (rd p 4 2)
      let next := match (l.drop (rd p 4 2)).head? with
        | some e => e.1
        | none => 0xFFFFFFFF
      complete c stOk (wr 4 next ++ wr 2 got.length ++ zeros 2 ++ got.flatMap fun e => wr 4 e.1 ++ e.2.bytes) s

/-- NODE_FLUSH_PORT (R309). -/
def execNodeFlushPort (c : CmdRef) (s : State) : Out :=
  s.on fun s =>
  runCmd c 0x0603 s fun m =>
    checked c (ck 0 (rd m.params 0 1 ≤ 3) :: zeroAt m.params 1 3) fun s =>
      let hit := s.fe.nodes.filter fun e => e.2.locValid && decide (e.2.port = rd m.params 0 1)
      let gone := hit.filter fun e => !e.2.prov
      let kept := hit.filter fun e => e.2.prov
      let s := forEach gone (fun e s => nodeDrop e.1 s) s
      let s := forEach kept (fun e s => nodePut e.1 { e.2 with locValid := false, aged := false } s) s
      complete c stOk (wr 4 gone.length ++ wr 4 kept.length) s

/-- The short address is held by another entry (R307). -/
def shortTaken (s : Chip) (a : Nat) (i : Option Nat) : Bool :=
  decide (a ≠ 0xFFFF) && (match lookupIn s.fe.shorts a with
    | some j => decide (i ≠ some j)
    | none => false)

/-- A new KEY sets TX_CTR and RX_CTR to 0 (R287). -/
def NodeEnt.withKey (n : NodeEnt) (k : Nat) : NodeEnt := { n with key := k, txCtr := 0, rxCtr := 0 }

/-- The way for NODE_ADD: a free one, or a learned entry's, marked ones first (R307). -/
def addWay (e : BitVec 64) (s : Chip) : Option (Nat × Option NodeEnt) × Chip :=
  let b := bucketOf s e
  match pickWay (freeWays s b) s with
  | (some i, s) => (some (i, none), s)
  | (none, s) =>
    let victim := match oldest (bucketEnts s b fun n => !n.prov && n.marked) with
      | some v => some v
      | none => oldest (bucketEnts s b fun n => !n.prov)
    match victim with
    | some (i, n) => (some (i, some n), nodeDrop i s)
    | none => (none, s)

/-- NODE_ADD (R307). -/
def execNodeAdd (c : CmdRef) (s : State) : Out :=
  s.on fun s =>
  runCmd c 0x0604 s fun m =>
    let p := m.params
    let e := euiAt p 0
    checked c ([ck 10 (rd p 10 1 ≤ 15)] ++ maskAt p 11 1 ++ [ck 14 (fld (rd p 12 4) 18 6 = 0)]) fun s =>
      let put := fun (i : Nat) (n : NodeEnt) (s : Chip) =>
        shortPut i (rd p 8 2) (nodePut i ({ n with short := rd p 8 2, cls := rd p 10 1, prov := true
                                                   secReq := bitOf (rd p 11 1) 0 }.withKey (rd p 12 4)) s)
      match findNode s e with
      | some (i, n) =>
        if shortTaken s (rd p 8 2) (some i) then badParam c 8 s
        else complete c stOk (wr 4 i ++ wr 4 1 ++ zeros 8) (put i n s)
      | none =>
        if shortTaken s (rd p 8 2) none then badParam c 8 s
        else match addWay e s with
        | (none, s) => complete c stBusy [] (raiseLim 76 0 nsSec e.toNat s)
        | (some (i, old), s) =>
          let s := put i (NodeEnt.fresh e 0) s
          complete c stOk (wr 4 i ++ wr 4 (if old.isSome then 2 else 0) ++ (match old with
            | some o => euiBytes o.eui
            | none => zeros 8)) s

/-- The masked fields of NODE_SET. -/
def setFields (mask : Nat) (p : Bytes) (n : NodeEnt) : NodeEnt :=
  let n := if bitOf mask 0 then { n with short := rd p 12 2 } else n
  let n := if bitOf mask 1 then { n with cls := rd p 15 1 } else n
  let n := if bitOf mask 2 then { n with secReq := bitOf (rd p 14 1) 5 } else n
  let n := if bitOf mask 3 then n.withKey (rd p 32 4) else n
  let n := if bitOf mask 4 then { n with parent := euiAt p 44 } else n
  let n := if bitOf mask 5 then { n with pathExp := rd p 52 4 } else n
  let n := if bitOf mask 6 then { n with pathSeq := rd p 56 1 } else n
  let n := if bitOf mask 7 then { n with depth := rd p 57 1 } else n
  let n := if bitOf mask 8 then { n with rplValid := bitOf (rd p 58 1) 0 } else n
  { n with prov := true }

/-- NODE_SET (R281, R307). -/
def execNodeSet (c : CmdRef) (s : State) : Out :=
  s.on fun s =>
  runCmd c 0x0605 s fun m =>
    let p := m.params
    let mask := rd p 8 2
    checked c (maskAt p 9 1 ++ zeroAt p 10 2 ++
        [ck 15 (bitOf mask 1 = true → rd p 15 1 ≤ 15), ck 34 (bitOf mask 3 = true → fld (rd p 32 4) 18 6 = 0),
          ck 58 (bitOf mask 8 = true → rd p 58 1 ≤ 1)]) fun s =>
      match findNode s (euiAt p 0) with
      | none => complete c stNotFound [] s
      | some (i, n) =>
        if bitOf mask 0 && shortTaken s (rd p 12 2) (some i) then badParam c 12 s
        else
          let s := if bitOf mask 0 then shortPut i (rd p 12 2) s else s
          complete c stOk (wr 4 i) (nodePut i (setFields mask p n) s)

/-- NODE_DELETE. -/
def execNodeDelete (c : CmdRef) (s : State) : Out :=
  s.on fun s =>
  runCmd c 0x0606 s fun m =>
    match findNode s (euiAt m.params 0) with
    | none => complete c stNotFound []
    | some (i, _) => fun s => complete c stOk (wr 4 i) (nodeDrop i s)

end Sys2Proof.Machine
end

