-- ==== Sys2Proof/Machine/Forward.lean ====
section
/-! DEFINITION. The prefix memory and the forwarding commands (R298 to R301, R303, R305, R306), uplink policing (R330 to
R332), and the egress queues of the Ethernet ports (R339, R342, R344). -/

namespace Sys2Proof.Machine

/-! ## Prefix memory (R298, R301) -/

/-- The `len` leading bits of an address. -/
def maskPfx (len v : Nat) : Nat := v / 2 ^ (128 - len) * 2 ^ (128 - len)

/-- An entry as a command carries it (Table 10.10). -/
def routeAt (p : Bytes) (off : Nat) : Route :=
  ⟨rd p off 1, rd p (off + 1) 1, BitVec.ofNat 128 (maskPfx (rd p (off + 1) 1) (netRd p (off + 8) 16)), rd p (off + 2) 1, rd p (off + 3) 1⟩

/-- An entry in the 24-byte layout. -/
def Route.bytes (r : Route) : Bytes :=
  wr 1 r.table ++ wr 1 r.len ++ wr 1 r.action ++ wr 1 r.nh ++ zeros 4 ++ netBytes 16 r.pfx.toNat

/-- Same TABLE, LEN and prefix. -/
def Route.same (a b : Route) : Bool := decide (a.table = b.table ∧ a.len = b.len ∧ a.pfx = b.pfx)

/-- The longest match of an address in a table: its position and entry (R298). -/
def routeFind (s : Chip) (table addr : Nat) : Option (Nat × Route) :=
  ((List.range s.fe.routes.length).zip s.fe.routes).find? fun e =>
    decide (e.2.table = table ∧ e.2.pfx.toNat = maskPfx e.2.len addr)

/-- The groups of one length, longest first, each changed in its way. -/
def byLength (f : Nat → List Route → List Route) (l : List Route) : List Route :=
  (List.range 129).reverse.flatMap fun k => f k (l.filter fun r => r.len = k)

/-- An insertion: the first entry of each shorter length moves to the end of its group (R301). -/
def routeInsert (r : Route) : List Route → List Route :=
  byLength fun k g => if k = r.len then g ++ [r] else if k < r.len then g.drop 1 ++ g.take 1 else g

/-- A deletion closes its gap in reverse: the last entry of its group takes its place, and the last of each shorter length
moves to the front of its group (R301). -/
def routeDelete (r : Route) : List Route → List Route :=
  byLength fun k g =>
    let last := g.drop (g.length - 1)
    let init := g.take (g.length - 1)
    if k = r.len then
      (if last.any r.same then init else init.flatMap fun e => if e.same r then last else [e])
    else if k < r.len then last ++ init
    else g

/-- Entries of the prefix memory. -/
def routeMax : Nat := 16384

/-- A software queue that a SOFTWARE route may name (R305). -/
def swqOk (n : Nat) : Bool := within 1 23 n && decide (n ≠ 3 ∧ n ≠ 4)

/-- Entries added in order: the status, how many were applied, and the offset at which a bad one stands (R301, R305). -/
def addRoutes (p : Bytes) : List Nat → Chip → Nat × Nat × Chip
  | [], s => (stOk, 0, s)
  | i :: l, s =>
    let r := routeAt p (4 + 24 * i)
    if r.action = 4 && !swqOk r.nh then (stBadParam, 0, s)
    else
      let there := s.fe.routes.any r.same
      if !there && decide (routeMax ≤ s.fe.routes.length) then (stBusy, 0, s)
      else
        let new := if there then s.fe.routes.map fun e => if e.same r then r else e else routeInsert r s.fe.routes
        let (st, k, s) := addRoutes p l (feUpd (fun f => { f with routes := new }) s)
        (st, k + 1, s)

/-- Entries deleted in order, and how many were there. -/
def delRoutes (p : Bytes) : List Nat → Chip → Nat × Chip
  | [], s => (0, s)
  | i :: l, s =>
    let r := routeAt p (4 + 24 * i)
    if s.fe.routes.any r.same then
      let (k, s) := delRoutes p l (feUpd (fun f => { f with routes := routeDelete r f.routes }) s)
      (k + 1, s)
    else delRoutes p l s

/-- Field checks of FWD_ROUTE_ADD and FWD_ROUTE_DEL. -/
def routeChecks (p : Bytes) (add : Bool) : List (Nat × Bool) :=
  (2, within 1 128 (rd p 2 1)) :: zeroAt p 3 1 ++
    (List.range (rd p 2 1)).flatMap fun i =>
      let o := 4 + 24 * i
      [ck o (rd p o 1 ≤ 3), ck (o + 1) (rd p (o + 1) 1 ≤ 128), ck (o + 2) (!add ∨ rd p (o + 2) 1 ≤ 4)] ++ zeroAt p (o + 4) 4

/-- FWD_ROUTE_ADD. -/
def execFwdRouteAdd (c : CmdRef) (s : State) : Out :=
  s.on fun s =>
  runCmd c 0x0701 s fun m =>
    let p := m.params
    checked c (routeChecks p true) fun s =>
      let (st, k, s) := addRoutes p (List.range (rd p 2 1)) s
      if st = stOk then complete c stOk (wr 2 k ++ zeros 2) (raise 80 (rd p 0 2) s)
      else if st = stBusy then complete c stBusy (wr 2 k ++ zeros 2) (raise 79 0 s)
      else badParam c (4 + 24 * k + 3) s

/-- FWD_ROUTE_DEL. -/
def execFwdRouteDel (c : CmdRef) (s : State) : Out :=
  s.on fun s =>
  runCmd c 0x0702 s fun m =>
    let p := m.params
    checked c (routeChecks p false) fun s =>
      let (k, s) := delRoutes p (List.range (rd p 2 1)) s
      complete c stOk (wr 2 k ++ zeros 2) (raise 80 (rd p 0 2) s)

/-- FWD_ROUTE_READ. -/
def execFwdRouteRead (c : CmdRef) (s : State) : Out :=
  s.on fun s =>
  runCmd c 0x0703 s fun m =>
    let p := m.params
    checked c [ck 0 (rd p 0 2 < routeMax), (2, within 1 300 (rd p 2 2))] fun s =>
      let l := (s.fe.routes.drop (rd p 0 2)).take (rd p 2 2)
      complete c stOk (wr 2 l.length ++ zeros 2 ++ l.flatMap Route.bytes) s

/-- FWD_LOOKUP. -/
def execFwdLookup (c : CmdRef) (s : State) : Out :=
  s.on fun s =>
  runCmd c 0x0705 s fun m =>
    let p := m.params
    checked c (ck 0 (rd p 0 1 ≤ 3) :: zeroAt p 1 3) fun s =>
      match routeFind s (rd p 0 1) (netRd p 4 16) with
      | some (i, r) => complete c stOk (wr 2 i ++ zeros 2 ++ r.bytes) s
      | none => complete c stOk (wr 2 0xFFFF ++ zeros 2) s

/-- FWD_STAT (Table 10.8): a route command moves its entries within its step. -/
def fwdStat (s : Chip) : Nat := pack [(0, 15, s.fe.routes.length)]

/-- FWD_STATUS. -/
def execFwdStatus (c : CmdRef) (s : State) : Out :=
  s.on fun s =>
  runCmd c 0x0700 s fun m =>
    checked c (maskAt m.params 0 1 ++ zeroAt m.params 1 3) fun s =>
      let (b, t) := counters (fwdCnt 0) 6 (bitOf (rd m.params 0 1) 0) s
      complete c stOk (wr 4 (fwdStat s) ++ b) t

/-- FWD_NH_SET (R511). -/
def execFwdNhSet (c : CmdRef) (s : State) : Out :=
  s.on fun s =>
  runCmd c 0x0704 s fun m =>
    let p := m.params
    let n := rd p 0 1
    checked c (maskAt p 1 3 ++ maskAt p 3 0x1F ++ zeroAt p 10 2) fun s =>
      complete c stOk [] { s with sys := { s.sys with
        nhPorts := s.sys.nhPorts.set n (rd p 1 1), nhVid := s.sys.nhVid.set n (fld (rd p 2 2) 0 12)
        nhTagged := s.sys.nhTagged.set n (bitOf (rd p 2 2) 12), nhMac := s.sys.nhMac.set n ((p.drop 4).take 6) } }

/-- EV_FWD_MISS, at most once per second and table, and MISS (R299). -/
def fwdMiss (table : Nat) (s : Chip) : Chip :=
  let s := bump (fwdCnt 0x00) 1 s
  raiseLim 78 table nsSec (pack [(0, 2, table), (32, 32, s.cnt.get (fwdCnt 0x00))]) s

/-! ## Packets to software queues (R305) -/

/-- A packet of bytes, or of a descriptor and a frame, placed on a software queue with its STREAM. -/
def toSwq (q stream : Nat) (ws : List Word) (s : Chip) : Chip := dqPutPacket q 0 (byte stream) ws s

/-! ## Leaving through a port (R342, R344) -/

/-- IPv6 address of a port: the field, or the link-local address from its MAC (RFC 4291). -/
def portIp (s : Chip) (p : Nat) : Bytes :=
  let a := ((List.range 4).map fun i => netBytes 4 (ethCfg s p (8 + i))).flatten
  if netNat a ≠ 0 then a
  else
    let m := portMac p s
    netBytes 16 (0xFE80 * 2 ^ 112 + (netNat (m.take 3 ++ [0xFF, 0xFE] ++ m.drop 3) ^^^ 2 ^ 57))

/-- The traffic class of an IPv6 packet, replaced. -/
def setTc (tc : Nat) (p : Bytes) : Bytes :=
  byte (0x60 + tc / 16) :: byte (tc % 16 * 16 + rd p 1 1 % 16) :: p.drop 2

/-- TUNNEL_DST. -/
def tunnelDst (s : Chip) : Bytes := ((List.range 4).map fun i => netBytes 4 (fwdCfg s (2 + i))).flatten

/-- The IPv6 packet of an uplink frame as it leaves a port (R302, R342). -/
def upPacket (s : Chip) (p : Nat) (f : UpFrame) : Bytes :=
  if f.tunnel then
    let (src, dst) := (portIp s p, tunnelDst s)
    ipv6 (Config.outer 3) (Config.outer 2) 17 (Config.outer 1) src dst (udp (Config.outer 0) (fwdCfg s 1) src dst f.pkt)
  else f.pkt

/-- An uplink frame leaves through its next hop: C-tag, R-TAG, IPv6 (R332, R342, R344). `num`: its sequence number and VID. -/
def sendUp (f : UpFrame) (yellow : Bool) (num : Option (Nat × Nat)) (s : Chip) : Chip :=
  let (ports, tagged) := (s.sys.nhPorts.get f.nh, s.sys.nhTagged.get f.nh)
  let vid := match num with
    | some n => n.2
    | none => s.sys.nhVid.get f.nh
  let one := fun (p : Nat) (s : Chip) =>
    if !bitOf ports p then s
    else
      let pkt := upPacket s p f
      let pkt := if yellow then setTc (cfgGet s 0x0B01 3) pkt else pkt
      let tci := ethCfg s p 7 * 2 ^ 13 + b2n yellow * 2 ^ 12 + vid
      ethQueue p (ethCfg s p 7) (s.sys.nhMac.get f.nh ++ portMac p s ++
        (if tagged then [0x81, 0x00] ++ netBytes 2 tci else []) ++
        (match num with
          | some n => [0xF1, 0xC1, 0, 0] ++ netBytes 2 n.1
          | none => []) ++ [0x86, 0xDD] ++ pkt) none s
  one 1 (one 0 s)

/-! ## Policing (R330 to R332) -/

/-- Field `k` of policer `n`. -/
def pol (s : Chip) (n k : Nat) : Nat := cfgGet s (0x0B20 + n / 16) (0x100 + 8 * (n % 16) + k)

/-- Colours. -/
inductive Colour where
  | green | yellow | red
deriving DecidableEq, Repr

/-- Charge of a frame at a policer, in bytes or µs (R331). -/
def polCharge (s : Chip) (n : Nat) (f : UpFrame) : Nat :=
  let oh := toS 32 (pol s n 5)
  if bitOf (pol s n 4) 2 then chargeUs f.air f.tbyte oh else chargeBytes f.len f.fcs oh

/-- Buckets of a policer now, in units of 10⁻⁹ (RFC 4115). -/
def polBuckets (s : Chip) (n : Nat) : Nat × Nat :=
  let (tc, te, at_) := s.sch.buckets.get n
  let dt := s.now - at_
  (min (pol s n 1 * nsSec) (tc + pol s n 0 * dt), min (pol s n 3 * nsSec) (te + pol s n 2 * dt))

/-- One policer; a disabled one leaves the colour (DEDUCED, assumption 33). -/
def police (n : Nat) (f : UpFrame) (col : Colour) (s : Chip) : Colour × Chip :=
  let ctrl := pol s n 4
  if !bitOf ctrl 0 then (col, s)
  else
    let (tc, te) := polBuckets s n
    let c := polCharge s n f * nsSec
    let put := fun (tc te : Nat) => schUpd (fun r => { r with buckets := r.buckets.set n (tc, te, s.now) }) s
    if bitOf ctrl 1 ∧ col = .red then (.red, put tc te)
    else if (!bitOf ctrl 1 ∨ col = .green) ∧ c ≤ tc then (.green, put (tc - c) te)
    else if c ≤ te then (.yellow, put tc (te - c))
    else (.red, put tc te)

/-- A drop of a policer, and EV_POLICER_DROP at most once per second (R332). -/
def polDrop (n : Nat) (s : Chip) : Chip :=
  let k := s.sch.polDrops.get n + 1
  if limFree 83 n nsSec s then
    raiseLim 83 n nsSec (pack [(0, 8, n), (32, 32, k)]) (schUpd (fun r => { r with polDrops := r.polDrops.set n 0 }) s)
  else schUpd (fun r => { r with polDrops := r.polDrops.set n k }) s

/-- A chain of at most `k` policers from `n` on: the colour with which the frame leaves, none when it is discarded. -/
def polChain : Nat → Nat → UpFrame → Colour → Chip → Option Colour × Chip
  | 0, _, _, col, s => (some col, s)
  | k + 1, n, f, col, s =>
    if 256 ≤ n then (some col, s)
    else
      let (col, s) := police n f col s
      match col with
      | .red => (none, polDrop n (bump 0x0B0040 1 s))
      | .yellow =>
        if bitOf (pol s n 4) 0 && bitOf (pol s n 4) 4 then (none, polDrop n (bump 0x0B003C 1 s))
        else polChain k (fld (pol s n 4) 16 16) f col s
      | .green => polChain k (fld (pol s n 4) 16 16) f col s

/-- Entry `i` of the policer selector. -/
def polSel (s : Chip) (i : Nat) : Nat := fld (cfgGet s 0x0B03 (1 + i / 2)) (i % 2 * 16) 16

/-- Policing of a frame: none when it is discarded, else whether it leaves yellow (R330, R332). -/
def policeUp (f : UpFrame) (s : Chip) : Option Bool × Chip :=
  let n := polSel s f.sel
  if 256 ≤ n then (some false, s)
  else
    let col := if f.miss && decide (cfgGet s 0x0B01 2 = 1) then Colour.yellow else .green
    match polChain 4 n f col s with
    | (none, s) => (none, s)
    | (some .green, s) => (some false, bump 0x0B0034 1 s)
    | (some _, s) => (some true, bump 0x0B0038 1 s)

end Sys2Proof.Machine
end

