-- ==== Sys2Proof/Machine/Steps.lean ====
section
/-! DEFINITION. Steps of a time domain: TIME_SET and the built-in servo (R236, R259, R261 to R265, R270). -/

namespace Sys2Proof.Machine

/-- A step in whole ns, rounded toward zero (R263). -/
def stepNs (step : Int) : Int := step.tdiv (2 ^ 32 : Nat)

/-- A step is applied (R259, R263, R270): EPOCH and its mirror in PD0 advance, and launches that it overtakes are late
(R236). -/
def applyStep (d t : Nat) (s : Chip) : Chip :=
  let step : Int := (t : Int) - ((tdGet s d).t : Int)
  let s := tdUpd d (fun x => { x with t := t, epoch := (x.epoch + 1) % 2 ^ 32, steps := satAdd 65535 x.steps 1, stepHeld := false }) s
  let e := (tdGet s d).epoch
  let s := { s with pd0 := if d = 0 then { s.pd0 with epoch0 := e } else { s.pd0 with epoch1 := e } }
  let s := raise 18 (pack [(0, 1, d), (1, 63, ofS 63 (stepNs step))]) s
  let s := raise 28 (pack [(0, 1, d), (32, 32, e)]) s
  let s := if s.time.stampDom = d then timersNow (raiseWrap s) else s
  lateLaunches d s

/-- TIME_SET (R263). -/
def execTimeSet (c : CmdRef) (s : State) : Out :=
  s.on fun s =>
  runCmd c 0x0202 s fun m =>
    let p := m.params
    let (d, f) := (rd p 0 1, rd p 1 1)
    let rel := bitOf f 0
    checked c ([ck 0 (d ≤ 1)] ++ maskAt p 1 3 ++ zeroAt p 2 2 ++
        (if rel then zeroAt p 12 4 else ck 10 (rd p 10 4 < nsSec) :: zeroAt p 14 2)) fun s =>
      let old := (tdGet s d).t
      let new : Int := if rel then (old : Int) + toS 64 (rd p 4 8) * (2 ^ 32 : Nat)
        else (((rd p 4 6 * nsSec + rd p 10 4) * 2 ^ 32 : Nat) : Int)
      if new < 0 ∨ ((2 ^ 48 * nsSec * 2 ^ 32 : Nat) : Int) ≤ new then badParam c 4 s
      else
        let step : Int := new - (old : Int)
        let big := decide (cfgGet s 0x0201 (tdId d 15) * 2 ^ 32 < step.natAbs)
        if decide ((tdGet s d).st = 1) && big && !bitOf f 1 then
          complete c stTimeJumpRefused (zeros 8 ++ wr 4 (tdGet s d).epoch ++ wr 8 (ofS 64 (stepNs step)))
            (raise 17 (pack [(0, 1, d), (1, 63, ofS 63 (stepNs step))]) s)
        else
          let s := if decide ((tdGet s d).st = 1) && big then raise 20 d (tdUpd d (fun t => { t with st := 0 }) s) else s
          let s := applyStep d new.toNat s
          complete c stOk (wr 8 (ofS 64 (stepNs step)) ++ wr 4 (tdGet s d).epoch ++ wr 8 (ofS 64 (stepNs step))) s

/-! ## The built-in servo -/

/-- Counts of consecutive samples after a sample. -/
def Servo.sample (v : Servo) (offset delay : Int) (freq now lock jump : Nat) : Servo :=
  let a := offset.natAbs
  { v with sampled := true, offset := offset, delay := delay, freq := freq, syncs := (v.syncs + 1) % 2 ^ 32, lastSync := now
           inLock := if a ≤ lock then v.inLock + 1 else 0
           over4 := if 4 * lock < a then v.over4 + 1 else 0
           overJump := if jump < a then v.overJump + 1 else 0 }

/-- Offsets over JUMP_HOLD: since when all have agreed within LOCK_THRESH (R265). -/
def Servo.holdOn (v : Servo) (offset : Int) (now lock : Nat) : Servo :=
  match v.holdSince with
  | some (_, o) => if (offset - o).natAbs ≤ lock then v else { v with holdSince := some (now, offset) }
  | none => { v with holdSince := some (now, offset) }

/-- The offsets have agreed over all of JUMP_HOLD. -/
def holdOver (s : Chip) (d : Nat) : Bool :=
  let h := cfgGet s 0x0201 (tdId d 17)
  match (tdGet s d).servo.holdSince with
  | some (t, _) => decide (h ≠ 0 ∧ t + h * nsSec ≤ s.now)
  | none => false

/-- The servo takes an offset out in one step. -/
def servoStep (d : Nat) (offset : Int) (s : Chip) : Chip :=
  let new := ((tdGet s d).t : Int) - offset * (2 ^ 32 : Nat)
  servoUpd d (fun v => { v with holdSince := none, overJump := 0, over4 := 0 }) (applyStep d new.toNat s)

/-- The increment that the servo sets lies within 100 ppm of its frequency estimate (R265); the law that gives it is left
open (DESIGN CHOICE, assumption 29). -/
def servoInc (d freq : Nat) (s : Chip) : Chip :=
  let w := freq / 10000
  let (k, s) := freeNat 32 s
  let inc := clampN incMin incMax (freq - w + k % (2 * w + 1))
  tdUpd d (fun t => { t with inc := inc, base := inc, tempEnd := none }) s

/-- A jump that JUMP_CONFIRM samples have confirmed is refused: the domain enters HOLDOVER with its frequency and holds the step
(R265). -/
def refuseJump (d : Nat) (offset : Int) (s : Chip) : Chip :=
  let s := unlockDomain d (raise 17 (pack [(0, 1, d), (1, 63, ofS 63 offset)]) s)
  tdUpd d (fun x => { x with st := 2, stepHeld := true, servo := { x.servo with holdSince := some (s.now, offset), overJump := 0 } }) s

/-- What a sample does to a domain whose SERVO_EN is 1 (R264, R265). A FREE domain steps over 20 µs without confirmation; in the other
states a confirmed jump goes before the step and the loss of lock (DEDUCED, assumption 108). -/
def servoAct (d : Nat) (offset : Int) (freq : Nat) (s : Chip) : Chip :=
  let t := tdGet s d
  let lock := cfgGet s 0x0201 (tdId d 13)
  let big := decide (20000 < offset.natAbs)
  if cfgGet s 0x0201 (tdId d 14) ≤ t.servo.inLock ∧ t.st ≠ 1 then lockDomain d offset (servoInc d freq s)
  else if t.stepHeld then
    let s := servoUpd d (fun v => v.holdOn offset s.now lock) s
    if holdOver s d then servoStep d offset s else s
  else if t.st = 0 ∧ big then servoStep d offset s
  else if cfgGet s 0x0201 (tdId d 16) ≤ t.servo.overJump then refuseJump d offset s
  else if t.st = 1 then servoInc d freq (if 4 ≤ t.servo.over4 then unlockDomain d s else s)
  else if big then servoStep d offset s
  else servoInc d freq s

end Sys2Proof.Machine
end

