-- ==== Sys2Proof/Machine/Ptp.lean ====
section
/-! DEFINITION. The IEEE 1588 instances and the transparent clock (R268, R271, R272): messages and their carriers, the BMCA,
the delay mechanisms, and the commands of Table 9.9 that act on them. The layout of the messages and of their carriers, the
data set comparison, and the delay arithmetic are those of IEEE 1588-2019, to which R271 refers (PRESUMED, assumption 106). -/

namespace Sys2Proof.Machine

/-! ## Carriers -/

/-- The EtherType behind the C-tag, its offset. -/
def typeOff (f : Bytes) : Nat := 12 + (vlanTag f).length
def etherType (f : Bytes) : Nat := be16 f (typeOff f)

/-- A 1588 message, and its transport code. -/
def ptpTransport (f : Bytes) : Option Nat :=
  let b := f.drop (typeOff f + 2)
  let evPort := fun (n : Nat) => decide (n = 319 ∨ n = 320)
  if etherType f = 0x88F7 then some 0
  else if etherType f = 0x0800 ∧ rd b 9 1 = 17 ∧ evPort (netRd b (rd b 0 1 % 16 * 4 + 2) 2) = true then some 1
  else if etherType f = 0x86DD ∧ ipNext b = 17 ∧ evPort (netRd b 42 2) = true then some 2
  else none

/-- Where the UDP header of a carrier begins, and where the message does. -/
def udpOff (f : Bytes) (t : Nat) : Nat := typeOff f + 2 + (if t = 1 then rd f (typeOff f + 2) 1 % 16 * 4 else if t = 2 then 40 else 0)
def msgOff (f : Bytes) (t : Nat) : Nat := udpOff f t + (if t = 0 then 0 else 8)

/-- Field `k` of an instance (Table 9.8). -/
def piCfg (s : Chip) (d k : Nat) : Nat := cfgGet s 0x0201 (tdId d k)

/-- A frame travels in the transport and on the VLAN of an instance. -/
def inTransport (s : Chip) (d t : Nat) (f : Bytes) : Bool :=
  let v := piCfg s d 18
  decide (piCfg s d 4 = t) &&
    (if bitOf v 12 then !(vlanTag f).isEmpty && decide (be16 f 14 % 4096 = v % 4096) else (vlanTag f).isEmpty)

/-- Row 3 of Table 12.2: an instance of the port or the transparent clock takes the message. -/
def ptpTakes (s : Chip) (p : Nat) (f : Bytes) : Bool :=
  match ptpTransport f with
  | none => false
  | some t => decide (cfgGet s 0x0201 2 = 1) || [0, 1].any fun d => ptpOn s d p && inTransport s d t f

/-- Two's complement of `n` bytes, network order. -/
def netInt (n : Nat) (v : Int) : Bytes := netBytes n (ofS (8 * n) v)

/-- Destination of a message: the peer group for Pdelay messages. -/
def ptpPeer (type : Nat) : Bool := decide (type = 2 ∨ type = 3 ∨ type = 10)

/-- A message in the carrier of an instance, from port `p` (Table 9.8: TRANSPORT, VLAN). The IPv4 source address and the
fields of Config.ptpOpen are stated nowhere. -/
def ptpFrame (s : Chip) (d p : Nat) (msg : Bytes) : Bytes :=
  let type := rd msg 0 1 % 16
  let peer := ptpPeer type
  let v := piCfg s d 18
  let tag := if bitOf v 12 then [0x81, 0x00, byte (7 * 32 + v % 4096 / 256), byte v] else []
  let dport := if type < 4 then 319 else 320
  let (src, k) := (portMac p s, piCfg s d 4)
  if k = 0 then
    (if peer then [0x01, 0x80, 0xC2, 0, 0, 0x0E] else [0x01, 0x1B, 0x19, 0, 0, 0]) ++ src ++ tag ++ [0x88, 0xF7] ++ msg
  else if k = 1 then
    let (a, b) := (netBytes 4 (Config.ptpOpen (4 + p)), if peer then [224, 0, 0, 107] else [224, 0, 1, 129])
    let u := udp dport dport a b msg
    let h := fun (c : Nat) => [0x45, byte (Config.ptpOpen 0)] ++ netBytes 2 (20 + u.length) ++ [0, 0, 0, 0, byte (Config.ptpOpen 1), 17] ++
      netBytes 2 c ++ a ++ b
    (if peer then [0x01, 0x00, 0x5E, 0, 0, 0x6B] else [0x01, 0x00, 0x5E, 0, 1, 0x81]) ++ src ++ tag ++ [0x08, 0x00] ++
      h (65535 - fold16 (onesSum (h 0))) ++ u
  else
    let b := if peer then netBytes 16 (0xFF02 * 2 ^ 112 + 0x6B) else netBytes 16 (0xFF0E * 2 ^ 112 + 0x181)
    (if peer then [0x33, 0x33, 0, 0, 0, 0x6B] else [0x33, 0x33, 0, 0, 0x01, 0x81]) ++ src ++ tag ++ [0x86, 0xDD] ++
      ipv6 (Config.ptpOpen 0) (Config.ptpOpen 6) 17 (Config.ptpOpen 1) (portIp s p) b (udp dport dport (portIp s p) b msg)

/-- Sends a message: PCP 7 (R342). -/
def ptpPut (d p : Nat) (msg : Bytes) (s : Chip) : Chip := ethQueue p 7 (ptpFrame s d p msg) none s

/-! ## Stamps (R268) -/

/-- The MII stamp of this instant in a domain, 2⁻¹⁶ ns. -/
def miiStamp (s : Chip) (d : Nat) : Int := ((tdGet s d).t / 2 ^ 16 : Nat)

/-- Delay field `k` of a port (0 PHY_TX_DELAY, 1 PHY_RX_DELAY, 2 DELAY_ASYM: 0.1 ns), in 2⁻¹⁶ ns. -/
def portDelay (s : Chip) (p k : Nat) : Int := cfgGetI s 0x0201 (0x200 + 0x10 * p + k) * 65536 / 10

/-- An MII stamp moved to the medium: earlier by PHY_RX_DELAY on receipt, later by PHY_TX_DELAY on sending. -/
def atMedium (s : Chip) (p : Nat) (out : Bool) (stamp : Int) : Int :=
  if out then stamp + portDelay s p 0 else stamp - portDelay s p 1

/-- A PTP time stamp: 48-bit seconds and 32-bit nanoseconds; what lies below 1 ns goes to correctionField. -/
def tsBytes (t : Int) : Bytes := netBytes 6 ((t / 65536).toNat / nsSec) ++ netBytes 4 ((t / 65536).toNat % nsSec)
def tsRest (t : Int) : Int := t % 65536
def tsRead (b : Bytes) (off : Nat) : Int := ((netRd b off 6 * nsSec + netRd b (off + 6) 4) * 65536 : Nat)

/-! ## Messages -/

/-- Common header fields. -/
def msgType (m : Bytes) : Nat := rd m 0 1 % 16
def msgDomain (m : Bytes) : Nat := rd m 4 1
def msgTwoStep (m : Bytes) : Bool := bitOf (rd m 6 1) 1
def msgCorr (m : Bytes) : Int := toS 64 (netRd m 8 8)
def msgClock (m : Bytes) : BitVec 64 := BitVec.ofNat 64 (netRd m 20 8)
def msgPort (m : Bytes) : Nat := netRd m 28 2
def msgSeq (m : Bytes) : Nat := netRd m 30 2

/-- Replaces bytes of a message. -/
def putBytes (off : Nat) (b m : Bytes) : Bytes := m.take off ++ b ++ m.drop (off + b.length)
def putCorr (c : Int) (m : Bytes) : Bytes := putBytes 8 (netInt 8 c) m

/-- controlField of a message type. -/
def ctrlOf (type : Nat) : Nat := match type with
  | 0 => 0
  | 1 => 1
  | 8 => 2
  | 9 => 3
  | _ => 5

/-- A message of an instance from its port `p`. -/
def ptpMsg (s : Chip) (d p type : Nat) (twoStep : Bool) (corr : Int) (seq : Nat) (log : Int) (body : Bytes) : Bytes :=
  [byte type, 0x12] ++ netBytes 2 (34 + body.length) ++ [byte (piCfg s d 2), 0, if twoStep then 2 else 0, 0] ++ netInt 8 corr ++
    zeros 4 ++ netBytes 8 (Config.clockId d).toNat ++ netBytes 2 (p + 1) ++ netBytes 2 seq ++ [byte (ctrlOf type)] ++ netInt 1 log ++ body

/-- The instance's own data set: clockClass 248 (Table 9.3), accuracy and variance unknown. -/
def ownSet (s : Chip) (d : Nat) : Announce :=
  ⟨piCfg s d 10, 248, 0xFE, 0xFFFF, piCfg s d 11, Config.clockId d, 0, Config.clockId d, 0⟩

/-- The data set of an Announce. -/
def announceOf (m : Bytes) : Announce :=
  ⟨rd m 47 1, rd m 48 1, rd m 49 1, netRd m 50 2, rd m 52 1, BitVec.ofNat 64 (netRd m 53 8), netRd m 61 2, msgClock m, msgPort m⟩

/-- Body of an Announce of a data set: origin time, UTC offset, grandmaster, stepsRemoved, time source. -/
def announceBody (a : Announce) : Bytes :=
  zeros 10 ++ netBytes 2 (Config.ptpOpen 2) ++ [0, byte a.prio1, byte a.cls, byte a.acc] ++ netBytes 2 a.var ++ [byte a.prio2] ++
    netBytes 8 a.gm.toNat ++ netBytes 2 a.steps ++ [byte (Config.ptpOpen 3)]

/-! ## BMCA (R271) -/

/-- Lexicographic order of equally long lists. -/
def lexLess : List Nat → List Nat → Bool
  | a :: l, b :: m => decide (a < b) || (decide (a = b) && lexLess l m)
  | _, _ => false

/-- The default data set comparison: `a` is better than `b`. -/
def Announce.better (a b : Announce) : Bool :=
  if a.gm = b.gm then lexLess [a.steps, a.sender.toNat, a.senderPort] [b.steps, b.sender.toNat, b.senderPort]
  else lexLess [a.prio1, a.cls, a.acc, a.var, a.prio2, a.gm.toNat] [b.prio1, b.cls, b.acc, b.var, b.prio2, b.gm.toNat]

/-- The best master that an instance hears, with its port. -/
def bestForeign (v : Servo) : Option (Nat × Announce) :=
  match v.foreign.get 0, v.foreign.get 1 with
  | some a, some b => if b.better a then some (1, b) else some (0, a)
  | some a, none => some (0, a)
  | none, some b => some (1, b)
  | none, none => none

/-- The BMCA decides between the best master heard and the instance's own data set. -/
def bmca (d : Nat) (s : Chip) : Chip :=
  match bestForeign (tdGet s d).servo with
  | some (p, a) => if (ownSet s d).better a then setGm d (Config.clockId d) 0 p s else setGm d a.gm (a.steps + 1) p s
  | none => s

/-- PTP_ANNOUNCE_RECEIVE: the instance takes the Announce that a port has received into its BMCA (R271, R88). One of its own,
or with stepsRemoved 255 or more, does not qualify. -/
def execPtpAnnounceReceive (d p : Fin 2) (s : State) : Out :=
  s.on fun s =>
  .next (match (tdGet s d.val).servo.heard.get p.val with
    | none => s
    | some a =>
      let s := servoUpd d.val (fun v => { v with heard := v.heard.set p.val none }) s
      if a.sender = Config.clockId d.val ∨ 255 ≤ a.steps then s
      else
        let s := servoUpd d.val (fun v => { v with announce := v.announce.set p.val (some s.now), foreign := v.foreign.set p.val (some a) }) s
        let s := if !s.boot.service && s.boot.announceAt.isNone then
            { s with boot := { s.boot with announceAt := some s.now } } else s
        bmca d.val s)

/-- announceReceiptTimeout of an instance, ns. -/
def announceWait (s : Chip) (d : Nat) : Nat := piCfg s d 8 * logInterval (cfgGetI s 0x0201 (tdId d 7))

/-- PTP_ANNOUNCE_TIMEOUT: no Announce on the port for announceReceiptTimeout intervals, or none since its link came up (R264,
R271). With no other qualified master the domain loses its lock, and the instance is grandmaster itself. -/
def execPtpAnnounceTimeout (d p : Fin 2) (s : State) : Out :=
  s.on fun s =>
  let v := (tdGet s d.val).servo
  let since := (v.announce.get p.val).getD (s.eth.get p.val).upAt
  .next (if !ptpLink s d.val p.val || decide (s.now < since + announceWait s d.val) ||
      ((v.announce.get p.val).isNone && decide (v.gm = some (Config.clockId d.val))) then s
    else
      let s := raise 25 p.val (servoUpd d.val (fun v =>
        { v with announce := v.announce.set p.val none, foreign := v.foreign.set p.val none }) s)
      if (bestForeign (tdGet s d.val).servo).isSome then bmca d.val s
      else setGm d.val (Config.clockId d.val) 0 p.val (if servoEn s d.val then unlockDomain d.val s else s))

/-! ## Receipt -/

/-- The message comes from the master that the instance follows on this port. -/
def fromMaster (s : Chip) (d p : Nat) (m : Bytes) : Bool :=
  let v := (tdGet s d).servo
  decide (v.gm ≠ some (Config.clockId d) ∧ v.gmPort = p) &&
    (v.foreign.get p).any fun a => decide (a.sender = msgClock m ∧ a.senderPort = msgPort m)

/-- The message answers this port's own newest request. -/
def answersMe (s : Chip) (d p : Nat) (m : Bytes) : Bool :=
  decide (netRd m 44 8 = (Config.clockId d).toNat ∧ netRd m 52 2 = p + 1 ∧ ((tdGet s d).servo.req.get p).1 = msgSeq m)

/-- P2P delay mechanism of an instance. -/
def isP2p (s : Chip) (d : Nat) : Bool := decide (piCfg s d 3 = 1)

/-- meanPathDelay of a link from its Pdelay exchange: t4 − t1 less the responder's turnaround, halved. -/
def linkDelayOf (s : Chip) (p : Nat) (sent back turn : Int) : Int :=
  (atMedium s p false back - atMedium s p true sent - turn) / 2

/-- What an instance does with a message that has reached its port at MII stamp `stamp` (R271). -/
def ptpTake (d p : Nat) (m : Bytes) (stamp : Int) (s : Chip) : Chip :=
  let (type, seq) := (msgType m, msgSeq m)
  let reqAt := ((tdGet s d).servo.req.get p).2
  if type = 0 then
    if fromMaster s d p m then
      servoUpd d (fun v => { v with sync := some ⟨seq, p, stamp, msgCorr m, if msgTwoStep m then none else some (tsRead m 34)⟩ }) s
    else s
  else if type = 8 then
    if fromMaster s d p m then
      servoUpd d (fun v => { v with sync := v.sync.map fun x =>
        if x.seq = seq ∧ x.port = p ∧ x.origin = none then { x with corr := x.corr + msgCorr m, origin := some (tsRead m 34) } else x }) s
    else s
  else if type = 11 then servoUpd d (fun v => { v with heard := v.heard.set p (some (announceOf m)) }) s
  else if type = 1 then
    if portState s d p = 6 && !isP2p s d then
      let t4 := atMedium s p false stamp
      ptpPut d p (ptpMsg s d p 9 false (msgCorr m - tsRest t4) seq (cfgGetI s 0x0201 (tdId d 9)) (tsBytes t4 ++ (m.drop 20).take 10)) s
    else s
  else if type = 2 then
    if isP2p s d then
      let two := decide (piCfg s d 5 = 1)
      let t2 := atMedium s p false stamp
      let s := servoUpd d (fun v => { v with turn := v.turn.set p (some stamp) }) s
      ptpPut d p (ptpMsg s d p 3 two (if two then -tsRest t2 else msgCorr m) seq 127
        ((if two then tsBytes t2 else zeros 10) ++ (m.drop 20).take 10)) s
    else s
  else if type = 9 then
    match reqAt with
    | some t3 =>
      if answersMe s d p m && fromMaster s d p m then
        servoUpd d (fun v => { v with ms := some (tsRead m 34 - msgCorr m - atMedium s p true t3) }) s
      else s
    | none => s
  else if type = 3 then
    match reqAt with
    | some t1 =>
      if !answersMe s d p m then s
      else if msgTwoStep m then
        servoUpd d (fun v => { v with resp := v.resp.set p (some ⟨seq, stamp, tsRead m 34, msgCorr m⟩) }) s
      else servoUpd d (fun v => { v with linkDelay := v.linkDelay.set p (linkDelayOf s p t1 stamp (msgCorr m)) }) s
    | none => s
  else if type = 10 then
    match reqAt, (tdGet s d).servo.resp.get p with
    | some t1, some r =>
      if answersMe s d p m && decide (r.seq = seq) then
        let delay := linkDelayOf s p t1 r.stamp (tsRead m 34 - r.receipt + r.corr + msgCorr m)
        servoUpd d (fun v => { v with resp := v.resp.set p none, linkDelay := v.linkDelay.set p delay }) s
      else s
    | _, _ => s
  else s

/-- Counter of a received message (Table 9.9). -/
def rxCounter (type : Nat) : Option Nat := match type with
  | 0 => some 0
  | 8 => some 1
  | 11 => some 2
  | 9 => some 4
  | 3 => some 4
  | _ => none

/-- The transparent clock forwards (R272, TIME_CTRL.TC_ACTIVE). -/
def tcActive (s : Chip) : Bool :=
  decide (cfgGet s 0x0201 2 = 1) && pdOn s 9 && pdOn s 11 && (s.eth.get 0).link && (s.eth.get 1).link

/-- The transparent clock passes a message on: event messages, but no Pdelay message in P2P (R272). Its mechanism is that of the
instance of TC_DOMAIN (DEDUCED, assumption 107). -/
def tcPasses (s : Chip) (m : Bytes) : Bool :=
  tcActive s && decide (msgType m < 4) && !(isP2p s (cfgGet s 0x0201 3) && ptpPeer (msgType m))

/-- A PTP message reaches a port (R15, R268, R271, R272): its MII stamp is taken, the transparent clock holds it, and the instances of
its domainNumber take it. A message that neither takes, and every management message, is discarded and counted; without the
time unit an event message has no stamp (DEDUCED, assumption 107). -/
def ptpReceive (p : Nat) (f : Bytes) (s : Chip) : Chip :=
  let t := (ptpTransport f).getD 0
  let m := f.drop (msgOff f t)
  let ds := [0, 1].filter fun d => ptpOn s d p && inTransport s d t f && decide (piCfg s d 2 = msgDomain m)
  if m.length < 34 ∨ rd m 1 1 % 16 ≠ 2 ∨ msgType m = 13 then ptpBump p 6 s
  else if !pdOn s 11 then (if msgType m < 4 then ptpBump p 7 s else ptpBump p 6 s)
  else
    let s' := if tcPasses s m then
        { s with time := { s.time with tcIn := s.time.tcIn.upd p fun l => l ++ [(f, miiStamp s (cfgGet s 0x0201 3))] } } else s
    if ds.isEmpty then (if tcPasses s m then s' else ptpBump p 6 s')
    else
      let s' := match rxCounter (msgType m) with
        | some k => ptpBump p k s'
        | none => s'
      forEach ds (fun d s => ptpTake d p m (miiStamp s d) s) s'

/-! ## The sample (R261, R264, R265, R268) -/

/-- Offset and meanPathDelay, 2⁻¹⁶ ns, that a Sync gives: t2 at the medium less the corrected origin, the path delay and the
asymmetry. In E2E the path delay is half of the sum of both directions. -/
def sampleOf (s : Chip) (d : Nat) (x : SyncIn) (origin : Int) : Int × Int :=
  let v := (tdGet s d).servo
  let sm := atMedium s x.port false x.stamp - (origin + x.corr)
  let mean := if isP2p s d then v.linkDelay.get x.port else match v.ms with
    | some ms => (sm + ms) / 2
    | none => 0
  (sm - mean - portDelay s x.port 2, mean)

/-- PTP_SYNC_SAMPLE: a Sync from the selected master, with its origin time known, gives an offset and a delay in whole ns, and the
servo its frequency estimate, whose law is left open (assumption 29). -/
def execPtpSyncSample (d p : Fin 2) (freqInc : Nat) (s : State) : Out :=
  s.on fun s =>
  let v := (tdGet s d.val).servo
  .next (match v.sync with
    | some x =>
      (match x.origin with
      | some origin =>
        if ptpLink s d.val p.val && decide (x.port = p.val ∧ v.gmPort = p.val ∧ v.gm.isSome ∧ v.gm ≠ some (Config.clockId d.val)) then
          let (offset, delay) := sampleOf s d.val x origin
          let s := servoUpd d.val (fun v => { v with sync := none }.sample (offset / 65536) (delay / 65536) freqInc s.now
            (cfgGet s 0x0201 (tdId d.val 13)) (cfgGet s 0x0201 (tdId d.val 15))) s
          if servoEn s d.val then servoAct d.val (offset / 65536) freqInc s else s
        else s
      | none => s)
    | none => s)

/-! ## Sending -/

/-- Kind of a message sent, and the interval of that kind (Table 9.8). -/
def sendNo : PtpSend → Nat
  | .delay => 0
  | .sync => 1
  | .announce => 2
def sendLog (s : Chip) (d : Nat) : PtpSend → Int
  | .delay => cfgGetI s 0x0201 (tdId d 9)
  | .sync => cfgGetI s 0x0201 (tdId d 6)
  | .announce => cfgGetI s 0x0201 (tdId d 7)

/-- The instance sends this message on the port now: the master side sends Sync and Announce, the slave Delay_Req, and in P2P every
port Pdelay_Req; each at most once per interval. -/
def sendsNow (s : Chip) (d p : Nat) (k : PtpSend) : Bool :=
  let due := match (tdGet s d).servo.sentAt.get (4 * p + sendNo k) with
    | some t => decide (t + logInterval (sendLog s d k) ≤ s.now)
    | none => true
  ptpLink s d p && due && (match k with
    | .delay => isP2p s d || decide (portState s d p = 9)
    | _ => decide (portState s d p = 6))

/-- What an instance's own Announce says: its own data set as grandmaster, else that of the master it follows. -/
def announceSet (s : Chip) (d : Nat) : Announce :=
  let v := (tdGet s d).servo
  if v.gm = some (Config.clockId d) then ownSet s d
  else match v.foreign.get v.gmPort with
    | some a => { a with steps := a.steps + 1 }
    | none => ownSet s d

/-- The message of a kind; the origin time of a one-step Sync is filled in as it leaves. -/
def sendMsg (s : Chip) (d p : Nat) (k : PtpSend) (seq : Nat) : Bytes :=
  let log := sendLog s d k
  match k with
  | .delay => if isP2p s d then ptpMsg s d p 2 false (-portDelay s p 2) seq 127 (zeros 20) else ptpMsg s d p 1 false 0 seq 127 (zeros 10)
  | .sync => ptpMsg s d p 0 (decide (piCfg s d 5 = 1)) 0 seq log (zeros 10)
  | .announce => ptpMsg s d p 11 false 0 seq log (announceBody (announceSet s d))

/-- PTP_MASTER_SEND: an instance sends a message of its own, which joins the port's egress (R271, R342). -/
def execPtpMasterSend (d p : Fin 2) (kind : PtpSend) (s : State) : Out :=
  s.on fun s =>
  .next (if sendsNow s d.val p.val kind then
      let key := 4 * p.val + sendNo kind
      let seq := (tdGet s d.val).servo.seqs.get key
      let s' := servoUpd d.val (fun v => { v with
        sentAt := v.sentAt.set key (some s.now), seqs := v.seqs.set key ((seq + 1) % 65536)
        req := if kind = .delay then v.req.set p.val (seq, none) else v.req }) s
      let s' := ptpPut d.val p.val (sendMsg s d.val p.val kind seq) s'
      if kind = .delay then ptpBump p.val 3 s' else s'
    else s)

/-- A PTP message of an instance leaves port `p` (R268): its stamp is taken. A one-step Sync takes its origin time, a one-step Pdelay_Resp
its turnaround, in flight; two-step messages are followed up. Answers the frame as it leaves. -/
def ptpDepart (p : Nat) (f : Bytes) (s : Chip) : Bytes × Chip :=
  match ptpTransport f with
  | none => (f, s)
  | some t =>
    let m := f.drop (msgOff f t)
    match [0, 1].find? fun d => ptpOn s d p && decide (Config.clockId d = msgClock m ∧ msgPort m = p + 1) with
    | none => (f, s)
    | some d =>
      let (type, stamp) := (msgType m, miiStamp s d)
      let out := atMedium s p true stamp
      let m := m.take (netRd m 2 2)
      let again := fun (m : Bytes) => let g := ptpFrame s d p m; g ++ zeros (60 - g.length)
      if type = 1 ∨ type = 2 then (f, servoUpd d (fun v => { v with req := v.req.set p (msgSeq m, some stamp) }) s)
      else if type = 0 then
        if msgTwoStep m then (f, ptpPut d p (ptpMsg s d p 8 false (tsRest out) (msgSeq m) (cfgGetI s 0x0201 (tdId d 6)) (tsBytes out)) s)
        else (again (putCorr (msgCorr m + tsRest out) (putBytes 34 (tsBytes out) m)), s)
      else if type = 3 then
        if msgTwoStep m then
          (f, ptpPut d p (ptpMsg s d p 10 false (tsRest out) (msgSeq m) 127 (tsBytes out ++ (m.drop 44).take 10)) s)
        else match (tdGet s d).servo.turn.get p with
          | some t2 => (again (putCorr (msgCorr m + (out - atMedium s p false t2)) m), s)
          | none => (f, s)
      else (f, s)

/-! ## The transparent clock (R272) -/

/-- A UDP checksum updated for bytes that change within the datagram. -/
def sumUpdate (c : Nat) (old new : Bytes) : Nat :=
  65535 - fold16 ((65535 - c) + (65535 * (old.length / 2) - onesSum old) + onesSum new)

/-- A frame with a new correctionField: a UDP checksum follows incrementally; IPv4 may carry none (0). -/
def putFrameCorr (c : Int) (f : Bytes) (t : Nat) : Bytes :=
  let (o, u) := (msgOff f t + 8, udpOff f t)
  let g := putBytes o (netInt 8 c) f
  let sum := netRd f (u + 6) 2
  if t = 0 ∨ (t = 1 ∧ sum = 0) then g else putBytes (u + 6) (netBytes 2 (sumUpdate sum ((f.drop o).take 8) (netInt 8 c))) g

/-- correctionField after the residence time between the media of the two ports, and in P2P the ingress link's delay of a Sync. -/
def tcCorrect (s : Chip) (p : Nat) (m : Bytes) (stamp : Int) : Int :=
  let d := cfgGet s 0x0201 3
  msgCorr m + (atMedium s (1 - p) true (miiStamp s d) - atMedium s p false stamp) +
    (if isP2p s d && decide (msgType m = 0) then (tdGet s d).servo.linkDelay.get p else 0)

/-- PTP_TC_FORWARD: the event message that the clock has held longest from a port leaves on the other port; its FCS is computed anew as
for every frame (R272). -/
def execPtpTcForward (inPort : Fin 2) (s : State) : Out :=
  s.on fun s =>
  let p := inPort.val
  .next (match s.time.tcIn.get p with
    | (f, stamp) :: rest =>
      let s' := { s with time := { s.time with tcIn := s.time.tcIn.set p rest } }
      if !tcActive s then s'
      else
        let t := (ptpTransport f).getD 0
        let c := tcCorrect s p (f.drop (msgOff f t)) stamp
        let g := putFrameCorr c f t
        let s' := { s' with time := { s'.time with tcOut := some (1 - p, c) } }
        bump (ethCnt (1 - p) 0x04) 1 (ptpBump p 5 (ethUpd (1 - p) (fun e => { e with sent := e.sent ++ [g] }) s'))
    | [] => s)

end Sys2Proof.Machine
end

