-- ==== Sys2Proof/Machine/Merge.lean ====
section
/-! DEFINITION. Uplink sequencing: the merge of a pair, solo numbering, and the order of one node's frames (R344, R353 to
R355). -/

namespace Sys2Proof.Machine

def pairUpd (f : Pair → Pair) (s : Chip) : Chip := { s with pair := f s.pair }
def pairCfg (s : Chip) (id : Nat) : Nat := cfgGet s 0x0D01 id

/-- Address of a counter of PAIR_CNT. -/
def pairCnt (off : Nat) : Nat := 0x0D0020 + off

/-- Sends a message to the peer; a silence drill sends nothing (R362). -/
def tellPeer (m : PairMsg) (s : Chip) : Chip :=
  if s.pair.silent then s else pairUpd (fun p => { p with out := p.out ++ [m] }) s

/-- θ in ps: this unit's stamping-domain time minus the owner's, over the exchanges kept (R358). -/
def theta (s : Chip) : Int :=
  let l := s.pair.trims
  if s.pair.owner ∨ l.isEmpty then 0 else (l.foldl (· + ·) 0).tdiv l.length

/-! ## Receive descriptors (Table 7.5) -/

def RxDesc.w (d : RxDesc) (i : Nat) : Nat := (d.words.getD i 0).toNat
def RxDesc.status (d : RxDesc) : Nat := fld (d.w 0) 0 16
def RxDesc.fsk (d : RxDesc) : Bool := bitOf (d.w 0) 27
def RxDesc.ch (d : RxDesc) : Nat := fld (d.w 1) 0 7
def RxDesc.port (d : RxDesc) : Nat := fld (d.w 1) 7 2
def RxDesc.mode (d : RxDesc) : Nat := fld (d.w 1) 9 4
def RxDesc.bw (d : RxDesc) : Nat := fld (d.w 1) 13 2
def RxDesc.netid (d : RxDesc) : Nat := fld (d.w 1) 16 12
def RxDesc.len (d : RxDesc) : Nat := fld (d.w 3) 16 11
def RxDesc.rssi (d : RxDesc) : Int := toS 16 (d.w 4)
def RxDesc.np (d : RxDesc) : Nat := fld (d.w 6) 0 8

/-- Modulation of a channel (FSK_MOD). -/
def chanMod (s : Chip) (ch : Nat) : Nat := fld (cfgGet s 0x0602 (0x100 + ch)) 11 2

/-- Octets of the payload check or FCS. -/
def RxDesc.fcs (d : RxDesc) : Nat := if d.fsk && !bitOf d.netid 0 then 4 else 2

/-- Time from the reference instant to the last chip of a reception, ns (R182, R191, R197, R199). -/
def tailNs (s : Chip) (fsk : Bool) (ch mode bw : Nat) (fec fcs2 : Bool) (len : Nat) : Nat :=
  if fsk then fskAirNs (mode % 4) (chanMod s ch) fec fcs2 0 len - 16 * nsSec / fskSymRate (mode % 4) (chanMod s ch)
  else amcAirNs mode bw 0 len

def RxDesc.tail (s : Chip) (d : RxDesc) : Nat :=
  tailNs s d.fsk d.ch d.mode d.bw (bitOf d.mode 2) (bitOf d.netid 0) d.len

/-- Airtime of a reception, ns (R331). -/
def RxDesc.air (s : Chip) (d : RxDesc) : Nat :=
  if d.fsk then fskAirNs (d.mode % 4) (chanMod s d.ch) (bitOf d.mode 2) (bitOf d.netid 0) d.np d.len
  else amcAirNs d.mode d.bw d.np d.len

/-- Time of the last chip in the owner's stamping domain, ns (R353). -/
def ownerTime (s : Chip) (ns tail : Nat) : Nat :=
  ((extendNs ns (stampTd s).ns + tail : Nat) - theta s / 1000 : Int).toNat

def RxDesc.key (s : Chip) (d : RxDesc) : Nat := ownerTime s (d.w 2) (d.tail s)

/-! ## Streams (R344) -/

/-- Stream `i`: EN, PAIR_VID, ELIM, SOLO_VID. -/
def streamCfg (s : Chip) (i : Nat) : Nat := cfgGet s 0x0C01 (0x10 + i)
def streamEn (s : Chip) (i : Nat) : Bool := bitOf (streamCfg s i) 12
def pairVid (s : Chip) (i : Nat) : Nat := fld (streamCfg s i) 0 12
def soloVid (s : Chip) (i : Nat) : Nat := fld (streamCfg s i) 16 12

/-- The enabled stream of a VID. -/
def streamOfVid (s : Chip) (vid : Nat) : Option Nat := (List.range 16).find? fun i => streamEn s i && pairVid s i = vid

/-- The uplink is solo: outside PAIRED, or with the merge stalled (Table 12.5, R355). -/
def uplinkSolo (s : Chip) : Bool := decide (s.pair.st ≠ 3) || s.pair.seqSolo

/-- Takes the next solo number of a stream, and its VID. -/
def takeSolo (st : Nat) (s : Chip) : (Nat × Nat) × Chip :=
  ((s.pair.solo.get st, soloVid s st), pairUpd (fun p => { p with solo := p.solo.upd st fun n => (n + 1) % 65536 }) s)

/-- Takes the next pair number of a stream, and its VID. -/
def takeNext (st : Nat) (s : Chip) : (Nat × Nat) × Chip :=
  ((s.pair.next.get st, pairVid s st), pairUpd (fun p => { p with next := p.next.upd st fun n => (n + 1) % 65536 }) s)

/-! ## Leaving in the node's order (R354) -/

/-- A frame of the same node that passed step 6 earlier is still held. -/
def earlierHeld (s : Chip) (o : Nat) (node : BitVec 64) : Bool :=
  ((List.range 16).any fun st => (s.pair.merge.get st).any fun e =>
    match e.loc with
    | some (o', f) => decide (o' < o) && f.node = node
    | none => false) ||
  s.pair.ready.any fun e => decide (e.1 < o) && e.2.2.node = node

/-- Releases every frame that no earlier frame of its node holds back: policing, then the ports. -/
def releaseReady : Nat → Chip → Chip
  | 0, s => s
  | n + 1, s =>
    match s.pair.ready.find? fun e => !earlierHeld s e.1 e.2.2.node with
    | some e =>
      let s := pairUpd (fun p => { p with ready := p.ready.filter fun x => x.1 ≠ e.1 }) s
      let (y, s) := policeUp e.2.2 s
      let s := match y with
        | some y => sendUp e.2.2 y e.2.1 s
        | none => s
      releaseReady n s
    | none => s

/-- A frame is ready to leave under its number. -/
def putReady (o : Nat) (num : Option (Nat × Nat)) (f : UpFrame) (s : Chip) : Chip :=
  pairUpd (fun p => { p with ready := p.ready ++ [(o, num, f)] }) s

/-- All frames that can leave do. -/
def pumpReady (s : Chip) : Chip := releaseReady s.pair.ready.length s

/-! ## The merge (R353) -/

/-- The entry with the lowest (key, digest). -/
def mergeMin : List MergeEnt → Option MergeEnt
  | [] => none
  | e :: l => match mergeMin l with
    | some m => if m.key < e.key ∨ (m.key = e.key ∧ m.digest < e.digest) then some m else some e
    | none => some e

/-- Adds a local frame or a peer digest: one entry where the other side holds the same frame. -/
def mergeAdd (key digest : Nat) (loc : Option (Nat × UpFrame)) : List MergeEnt → List MergeEnt
  | [] => [⟨key, digest, loc, loc.isNone⟩]
  | e :: l =>
    let free := if loc.isSome then e.loc.isNone else !e.peer
    if free && decide (e.digest = digest ∧ e.key ≤ key + 2000 ∧ key ≤ e.key + 2000) then
      ⟨min e.key key, digest, if loc.isSome then loc else e.loc, true⟩ :: l
    else e :: mergeAdd key digest loc l

/-- Numbers the entries of a stream that lie below the joint watermark. -/
def mergeRun : Nat → Nat → Chip → Chip
  | 0, _, s => s
  | n + 1, st, s =>
    match mergeMin (s.pair.merge.get st) with
    | some e =>
      if e.key + 2000 < min s.pair.wOwn s.pair.wPeer then
        let s := pairUpd (fun p => { p with merge := p.merge.upd st fun l => l.erase e }) s
        let (num, s) := takeNext st s
        let s := match e.loc with
          | some (o, f) => putReady o (some num) f s
          | none => bump (pairCnt 0x20) 1 s
        mergeRun n st s
      else s
    | none => s

/-- The merge of every stream. -/
def mergeAll (s : Chip) : Chip :=
  pumpReady (forEach (List.range 16) (fun st s => mergeRun (s.pair.merge.get st).length st s) s)

/-- The uplink turns solo: every held frame takes a solo number, in the order of the merge (R355). -/
def soloStream (st : Nat) (s : Chip) : Chip :=
  let l := (s.pair.merge.get st).mergeSort fun a b => decide (a.key < b.key ∨ (a.key = b.key ∧ a.digest ≤ b.digest))
  let s := pairUpd (fun p => { p with merge := p.merge.set st [] }) s
  forEach l (fun e s =>
    match e.loc with
    | some (o, f) =>
      let (num, s) := takeSolo st s
      putReady o (some num) f s
    | none => s) s

def turnSolo (s : Chip) : Chip := pumpReady (forEach (List.range 16) soloStream s)

/-- A frame passes step 6 with its key and digest (R344, R353 to R355). -/
def passUp (key digest : Nat) (f : UpFrame) (s : Chip) : Chip :=
  let o := s.pair.passNo
  let s := pairUpd (fun p => { p with passNo := o + 1 }) s
  match streamOfVid s (s.sys.nhVid.get f.nh) with
  | none => pumpReady (putReady o none f s)
  | some st =>
    if pairMode s = 0 then
      match policeUp f s with
      | (some y, s) =>
        let (num, s) := takeNext st s
        sendUp f y (some num) s
      | (none, s) => s
    else if uplinkSolo s || decide (key < s.pair.restart) then
      let (num, s) := takeSolo st s
      pumpReady (putReady o (some num) f s)
    else
      mergeAll (tellPeer (.digest st key (w32 digest)) (pairUpd (fun p => { p with merge := p.merge.upd st (mergeAdd key digest (some (o, f))) }) s))

/-! ## Watermarks -/

/-- Keys of receptions that have ended at the antenna plane and have not passed step 6: descriptors on their way to or in the frame engine, and
contexts whose last chip has arrived. -/
def openKeys (s : Chip) : List Nat :=
  let q := s.dq.get 87
  let coming := ((q.hand ++ q.drain ++ q.fill ++ q.wait).filter fun p => p.kind = .data).map (descOf s)
  (coming ++ s.fe.held ++ s.fe.uplink).map (fun d => d.key s) ++
  (busyCtxs s).filterMap fun x =>
    let c := ctx s x
    let k := ownerTime s c.ns.toNat (tailNs s c.fsk c.ch c.mode c.bw c.fec c.fcs2 c.len)
    if c.hdrOk && c.ended.isNone && !c.replay && decide (k ≤ ownerTime s (stampTd s).ns 0) then some k else none

/-- The unit's watermark: 250 µs back, or the least open key. -/
def watermark (s : Chip) : Nat := (openKeys s).foldl min (ownerTime s (stampTd s).ns 0 - 250 * nsUs)

/-- The unit's own next numbers of every stream. -/
def ownCounters (s : Chip) : List Nat := (List.range 16).map s.pair.next.get

/-- Sends the resume message of a unit that has sent none since its uplink turned solo (R355). -/
def sendResume (s : Chip) : Chip :=
  match s.pair.resumeSent with
  | some _ => s
  | none =>
    let w := watermark s
    tellPeer (.resume w (ownCounters s)) (pairUpd (fun p => { p with resumeSent := some w }) s)

end Sys2Proof.Machine
end

