-- ==== Sys2Proof/Machine/Uplink.lean ====
section
/-! DEFINITION. The uplink steps of the frame engine (R284 to R286, R294, R300, R302) and what enters the downlink (R356). -/

namespace Sys2Proof.Machine

/-! ## Addresses and keys -/

/-- Extended address of the device: MESH_ADDR in a pair (R359; DESIGN CHOICE, assumption 34). -/
def ownEui (s : Chip) : BitVec 64 :=
  if pairMode s = 0 then Config.ownEui else BitVec.ofNat 64 (pairCfg s 2 * 2 ^ 32 + pairCfg s 3)

/-- EUI-64 of an extended address in octet order of the frame. -/
def euiOfFrame (b : Bytes) : BitVec 64 := BitVec.ofNat 64 (leNat b)

/-- A key by its handle that the frame engine may use: unsealed vault, valid, not orphaned. -/
def liveKey (s : Chip) (h : Nat) : Option Key :=
  if s.sec.vault ≠ 1 then none
  else match findKey s h with
    | some k => if k.st = 0 ∧ !orphaned 5 s h then some k else none
    | none => none

/-- FRM_GRPKEYn with a key index: the lowest n whose HANDLE is not 0 (R510). -/
def groupHandle (s : Chip) (index : Nat) : Nat :=
  match (List.range 16).find? fun n => decide (s.sys.grpHandle.get n ≠ 0 ∧ s.sys.grpIndex.get n = index) with
  | some n => s.sys.grpHandle.get n
  | none => 0

/-- What a security step finds. -/
inductive Sec3 where
  /-- Accepted: whether authenticated, and the payload. -/
  | ok (auth : Bool) (payload : Bytes)
  /-- Settings refused, or a source that gives no nonce. -/
  | refused
  /-- The key is absent or orphaned. -/
  | noKey
  | badMic
  | replay
deriving DecidableEq, Repr

/-- Octets of a MIC (levels 5 to 7). -/
def micLen (level : Nat) : Nat := 2 ^ (level - 3)

/-- The CCM* nonce: source EUI-64, frame counter, level (R285). -/
def nonceOf (src : BitVec 64) (ctr level : Nat) : Bytes := euiBytes src ++ netBytes 4 ctr ++ [byte level]

/-- Opens a frame under the key of a handle. `group`: it must be the decrypt twin of a pair (R510). -/
def openUnder (s : Chip) (h : Nat) (group : Bool) (m : Mhr) (f : Bytes) (eui : BitVec 64) (rxCtr : Nat) : Sec3 :=
  match liveKey s h with
  | none => .noKey
  | some k =>
    if group && !(k.twin && decide (k.attr = 1)) then .noKey
    else if k.attr ≠ 1 then .refused
    else
      let n := f.length - micLen m.level
      match Config.ccmOpen k.mat (nonceOf eui m.ctr m.level) (f.take m.len) ((f.take n).drop m.len) (f.drop n) with
      | none => .badMic
      | some p => if m.ctr ≤ rxCtr then .replay else .ok true p

/-- Step 3 (R285, R286). `hit`: the entry of step 2; `eui`: the source, none for a short address that the map does not
resolve. -/
def secure3 (s : Chip) (m : Mhr) (f : Bytes) (hit : Option (Nat × NodeEnt)) (eui : Option (BitVec 64)) : Sec3 :=
  if m.level = 0 then
    let req := match hit with
      | some e => e.2.secReq
      | none => false
    if frmCfg s 3 = 1 ∧ !req then .ok false (f.drop m.len) else .refused
  else if m.level ≤ 4 ∨ 2 ≤ m.kim ∨ m.ctrSupp then .refused
  else match eui with
  | none => .refused
  | some e =>
    let rx := (hit.map fun h => h.2.rxCtr).getD 0
    if m.kim = 0 then openUnder s ((hit.map fun h => h.2.handle).getD (frmCfg s 1)) false m f e rx
    else openUnder s (groupHandle s m.keyIdx) true m f e rx

/-! ## Tunnel (R302, Table 10.4) -/

/-- FLAGS of a tunnelled frame. -/
structure UpFlags where
  authOk : Bool
  authFail : Bool
  replay : Bool
  miss : Bool
deriving DecidableEq, Repr

/-- The NETID entry of a frame (R300). -/
def upEntry (s : Chip) (d : RxDesc) : Nat :=
  if d.fsk then fwdCfg s 0xB
  else ((List.range 8).find? fun n =>
    let v := cfgGet s 0x0701 (0x10 + n)
    bitOf v 31 && decide (v % 4096 = d.netid)).getD (fwdCfg s 0xC)

/-- UP_MODE and UP_TABLE of an entry. -/
def upMode (s : Chip) (n : Nat) : Nat := fld (fwdCfg s (0x10 + n)) 0 2
def upTable (s : Chip) (n : Nat) : Nat := fld (fwdCfg s (0x10 + n)) 2 2

/-- The Sceura mesh header and the frame (Table 10.4). -/
def tunnelBytes (s : Chip) (d : RxDesc) (status : Nat) (fl : UpFlags) (cls : Nat) : Bytes :=
  let t := extendNs (d.w 2) (stampTd s).ns
  let e := (stampTd s).epoch
  [1, 1] ++ wr 2 (pack [(0, 1, b2n fl.authOk), (1, 1, b2n fl.authFail), (2, 1, b2n fl.replay), (3, 1, b2n fl.miss),
      (4, 1, fld (d.w 0) 31 1), (5, 1, fld (d.w 0) 28 1), (6, 1, fld (d.w 0) 29 1), (7, 1, b2n d.fsk)]) ++
    serialBytes s ++ wr 6 (t / nsSec) ++ wr 4 (t % nsSec) ++ wr 2 (fld (d.w 3) 0 16) ++ wr 1 s.time.stampDom ++ wr 1 e ++
    wr 2 status ++ wr 1 d.ch ++ wr 1 (pack [(0, 4, d.mode), (4, 2, d.bw), (6, 2, d.port)]) ++ wr 2 d.netid ++
    wr 2 (d.w 4) ++ wr 2 (fld (d.w 4) 16 16) ++ wr 4 (ofS 32 (toS 20 (d.w 5))) ++ wr 4 (d.w 7) ++ wr 2 d.frame.length ++
    wr 1 (fld (d.w 0) 16 4) ++ wr 1 cls ++ d.frame

/-- An uplink frame with what policing charges. -/
def upFrame (s : Chip) (d : RxDesc) (pkt : Bytes) (tunnel : Bool) (nh : Nat) (node : BitVec 64) (cls : Nat) (miss : Bool) : UpFrame :=
  { pkt := pkt, tunnel := tunnel, nh := nh, node := node, sel := 16 * upEntry s d + cls, miss := miss, len := d.len
    fcs := d.fcs, air := d.air s
    tbyte := if d.fsk then fskTbyte (d.mode % 4) (bitOf d.mode 2) else amcTbyte d.mode d.bw }

/-- Tunnels a frame through TUNNEL_NH. -/
def tunnelUp (d : RxDesc) (status : Nat) (fl : UpFlags) (node : BitVec 64) (cls : Nat) (s : Chip) : Chip :=
  let f := upFrame s d (tunnelBytes s d status fl cls) true (fwdCfg s 6) node cls fl.miss
  passUp (d.key s) (crc32c d.frame) f (bump (fwdCnt 0x10) 1 s)

/-! ## What enters the downlink -/

/-- In a pair, this unit is not the owner (R356). -/
def notOwner (s : Chip) : Bool := decide (pairMode s ≠ 0) && !s.pair.owner

/-- A downlink packet enters the frame engine. A non-owner holds it, and discards it in INCOMPATIBLE (R356, R360). -/
def ingress (origin pri : Nat) (pkt : Bytes) (digest : Nat) (s : Chip) : Chip :=
  if notOwner s then
    if s.pair.st = 5 then s
    else pairUpd (fun p => { p with held := p.held ++ [⟨origin + 16 * pri, pkt, digest, s.now⟩] }) s
  else putDown origin pri pkt s

/-- Bits 7:5 of the traffic class of an IPv6 packet (R311). -/
def tcPri (p : Bytes) : Nat := netRd p 0 2 / 2 ^ 9 % 8

/-! ## The steps (Table 10.2) -/

/-- The descriptor and its frame on UP_SWQ (R284, R294). -/
def toUpSwq (d : RxDesc) (s : Chip) : Chip := toSwq (frmCfg s 5) 1 (d.words ++ wordsOf d.frame) s

/-- Step 6 for a routed packet (R299, R302). -/
def routeUp (d : RxDesc) (node : BitVec 64) (cls : Nat) (miss : Bool) (fl : UpFlags) (pkt : Bytes) (s : Chip) : Chip :=
  let t := upTable s (upEntry s d)
  match routeFind s t (netNat (ipDst pkt)) with
  | none => fwdMiss t s
  | some (_, r) =>
    match r.action with
    | 0 => bump (fwdCnt 0x04) 1 s
    | 1 => passUp (d.key s) (crc32c d.frame) (upFrame s d pkt false r.nh node cls miss) (bump (fwdCnt 0x14) 1 s)
    | 2 => ingress 2 (tcPri pkt) pkt (crc32c pkt) (bump (fwdCnt 0x14) 1 s)
    | 3 => tunnelUp d d.status fl node cls s
    | _ => toSwq r.nh 5 (wordsOf pkt) (bump (fwdCnt 0x0C) 1 s)

/-- Interface identifier that the MAC destination gives. -/
def dstIid (s : Chip) (m : Mhr) : Bytes :=
  match m.dstMode with
  | 3 => iidOf (euiOfFrame m.dst)
  | 2 => (match findShort s (leNat m.dst) with
    | some e => iidOf e.2.eui
    | none => netBytes 8 (0x000000FFFE000000 + leNat m.dst))
  | _ => iidOf (ownEui s)

/-- Step 5: the IPv6 packet of a payload; none for a form that goes to UP_SWQ (R294). -/
def openPacket (s : Chip) (m : Mhr) (eui : Option (BitVec 64)) (payload : Bytes) : Option Bytes :=
  if m.typ ≠ 1 then none
  else match eui with
  | none => none
  | some e =>
    match iphcOpen s (iidOf e) (dstIid s m) payload with
    | some p => if ipNext p = 58 ∧ rd p 40 1 = 155 then none else some p
    | none => none

/-- The observation of a frame (R289). -/
def heardOf (s : Chip) (d : RxDesc) (ctr : Option Nat) : Heard :=
  { obs := { loc := pack [(0, 7, d.ch), (7, 1, b2n d.fsk), (8, 4, d.mode), (12, 2, d.bw), (14, 2, d.port)]
             netid := d.netid
             margin := d.rssi - modeSens d.ch d.fsk (if d.fsk then d.mode % 4 else d.mode) d.bw (fld (cfgGet s 0x0602 (0x100 + d.ch)) 11 2)
               (bitOf d.mode 2)
             ns := d.w 2 }
    rssi := d.rssi, ctr := ctr }

/-- A frame that fails step 3: counted, or tunnelled under FWD_AUTH_FAIL = 1 (R284, R286). -/
def failSec (d : RxDesc) (r : Sec3) (hit : Option (Nat × NodeEnt)) (node : BitVec 64) (s : Chip) : Chip :=
  let fwd := decide (frmCfg s 4 = 1)
  let s := match r with
    | .badMic => raiseUpTo 81 0 10 node.toNat (if fwd then s else bump (nodeCnt 0x1C) 1 s)
    | .refused => if fwd then s else bump (nodeCnt 0x1C) 1 s
    | .replay => raiseUpTo 82 0 10 node.toNat (bump (nodeCnt 0x20) 1 s)
    | .noKey => bump (nodeCnt 0x24) 1 s
    | .ok _ _ => s
  if fwd then
    tunnelUp d stRxAuthFail ⟨false, true, decide (r = .replay), hit.isNone⟩ node ((hit.map fun e => e.2.cls).getD 0) s
  else s

/-- Steps 2 to 6 of a parsed frame. -/
def uplinkGo (d : RxDesc) (m : Mhr) (s : Chip) : Chip :=
  let ext := if m.srcMode = 3 then some (euiOfFrame m.src) else none
  let hit := match ext with
    | some e => findNode s e
    | none => findShort s (leNat m.src)
  let eui := match ext with
    | some e => some e
    | none => hit.map fun h => h.2.eui
  let node := eui.getD (euiOfFrame m.src)
  let cls := (hit.map fun e => e.2.cls).getD 0
  match secure3 s m d.frame hit eui with
  | .ok auth payload =>
    let fl : UpFlags := ⟨auth, false, false, hit.isNone⟩
    let s := refreshOrLearn hit ext (heardOf s d (if auth then some m.ctr else none)) s
    let mode := upMode s (upEntry s d)
    let s := if mode = 0 then s else tunnelUp d d.status fl node cls s
    if mode = 1 then s
    else match openPacket s m eui payload with
      | none => toUpSwq d s
      | some pkt => routeUp d node cls hit.isNone fl pkt s
  | r => failSec d r hit node s

/-- A descriptor whose status is not ST_OK (R284). -/
def uplinkBad (d : RxDesc) (s : Chip) : Chip :=
  if upMode s (upEntry s d) ≠ 0 ∧ fwdCfg s 7 = 1 then
    tunnelUp d d.status ⟨false, false, false, false⟩ (euiOfFrame (d.src.getD [])) 0 s
  else bump (nodeCnt 0x2C) 1 s

/-- UPLINK_FRAME_PROCESS: the next descriptor, in the order of R43. -/
def execUplinkFrameProcess (s : State) : Out :=
  s.on fun s =>
  .next (match s.fe.uplink with
    | [] => s
    | d :: rest =>
      if !pdOn s 7 then s
      else
        let s := feUpd (fun f => { f with uplink := rest }) s
        if d.status ≠ stOk then uplinkBad d s
        else match parseMhr d.frame with
          | none => toUpSwq d s
          | some m => if m.srcMode < 2 ∨ m.seqSupp then toUpSwq d s else uplinkGo d m s)

end Sys2Proof.Machine
end

