-- ==== Sys2Proof/Machine/Eth.lean ====
section
/-! DEFINITION. The Ethernet ports (R338 to R345, R363, R365): link, reception and classification, sequence recovery,
egress, and the Ethernet commands. -/

namespace Sys2Proof.Machine

/-! ## Link (R339, R340) -/

/-- EV_ETH_LINK. -/
def raiseLink (p : Nat) (up : Bool) (s : Chip) : Chip :=
  raise 88 (pack [(0, 1, p), (1, 1, b2n up), (4, 4, (s.eth.get p).speed)]) s

/-- Buffered frames of a port, in the order in which they would have left. -/
def EthPort.buffered (e : EthPort) : List (Bytes × Option FrameEnd) := (List.range 8).flatMap fun i => e.egress.get (7 - i)

/-- The link goes down: every buffered frame is aborted in its place. -/
def linkDown (p : Nat) (s : Chip) : Chip :=
  let e := s.eth.get p
  if !e.link then s
  else
    let l := e.buffered
    let s := ethUpd p (fun e => { e with link := false, egress := Tab.const [], pauseEnd := none, downs := satAdd 0xFFFF e.downs 1 }) s
    let s := forEach l (fun f s => ethCompl f.2 stAbortedDisabled (bump (ethCnt p 0x18) 1 s)) s
    raiseLink p false s

/-- ETH_LINK_UP: block lock, link up and full duplex. A forced SPEED gives the code. -/
def execEthLinkUp (p : Fin 2) (speed : Fin 6) (rxInv : Bool) (s : State) : Out :=
  s.on fun s =>
  .next (if !pdOn s 9 || ethCfg s p.val 2 = 0 || (s.eth.get p.val).link || portHeld s p.val then s
    else
      let code := if ethCfg s p.val 3 = 0 then speed.val else ethCfg s p.val 3 - 1
      let s := if rxInv then raise 89 (pack [(0, 1, p.val), (1, 1, 1)]) s else s
      raiseLink p.val true (ethUpd p.val (fun e => { e with link := true, upAt := s.now, speed := code, rxInv := rxInv }) s))

/-- ETH_LINK_DOWN. -/
def execEthLinkDown (p : Fin 2) (s : State) : Out := s.on fun s => .next (linkDown p.val s)

/-! ## Flow control (Table 12.1) -/

/-- A quantum of 512 bit times in 0.1 ns, by speed code. -/
def quantum (speed : Nat) : Nat := [512000, 51200, 5120, 2048, 1024, 512].getD speed 512

/-- A received PAUSE frame: to the group of MAC control, or to the port. -/
def isPause (s : Chip) (p : Nat) (f : Bytes) : Bool :=
  decide (be16 f 12 = 0x8808 ∧ be16 f 14 = 0x0001 ∧ (f.take 6 = [0x01, 0x80, 0xC2, 0x00, 0x00, 0x01] ∨ f.take 6 = portMac p s))

/-- The port is paused. -/
def paused (s : Chip) (p : Nat) : Bool := (s.eth.get p).pauseEnd.isSome

/-- PAUSE_TIME_EXPIRY. -/
def execPauseTimeExpiry (p : Fin 2) (s : State) : Out :=
  s.on fun s =>
  .next (match (s.eth.get p.val).pauseEnd with
    | some t => if t ≤ s.now then ethUpd p.val (fun e => { e with pauseEnd := none }) s else s
    | none => s)

/-! ## Sequence recovery (R345, IEEE 802.1CB) -/

/-- What recovery says of a number. -/
inductive Recov where
  | pass (r : Rcvy)
  | duplicate
  | rogue
deriving DecidableEq, Repr

/-- Vector recovery with a history length. -/
def Rcvy.check (r : Rcvy) (seq h now : Nat) : Recov :=
  let d := toS 16 (seq + 65536 - r.last)
  if r.any then .pass ⟨false, seq, [seq], now⟩
  else if (h : Int) ≤ d ∨ d ≤ -(h : Int) then .rogue
  else if d ≤ 0 then (if r.hist.contains seq then .duplicate else .pass { r with hist := seq :: r.hist, at_ := now })
  else .pass ⟨false, seq, seq :: r.hist.filter (fun x => decide ((seq + 65536 - x) % 65536 < h)), now⟩

/-- Last number that recovery accepted: the newest of its history (Table 12.9). -/
def Rcvy.accepted (r : Rcvy) : Nat := r.hist.head?.getD r.last

/-- RTAG_RECOVERY_RESET: RESET_MS without an accepted frame. -/
def execRtagRecoveryReset (st : Fin 16) (s : State) : Out :=
  s.on fun s =>
  .next (let r := s.pair.rcvy.get st.val
    if !r.any && decide (r.at_ + cfgGet s 0x0C01 2 * nsMs ≤ s.now) then
      pairUpd (fun p => { p with rcvy := p.rcvy.set st.val { r with any := true } }) s
    else s)

/-- EV_RTAG_ROGUE, at most once per port per second. -/
def raiseRogue (p : Nat) (s : Chip) : Chip :=
  let s := ethUpd p (fun e => { e with rogueNew := e.rogueNew + 1 }) s
  if limFree 91 p nsSec s then
    raiseLim 91 p nsSec (pack [(0, 1, p), (32, 32, (s.eth.get p).rogueNew)]) (ethUpd p (fun e => { e with rogueNew := 0 }) s)
  else s

/-! ## Reception (R341, Table 12.2) -/

/-- EV_ETH_ERRORS with the growth of FCS_ERR, at most once per port per second. -/
def raiseFcs (p : Nat) (s : Chip) : Chip :=
  let s := ethUpd p (fun e => { e with fcsNew := e.fcsNew + 1 }) (bump (ethCnt p 0x08) 1 s)
  if limFree 90 p nsSec s then
    raiseLim 90 p nsSec (pack [(0, 1, p), (32, 32, (s.eth.get p).fcsNew)]) (ethUpd p (fun e => { e with fcsNew := 0 }) s)
  else s

def rxDiscard (p : Nat) (s : Chip) : Chip := bump (ethCnt p 0x0C) 1 s

/-- S-tag or two tags. -/
def badTags (f : Bytes) : Bool :=
  decide (be16 f 12 = 0x88A8) || (!(vlanTag f).isEmpty && decide (be16 f 16 = 0x8100 ∨ be16 f 16 = 0x88A8))

/-- Addressed to the port, to broadcast or to a group. -/
def forPort (s : Chip) (p : Nat) (f : Bytes) : Bool :=
  decide (f.take 6 = portMac p s) || decide ((f.getD 0 0).toNat % 2 = 1)

/-- The IPv6 packet of a frame without Ethernet padding. -/
def ipOf (f : Bytes) : Bytes :=
  let b := f.drop (typeOff f + 2)
  b.take (40 + netRd b 4 2)

/-- A UDP packet over IPv6, and its destination port. -/
def isUdp (pkt : Bytes) : Bool := decide (ipNext pkt = 17 ∧ 48 ≤ pkt.length)
def udpPort (pkt : Bytes) : Nat := netRd pkt 42 2

/-- Solicited-node group of an address, and all nodes. -/
def solicited (a : Bytes) : Bytes := netBytes 16 (0xFF02 * 2 ^ 112 + 2 ^ 32 + 0xFF000000 + netNat (a.drop 13))
def allNodes : Bytes := netBytes 16 (0xFF02 * 2 ^ 112 + 1)

/-- PEER_ADDR. -/
def peerAddr (s : Chip) : Bytes := ((List.range 4).map fun i => netBytes 4 (pairCfg s (4 + i))).flatten

/-- PCP of a tagged frame, else the packet's traffic class (R311). -/
def framePri (f pkt : Bytes) : Nat := if (vlanTag f).isEmpty then tcPri pkt else be16 f 14 / 2 ^ 13

/-- A downlink packet in the prefix memory (R299); TUNNEL serves uplink only. -/
def routeDown (p pri : Nat) (pkt : Bytes) (s : Chip) : Chip :=
  let t := fwdCfg s (8 + p)
  match routeFind s t (netNat (ipDst pkt)) with
  | none => fwdMiss t s
  | some (_, r) =>
    match r.action with
    | 1 => sendUp ⟨pkt, false, r.nh, 0, 0, false, 0, 0, 0, (0, 0)⟩ false none (bump (fwdCnt 0x14) 1 s)
    | 2 => ingress p pri pkt (crc32c pkt) (bump (fwdCnt 0x14) 1 s)
    | 4 => toSwq r.nh 5 (wordsOf pkt) (bump (fwdCnt 0x0C) 1 s)
    | _ => bump (fwdCnt 0x04) 1 s

/-- IPv6 rows 4 to 7. -/
def ipv6Receive (p : Nat) (f : Bytes) (s : Chip) : Chip :=
  let pkt := ipOf f
  let (me, dst) := (portIp s p, ipDst pkt)
  let pri := framePri f pkt
  if isUdp pkt && decide (dst = me ∧ peerAddrSet s = true ∧ ipSrc pkt = peerAddr s ∧ udpPort pkt = pairCfg s 8) then s
  else if isUdp pkt && decide (dst = me ∧ udpPort pkt = fwdCfg s 1) then
    ingress (4 + p) pri pkt (crc32c (pkt.drop 64)) s
  else if dst = me ∨ dst = solicited me ∨ dst = allNodes then toSwq (cfgGet s 0x0C01 4) 3 (wordsOf f) s
  else if dst.getD 0 0 ≠ 0xFF then routeDown p pri pkt s
  else rxDiscard p s

/-- Rows 2 to 8. -/
def classify (p : Nat) (f : Bytes) (s : Chip) : Chip :=
  if etherType f = 0x88B5 then (if pdOn s 1 then mgmtReceive p f s else s)
  else if ptpTakes s p f then ptpReceive p f s
  else if etherType f = 0x86DD then ipv6Receive p f s
  else if etherType f = 0x0806 ∨ etherType f = 0x0800 then toSwq (cfgGet s 0x0C01 4) 3 (wordsOf f) s
  else rxDiscard p s

/-- The stream with ELIM = 1 that a frame to the port belongs to. -/
def elimStream (s : Chip) (p : Nat) (f : Bytes) : Option Nat :=
  if (vlanTag f).isEmpty ∨ f.take 6 ≠ portMac p s then none
  else (List.range 16).find? fun i => bitOf (streamCfg s i) 13 && pairVid s i = be16 f 14 % 4096

/-- Row 1: sequence recovery, then the rest of the table without the tag. -/
def recoverRow (p st : Nat) (f : Bytes) (s : Chip) : Chip :=
  if etherType f ≠ 0xF1C1 then
    (if cfgGet s 0x0C01 3 = 1 then classify p f s else bump (ethCnt p 0x24) 1 s)
  else
    let o := typeOff f
    match (s.pair.rcvy.get st).check (be16 f (o + 4)) (cfgGet s 0x0C01 1) s.now with
    | .pass r => classify p (f.take o ++ f.drop (o + 6)) (pairUpd (fun x => { x with rcvy := x.rcvy.set st r }) s)
    | .duplicate => bump (ethCnt p 0x1C) 1 s
    | .rogue => raiseRogue p (bump (ethCnt p 0x20) 1 s)

/-- ETH_FRAME_RECEIVE: a frame without its FCS. -/
def execEthFrameReceive (p : Fin 2) (frame : Bytes) (fcsOk : Bool) (s : State) : Out :=
  s.on fun s =>
  .next (if !pdOn s 9 || !(s.eth.get p.val).link then s
    else if !fcsOk then rxDiscard p.val (raiseFcs p.val s)
    else if frame.length + 4 < 64 ∨ ethCfg s p.val 4 < frame.length + 4 ∨ badTags frame = true then rxDiscard p.val s
    else
      let s := bump (ethCnt p.val 0x00) 1 s
      if isPause s p.val frame && decide (ethCfg s p.val 5 = 1) then
        let t := be16 frame 16 * quantum (s.eth.get p.val).speed / 10
        ethUpd p.val (fun e => { e with pauseEnd := if t = 0 then none else some (s.now + t) }) s
      else if !forPort s p.val frame then s
      else match elimStream s p.val frame with
        | some st => recoverRow p.val st frame s
        | none => classify p.val frame s)

/-! ## Transmission (R342, R343) -/

/-- ETH_TX_SUBMIT: the next frame of queue 33 or 34. -/
def execEthTxSubmit (p : Fin 2) (s : State) : Out :=
  s.on fun s =>
  .next (match nextItem (33 + p.val) s with
    | none => s
    | some (k, s') =>
      match k.kind with
      | .mark => s'
      | .abort => abortCompletion (33 + p.val) k s'
      | .data =>
        let f := bytesOf k.words
        ethQueue p.val (if (vlanTag f).isEmpty then 0 else be16 f 14 / 2 ^ 13) f (some (.item 4 (firstWord k.words))) s')

/-- The frame that leaves next: PCP 7 first. -/
def EthPort.pop (e : EthPort) : Option ((Bytes × Option FrameEnd) × EthPort) :=
  match (List.range 8).find? fun i => !(e.egress.get (7 - i)).isEmpty with
  | some i =>
    match e.egress.get (7 - i) with
    | f :: l => some (f, { e with egress := e.egress.set (7 - i) l })
    | [] => none
  | none => none

/-- ETH_TX_COMPLETE: the last byte of the frame that leaves next has left the MII; a PTP message takes its stamp (R268). -/
def execEthTxComplete (p : Fin 2) (s : State) : Out :=
  s.on fun s =>
  .next (if !pdOn s 9 || !(s.eth.get p.val).link || paused s p.val then s
    else match (s.eth.get p.val).pop with
      | some (f, e) =>
        let (g, s) := ptpDepart p.val f.1 (ethUpd p.val (fun _ => e) s)
        ethCompl f.2 stOk (bump (ethCnt p.val 0x04) 1 (ethUpd p.val (fun e => { e with sent := e.sent ++ [g] }) s))
      | none => s)

/-! ## Commands (R365) -/

/-- ETH_PORT_STATp (Table 12.6). -/
def ethPortStat (s : Chip) (p : Nat) : Nat :=
  let e := s.eth.get p
  pack [(0, 1, b2n e.link), (1, 3, e.speed), (4, 1, b2n e.rxInv), (5, 1, b2n e.pauseEnd.isSome), (6, 1, ethCfg s p 2),
    (16, 16, e.downs)]

/-- ETH_STATUS. -/
def execEthStatus (c : CmdRef) (s : State) : Out :=
  s.on fun s =>
  runCmd c 0x0900 s fun m =>
    let p := rd m.params 0 1
    checked c (ck 0 (p ≤ 1) :: maskAt m.params 1 1 ++ zeroAt m.params 2 2) fun s =>
      let (b, t) := counters (ethCnt p 0) 10 (bitOf (rd m.params 1 1) 0) s
      complete c stOk (wr 4 (ethPortStat s p) ++ b) t

/-- New settings of a port take its link down where ADMIN is 0 or SPEED has changed (R339). -/
def portInForce (p oldSpeed : Nat) (s : Chip) : Chip :=
  if ethCfg s p 2 = 0 ∨ ethCfg s p 3 ≠ oldSpeed then linkDown p s else s

/-- ETH_PORT_SET. -/
def execEthPortSet (c : CmdRef) (s : State) : Out :=
  s.on fun s =>
  runCmd c 0x0901 s fun m =>
    let x := m.params
    let p := rd x 0 1
    checked c ([ck 0 (p ≤ 1)] ++ maskAt x 1 1 ++ [ck 2 (rd x 2 1 ≤ 6)] ++ maskAt x 3 1 ++
        [(4, within 1518 9216 (rd x 4 2)), ck 6 (rd x 6 2 < 2 ^ 13), ck 8 (rd x 8 1 ≤ 7)] ++ zeroAt x 9 3) fun s =>
      let old := ethCfg s p 3
      let set := fun (k v : Nat) (s : Chip) => cfgSet 0x0C01 (ethId p k) v s
      let s := set 2 (rd x 1 1) (set 3 (rd x 2 1) (set 5 (rd x 3 1) (set 4 (rd x 4 2) (set 6 (rd x 6 2) (set 7 (rd x 8 1) s)))))
      complete c stOk [] (portInForce p old s)

/-- ETH_HOST_SET. -/
def execEthHostSet (c : CmdRef) (s : State) : Out :=
  s.on fun s =>
  runCmd c 0x0902 s fun m =>
    let x := m.params
    let (p, n) := (rd x 0 1, rd x 1 1)
    checked c ([ck 0 (p ≤ 1), ck 1 (n ≤ 3)] ++ maskAt x 2 1 ++ zeroAt x 3 1 ++ zeroAt x 10 2) fun s =>
      let s := cfgSet 0x0C01 (ethId p (12 + 2 * n)) (netRd x 4 2 + rd x 2 1 * 2 ^ 16) s
      complete c stOk [] (cfgSet 0x0C01 (ethId p (13 + 2 * n)) (netRd x 6 4) s)

/-- ETH_RTAG_STATUS. -/
def execEthRtagStatus (c : CmdRef) (s : State) : Out :=
  s.on fun s =>
  runCmd c 0x0903 s fun m =>
    let n := rd m.params 0 1
    checked c (ck 0 (n ≤ 15) :: zeroAt m.params 1 3) fun s =>
      complete c stOk (wr 2 (s.pair.next.get n) ++ wr 2 (s.pair.solo.get n) ++ wr 2 (s.pair.rcvy.get n).accepted ++ zeros 2) s

end Sys2Proof.Machine
end

