-- ==== Sys2Proof/Machine/Trade.lean ====
section
/-! DEFINITION. Trade (R310 to R323, R333): queues, enqueueing, gate windows, planning a launch, mirrors. -/

namespace Sys2Proof.Machine

/-! ## Settings (Tables 11.1 and 11.7) -/

/-- The two words of a queue. -/
def qWord (s : Chip) (n k : Nat) : Nat := cfgGet s (0x0B40 + n / 64) (0x100 + 2 * (n % 64) + k)

def qEn (s : Chip) (n : Nat) : Bool := bitOf (qWord s n 0) 0
def qPrio (s : Chip) (n : Nat) : Nat := fld (qWord s n 0) 1 3
def qShaped (s : Chip) (n : Nat) : Bool := bitOf (qWord s n 0) 4
def qShaper (s : Chip) (n : Nat) : Nat := fld (qWord s n 0) 5 8
def qGate (s : Chip) (n : Nat) : Nat := fld (qWord s n 0) 13 5
def qGateBit (s : Chip) (n : Nat) : Nat := fld (qWord s n 0) 18 3
def qProfile (s : Chip) (n : Nat) : Nat := fld (qWord s n 0) 21 4
def qLimit (s : Chip) (n : Nat) : Nat := fld (qWord s n 1) 0 12
def qMaxWait (s : Chip) (n : Nat) : Nat := fld (qWord s n 1) 16 16

/-- Field `k` of profile `p`. -/
def prof (s : Chip) (p k : Nat) : Nat := cfgGet s 0x0B01 (0x100 + 8 * p + k)

/-- Entry `e` of the queue selector (R311). -/
def qSel (s : Chip) (e : Nat) : Nat := fld (cfgGet s 0x0B02 (1 + e / 2)) (e % 2 * 16) 12

/-- Address of a counter of SCH_CNT. -/
def schCnt (off : Nat) : Nat := 0x0B0010 + off

def queue (s : Chip) (n : Nat) : List TFrame := s.sch.queues.get n
def queueUpd (n : Nat) (f : List TFrame → List TFrame) (s : Chip) : Chip :=
  schUpd (fun r => { r with queues := r.queues.upd n f }) s

/-! ## Enqueueing (R310 to R312) -/

/-- PSDU bytes that Trade's frames hold of the 4 MiB packet buffer (DEDUCED, assumption 43). -/
def bufferUsed (s : Chip) : Nat := sumN (s.sch.queues.ents.map fun e => sumN (e.2.map fun f => f.psdu.length))

/-- The queue cannot take a frame of a length. -/
def queueFull (s : Chip) (n len : Nat) : Bool :=
  decide (qLimit s n ≤ (queue s n).length) || decide (4194304 < bufferUsed s + len)

/-- A tail drop; EV_QUEUE_DROP at most once per queue per second (R312). -/
def tailDrop (n : Nat) (s : Chip) : Chip :=
  let s := bump (schCnt 0x0C) 1 s
  let k := s.sch.drops.get n + 1
  if limFree 86 n nsSec s then
    raiseLim 86 n nsSec (pack [(0, 12, n), (32, 32, k)]) (schUpd (fun r => { r with drops := r.drops.set n 0 }) s)
  else schUpd (fun r => { r with drops := r.drops.set n k }) s

/-- A frame for Trade, before it has a number. -/
structure NewFrame where
  psdu : Bytes
  child : BitVec 64
  node : BitVec 64
  band : Nat
  cls : Nat
  pri : Nat
  ctr : Nat
  digest : Nat
deriving DecidableEq, Repr

/-- The queue that R311 selects. -/
def NewFrame.queue (s : Chip) (f : NewFrame) : Nat := qSel s (128 * f.band + 8 * f.cls + f.pri)

/-- A frame enters its queue. -/
def enqueue (f : NewFrame) (s : Chip) : Chip :=
  let t : TFrame := ⟨s.sch.frameNo, f.psdu, f.child, f.node, f.band, f.ctr, f.digest, s.now, false⟩
  queueUpd (f.queue s) (· ++ [t]) (schUpd (fun r => { r with frameNo := r.frameNo + 1 }) (bump (schCnt 0x00) 1 s))

/-- A frame from the backhaul enters its queue or is dropped. -/
def enqueueOrDrop (f : NewFrame) (s : Chip) : Chip :=
  let n := f.queue s
  if !qEn s n then bump (schCnt 0x0C) 1 s
  else if queueFull s n f.psdu.length then tailDrop n s
  else enqueue f s

/-! ## Gate windows (R319 to R323) -/

/-- Cycle of a list in ns. -/
def GList.cycle (g : GList) : Nat := sumN (g.entries.map fun e => e / 256) * 1000

/-- Spans of one pass over the entries from an instant on: start, end, states. -/
def passFrom : Nat → List Nat → List (Nat × Nat × Nat)
  | _, [] => []
  | t, e :: l => (t, t + e / 256 * 1000, e % 256) :: passFrom (t + e / 256 * 1000) l

/-- Joins consecutive spans whose bit is open. -/
def joinOpen (bit : Nat) : List (Nat × Nat × Nat) → List (Nat × Nat)
  | [] => []
  | (a, b, g) :: l =>
    let rest := joinOpen bit l
    if bitOf g bit then
      match rest with
      | (c, d) :: r => if c = b then (a, d) :: r else (a, b) :: rest
      | [] => [(a, b)]
    else rest

/-- Windows of a gate bit around an instant: four cycles, from the one before it on. -/
def GList.windows (g : GList) (bit t : Nat) : List (Nat × Nat) :=
  let c := g.cycle
  let start : Int := (g.base : Int) + (((t : Int) - g.base).fdiv c - 1) * (c : Nat)
  let l := (passFrom 0 (g.entries ++ g.entries ++ g.entries ++ g.entries)).map fun e => (e.1, e.2.1, e.2.2)
  (joinOpen bit l).map fun w => ((start + (w.1 : Nat)).toNat, (start + (w.2 : Nat)).toNat)

/-- Every entry is open at a bit. -/
def GList.always (g : GList) (bit : Nat) : Bool := g.entries.all fun e => bitOf e bit

/-- The longest window in one cycle; none when the gate never closes (R321). -/
def GList.longest (g : GList) (bit : Nat) : Option Nat :=
  if g.always bit then none else some (((g.windows bit g.base).map fun w => w.2 - w.1).foldl max 0)

/-- The first instant from `t` on (2⁻¹⁶ ns of the list's domain) at which an emission of `air` ns lies within one window. -/
def GList.fit (g : GList) (bit t air : Nat) : Option Nat :=
  if g.always bit then some t
  else
    ((g.windows bit (t / 2 ^ 16)).filterMap fun w =>
      let u := max t (w.1 * 2 ^ 16)
      if u + ns16 air ≤ w.2 * 2 ^ 16 then some u else none).head?

/-- Lists of a gate that bear on the future: the list, from and until when, in 2⁻¹⁶ ns relative to now (R322). -/
def gateLists (s : Chip) (n : Nat) : List (GList × Option Int × Option Int) :=
  let g := s.sch.gates.get n
  let rel := fun (l : GList) (t : Nat) => (ns16 t : Int) - (tdNow16 s l.dom : Int)
  match g.cur, g.next with
  | none, none => []
  | some l, none => [(l, none, none)]
  | none, some (l, t) => [(l, some (rel l t), none)]
  | some k, some (l, t) => [(k, none, some (rel l t)), (l, some (rel l t), none)]

/-- The first instant from `t` on that fits a window of a list within its reign. -/
def fitList (s : Chip) (bit air : Nat) (t : Int) (e : GList × Option Int × Option Int) : Option (Int × Nat) :=
  let now := (tdNow16 s e.1.dom : Int)
  let t := match e.2.1 with
    | some a => max a t
    | none => t
  match e.1.fit bit (now + t).toNat air with
  | some u =>
    let u := (u : Int) - now
    let ok := match e.2.2 with
      | some b => decide (u + (ns16 air : Int) ≤ b)
      | none => true
    if ok then some (u, e.1.dom) else none
  | none => none

/-- The first instant from `t` on that fits a window of queue `n`, and the domain of the launch (R314, R316). -/
def fitGate (s : Chip) (n air : Nat) (t : Int) : Option (Int × Nat) :=
  if qGate s n = 16 then some (t, s.time.stampDom)
  else (gateLists s (qGate s n)).findSome? (fitList s (qGateBit s n) air t)

/-- The airtime fits no window that the gate will ever have (R321). -/
def gateOverrun (s : Chip) (n air : Nat) : Bool :=
  let l := gateLists s (qGate s n)
  decide (qGate s n ≠ 16) && !l.isEmpty && l.all fun e =>
    match e.1.longest (qGateBit s n) with
    | some w => decide (w < air)
    | none => false

/-! ## Planning (R314 to R317) -/

/-- PHY word of a frame at a location and profile (Table 8.1, R314). -/
def tradePhy (s : Chip) (n : NodeEnt) (p : Nat) : Nat :=
  if n.fsk then pack [(0, 2, n.mode), (2, 2, chanMod s n.channel), (4, 1, 1), (6, 1, 1), (8, 10, prof s p 4)]
  else pack [(0, 4, n.mode), (4, 2, n.bw), (8, 8, prof s p 3), (16, 12, n.netid)]

/-- Launch of a frame without its carrier, T and domain. -/
def tradeLaunch (s : Chip) (q : Nat) (f : TFrame) (n : NodeEnt) : Launch :=
  let p := qProfile s q
  let phy := tradePhy s n p
  { no := s.tx.count, src := .trade, id := 0x80000000 + s.sch.count, carrier := 0, port := prof s p 0, dom := 0
    asap := false, simulcast := false, fsk := n.fsk, level := toS 32 (prof s p 2), clamped := false, t := 0
    freq := fld (cfgGet s 0x0602 (0x100 + n.channel)) 14 15, len := f.psdu.length, phy := phy, psdu := f.psdu
    airNs := airOf n.fsk phy f.psdu.length, emitted := 0, held := false, heldAt := 0, loaded := false, phase := 0
    ended := none, stopped := false, suppressed := false, unlocked := false, cmd := none, store := false, probe := none
    measured := false, phyCfg := 0, biasAt := none, enAt := none, startAt := none, frame := f.no, node := f.node }

/-- Rounds a domain time up to a step of 10 ps (R316). -/
def step10ps (t : Nat) : Nat := ((t * 100 + 65535) / 65536 * 65536 + 99) / 100

/-- The earliest T of a launch on its carrier from `t` on, relative to now, with its domain; and whether the ledger refused
an earlier one (R316). `last`: no later than this. -/
def searchT : Nat → Chip → Nat → Launch → Int → Int → Option (Int × Nat) × Bool
  | 0, _, _, _, _, _ => (none, false)
  | k + 1, s, q, l, t, last =>
    if last < t then (none, false)
    else match fitGate s q l.airNs (max t (calEnd s)) with
    | none => (none, false)
    | some (u, d) =>
      let v : Int := ((step10ps ((tdNow16 s d : Int) + u).toNat : Nat) : Int) - (tdNow16 s d : Int)
      let w := freeFrom 130 s l v
      if last < w then (none, false)
      else if v < w then searchT k s q l w last
      else match fitGate s q l.airNs v with
      | some (x, e) =>
        if v < x ∨ e ≠ d then searchT k s q l (max x (v + 1)) last
        else match regBooking s l v with
        | none => (some (v, d), false)
        | some (n, b) =>
          if admits s n b then (some (v, d), false)
          else match nextAdmit s n b with
            | some a => ((searchT k s q l (max (v + 1) ((ns16 a : Int) - (tdNow16 s s.time.stampDom : Int))) last).1, true)
            | none => (none, true)
      | none => (none, false)

/-- The best carrier of a mask: the earliest T, the lowest number on a tie (R316). -/
def bestCarrier (s : Chip) (q : Nat) (l : Launch) (t last : Int) (mask : Nat) : Option (Launch × Int) × Bool :=
  ((List.range 4).filter (bitOf mask)).foldl (fun acc k =>
    match searchT 64 s q { l with carrier := k } t last with
    | (some (u, d), r) =>
      let new := some ({ l with carrier := k, dom := d, t := ((tdNow16 s d : Int) + u).toNat }, u)
      (match acc.1 with
        | some b => if u < b.2 then new else acc.1
        | none => new, acc.2 || r)
    | (none, r) => (acc.1, acc.2 || r)) (none, false)

/-- What planning does with the head of a queue. -/
inductive Fate where
  /-- Not eligible; whether the regulatory ledger is why. -/
  | wait (reg : Bool)
  | stale
  | overrun
  | plan (l : Launch) (reg : Bool)
deriving DecidableEq, Repr

/-- The location at which a frame's direct child is reached now (R314, R317); none where it has none in the frame's band, or
the profile's PORT is of another band. -/
def frameLoc (s : Chip) (q : Nat) (f : TFrame) : Option NodeEnt :=
  match findNode s f.child with
  | some (_, n) =>
    if n.locValid ∧ n.channel / 64 = f.band ∧ portBand s (prof s (qProfile s q) 0) = f.band + 1 then some n else none
  | none => none

/-- The launch of queue `q`'s head planned, or the queue not eligible (R315, R316). A PD5 or band state makes it wait; another
cause of check 2 does not. -/
def planLaunch (s : Chip) (q : Nat) (l : Launch) : Fate :=
  if drawn s (qShaped s q) (qShaper s q) && decide (tokensNow s (qShaper s q) < 0) then .wait false
  else if disabledBy s l = some 0 ∨ (freeEntry s l).isNone then .wait false
  else
    let t0 : Int := (ns16 (leadMin s + (if s.pair.st = 3 then pairCfg s 0xE * nsUs else 0)) : Int)
    match bestCarrier s q l t0 (ns16 (cfgGet s 0x0B01 1 * nsUs) : Int) (prof s (qProfile s q) 1) with
    | (some (l, _), r) => .plan l r
    | (none, r) => .wait r

/-- The head of queue `q` (R313 to R317, R321, R325). A head without a location is discarded when its queue is eligible; its
airtime being unknown, for an emission without any (DEDUCED, assumption 97). -/
def headFate (s : Chip) (q : Nat) (f : TFrame) : Fate :=
  let aged := decide (qMaxWait s q ≠ 0 ∧ f.at_ + qMaxWait s q * nsMs ≤ s.now)
  if f.planned ∨ aged then .wait false
  else match frameLoc s q f with
  | some n =>
    let l := tradeLaunch s q f n
    if gateOverrun s q l.airNs then .overrun else planLaunch s q l
  | none =>
    match planLaunch s q { tradeLaunch s q f (NodeEnt.fresh f.child 0) with freq := bandLow f.band, airNs := 0 } with
    | .plan _ _ => .stale
    | _ => .wait false

/-- Order of service: the highest PRIO, then the first queue after the one last planned at that PRIO (R315). -/
def serveFirst (s : Chip) : List (Nat × TFrame × Fate) → Option (Nat × TFrame × Fate)
  | [] => none
  | e :: l =>
    match serveFirst s l with
    | some b =>
      let rank := fun (x : Nat × TFrame × Fate) => (x.1 + 4096 - (s.sch.last.get (qPrio s x.1) + 1) % 4096) % 4096
      if qPrio s e.1 < qPrio s b.1 ∨ (qPrio s e.1 = qPrio s b.1 ∧ rank b < rank e) then some b else some e
    | none => some e

/-- Not a head that waits. -/
def Fate.acts : Fate → Bool
  | .wait _ => false
  | _ => true

/-- The ledger refused the head an instant. -/
def Fate.reg : Fate → Bool
  | .wait r => r
  | .plan _ r => r
  | _ => false

/-- Heads of the queues that hold frames, with their fates. -/
def heads (s : Chip) : List (Nat × TFrame × Fate) :=
  s.sch.queues.ents.filterMap fun e => match e.2 with
    | f :: _ => some (e.1, f, headFate s e.1 f)
    | [] => none

/-- Discards the head of a queue. -/
def dropHead (q off : Nat) (s : Chip) : Chip := queueUpd q (fun l => l.drop 1) (bump (schCnt off) 1 s)

/-- The owner's mirror of a launch (R356). -/
def sendMirror (l : Launch) (node : BitVec 64) (ctr digest : Nat) (s : Chip) : Chip :=
  if s.pair.st = 3 ∧ s.pair.owner then
    bump (pairCnt 0x00) 1 (tellPeer (.mirror (launchDesc l) node ctr digest) s)
  else s

/-- Field checks 1 of Table 8.2 that a Trade launch can fail: its length. -/
def tradeLenOk (s : Chip) (l : Launch) : Bool :=
  within 1 (if l.fsk then cfgGet s 0x0701 5 - 2 else 255) l.len

/-- Takes a launch for the head of a queue: Data Whitening of SUN-FSK is not stated (DEDUCED, assumption 42). -/
def takeHead (q : Nat) (f : TFrame) (l : Launch) (s : Chip) : Chip :=
  if !tradeLenOk s l then dropHead q 0x08 s
  else
    let (w, s) := freeNat 1 s
    let l := if l.fsk then { l with phy := setFld l.phy 5 1 w } else l
    let (_, e, s) := submit l s
    let s := schUpd (fun r => { r with count := (r.count + 1) % 2 ^ 30, last := r.last.set (qPrio s q) q }) s
    match e with
    | none => dropHead q 0x08 s
    | some e =>
      let s := if drawn s (qShaped s q) (qShaper s q) then
          deduct (qShaper s q) (if shp s (qShaper s q) 0 = 1 then chargeBytes l.len 2 (shpOverhead s (qShaper s q))
            else chargeUs l.airNs l.tbyte (shpOverhead s (qShaper s q))) s
        else s
      let s := queueUpd q (fun x => x.map fun g => if g.no = f.no then { g with planned := true } else g) s
      sendMirror ((s.tx.entries.get e).getD l) f.node f.ctr f.digest s

/-- Trade runs: service is open, PD7 and PD8 are on, and in a pair this unit owns (R356, Table 11.3). -/
def tradeRuns (s : Chip) : Bool := s.boot.service && pdOn s 7 && pdOn s 8 && !notOwner s

/-- TRADE_PLAN: one head is planned or discarded. -/
def execTradePlan (s : State) : Out :=
  s.on fun s =>
  .next (if !tradeRuns s || goingDown s 5 || goingDown s 7 then s
    else
      let hs := heads s
      let reg := hs.filter fun e => e.2.2.reg
      let s := schUpd (fun r => { r with regWait := reg.map (·.1) }) s
      let s := forEach reg (fun e s =>
        match findNode s e.2.1.child with
        | some (_, n) => (match regShaper s (n.channel / 64) (fld (cfgGet s 0x0602 (0x100 + n.channel)) 14 15) with
          | some k => raiseDuty k s
          | none => s)
        | none => s) s
      match serveFirst s (hs.filter fun e => e.2.2.acts) with
      | none => s
      | some (q, f, fate) =>
        match fate with
        | .wait _ => s
        | .stale => dropHead q 0x14 s
        | .overrun =>
          raiseLim 85 q nsSec (pack [(0, 4, qGate s q), (16, 12, q)]) (dropHead q 0x18 s)
        | .plan l _ => takeHead q f l s)

/-- HEAD_EXPIRE (R313): a head that is not planned and has waited MAX_WAIT. -/
def execHeadExpire (q : Fin 4096) (s : State) : Out :=
  s.on fun s =>
  .next (match queue s q.val with
    | f :: _ =>
      if !f.planned && decide (qMaxWait s q.val ≠ 0 ∧ f.at_ + qMaxWait s q.val * nsMs ≤ s.now) then dropHead q.val 0x10 s else s
    | [] => s)

/-- GATE_LIST_SWITCH (R322). -/
def execGateListSwitch (n : Fin 16) (s : State) : Out :=
  s.on fun s =>
  .next (match (s.sch.gates.get n.val).next with
    | some (l, t) =>
      if pdOn s 7 && decide (t ≤ (tdGet s l.dom).ns) then
        raise 87 n.val (schUpd (fun r => { r with gates := r.gates.set n.val ⟨some l, none, t⟩ }) s)
      else s
    | none => s)

end Sys2Proof.Machine
end

