-- ==== Sys2Proof/Machine/Downlink.lean ====
section
/-! DEFINITION. The downlink of the frame engine (R287, R295 to R297, R305) and beacons (R273, R274). -/

namespace Sys2Proof.Machine

/-! ## Frame counters (R287, R377) -/

/-- EV_KEY_EXHAUST, once per key handle. -/
def raiseExhaust (h : Nat) (s : Chip) : Chip :=
  if s.sec.exhausted.contains h then s else raise 104 h (secUpd (fun v => { v with exhausted := h :: v.exhausted }) s)

/-- The key under which a handle's downlink is encrypted: the encrypt twin (R374). -/
def encKey (s : Chip) (h : Nat) : Option Key :=
  if h = 0 then none
  else match liveKey s (h + 1) with
    | some k => if k.attr = 0 then some k else none
    | none => none

/-- First counter that is refused, and the one that raises EV_KEY_EXHAUST. -/
def ctrStop : Nat := 0xFFFFFFF0
def ctrWarn : Nat := 0xF0000000

/-- What a frame is secured with: key material and counter, or the status that refuses it. -/
abbrev Drawn := (Bytes × Nat) ⊕ Nat

/-- Refusals are counted. -/
def refuseKey (st : Nat) (s : Chip) : Drawn × Chip :=
  (.inr st, bump (if st = stKeyExhausted then nodeCnt 0x28 else nodeCnt 0x24) 1 s)

/-- Takes TX_CTR of a node's entry. -/
def takeNodeCtr (i : Nat) (n : NodeEnt) (s : Chip) : Drawn × Chip :=
  match encKey s n.handle with
  | none => refuseKey stKeyOrphaned s
  | some k =>
    if ctrStop ≤ n.txCtr then refuseKey stKeyExhausted s
    else
      let s := nodePut i { n with txCtr := n.txCtr + 1 } s
      (.inl (k.mat, n.txCtr), if ctrWarn ≤ n.txCtr + 1 then raiseExhaust n.handle s else s)

/-- Takes the vault's counter of the encrypt twin of a group key; a persistent twin's reservation runs ahead of it. -/
def takeGroupCtr (h : Nat) (s : Chip) : Drawn × Chip :=
  match encKey s h with
  | none => refuseKey stKeyOrphaned s
  | some k =>
    if ctrStop ≤ k.counter then refuseKey stKeyExhausted s
    else
      let c := k.counter + 1
      let grow := k.persist && decide (k.reserve < c)
      let s := secUpd (fun v => { v with keys := v.keys.map fun e =>
        if e.handle = k.handle then { e with counter := c, reserve := if grow then c + 65536 else e.reserve } else e }) s
      let s := if grow then jWrite s else s
      (.inl (k.mat, k.counter), if ctrWarn ≤ c then raiseExhaust k.handle s else s)

/-! ## Securing (R287, R302) -/

/-- Header and payload under CCM*: the frame and its MIC. -/
def sealFrame (key : Bytes) (src : BitVec 64) (ctr level : Nat) (hdr payload : Bytes) : Bytes :=
  hdr ++ Config.ccmSeal key (nonceOf src ctr level) hdr payload (micLen level)

/-- A secured frame with the counter used, or the status that refuses it. -/
abbrev Sealed := (Bytes × Nat) ⊕ Nat

/-- A refusal for want of a key. -/
def noKeyFrame (s : Chip) : Sealed × Chip := (.inr stKeyOrphaned, (refuseKey stKeyOrphaned s).2)

/-- A frame whose auxiliary security header is present (Table 10.5): its counter field is overwritten and its level is DL_SEC_LEVEL
(R287); Key Identifier Mode 1 takes the group key of its key index, Mode 0 the key of `own` (DEDUCED, assumption 39). -/
def secureFrame (f : Bytes) (own : Chip → Drawn × Chip) (s : Chip) : Sealed × Chip :=
  match parseMhr f with
  | none => noKeyFrame s
  | some m =>
    if !m.sec || m.ctrSupp || decide (2 ≤ m.kim) then noKeyFrame s
    else
      let lv := frmCfg s 2
      let (d, s) := if m.kim = 1 then takeGroupCtr (groupHandle s m.keyIdx) s else own s
      match d with
      | .inr st => (.inr st, s)
      | .inl (key, ctr) =>
        let sc := rd f (m.ctrOff - 1) 1
        let hdr := f.take (m.ctrOff - 1) ++ [byte (setFld sc 0 3 lv)] ++ wr 4 ctr ++ (f.take m.len).drop (m.ctrOff + 4)
        (.inl (sealFrame key (ownEui s) ctr lv hdr (f.drop m.len), ctr), s)

/-! ## Source routes (R295, R296) -/

/-- The path from the direct child down to a node: its entries; none where the walk fails. -/
def walkPath (s : Chip) : Nat → List (BitVec 64) → List NodeEnt → BitVec 64 → Option (List NodeEnt)
  | k, seen, acc, e =>
    match findNode s e with
    | none => none
    | some (_, n) =>
      if !n.rplValid || later 32 (tuSec s) n.pathExp || seen.contains e then none
      else if n.depth = 1 then (if n.locValid then some (n :: acc) else none)
      else match k with
        | 0 => none
        | k + 1 => walkPath s k (e :: seen) (n :: acc) n.parent

def pathTo (s : Chip) (e : BitVec 64) : Option (List NodeEnt) := walkPath s (fwdCfg s 0xA) [] [] e

/-- No path: EV_RPL_ROUTE_MISS, RPL_MISS. -/
def rplMiss (e : BitVec 64) (s : Chip) : Chip := raise 77 e.toNat (bump (fwdCnt 0x08) 1 s)

/-- Band of a location. -/
def NodeEnt.band (n : NodeEnt) : Nat := n.channel / 64

/-- An RFC 6554 Source Routing Header without compression, for the hops after the direct child (DEDUCED, assumption 38). -/
def srhBytes (next : Nat) (pfx : Bytes) (hops : List NodeEnt) : Bytes :=
  [byte next, byte (2 * hops.length), 3, byte hops.length] ++ zeros 4 ++ hops.flatMap fun h => pfx ++ iidOf h.eui

/-- The MAC payload of an IPv6 packet along a path: IPHC and UDP NHC, the routing header inline (R295). -/
def compress (s : Chip) (path : List NodeEnt) (pkt : Bytes) : Bytes :=
  let child := (path.head?.map NodeEnt.eui).getD 0
  let (src, dst) := (iidOf (ownEui s), iidOf child)
  let hops := path.drop 1
  if hops.isEmpty then iphcPack s src dst pkt
  else
    let pfx := (ipDst pkt).take 8
    let p := pkt.take 6 ++ [43] ++ (pkt.drop 7).take 17 ++ pfx ++ iidOf child
    iphcPack s src dst (p ++ srhBytes (ipNext pkt) pfx hops ++ pkt.drop 40)

/-- Octets of the downlink data frame of an IPv6 packet, secured under the destination's KEY (R287). -/
def buildFrame (s : Chip) (path : List NodeEnt) (pkt key : Bytes) (ctr seq : Nat) : Bytes :=
  let child := (path.head?.map NodeEnt.eui).getD 0
  let hdr := Config.macHead seq (euiBytes child).reverse (euiBytes (ownEui s)).reverse ++ [byte (frmCfg s 2)] ++ wr 4 ctr
  sealFrame key (ownEui s) ctr (frmCfg s 2) hdr (compress s path pkt)

/-- What goes to Trade for a destination at the end of a path. -/
def tradeFrame (path : List NodeEnt) (psdu : Bytes) (pri ctr digest : Nat) : Option NewFrame :=
  match path.head?, path.getLast? with
  | some c, some d => some ⟨psdu, c.eui, d.eui, c.band, d.cls, pri, ctr, digest⟩
  | _, _ => none

/-- A node's bucket that the takeover visit has not reached is visited ahead of its turn (R357). -/
def visitFirst (e : BitVec 64) (s : Chip) : Chip :=
  let b := bucketOf s e
  if s.pair.visiting && !s.pair.visited.contains b then
    let s := feUpd (fun f => { f with nodes := f.nodes.map fun x =>
      if x.1 / 4 = b ∧ x.2.handle ≠ 0 then (x.1, { x.2 with txCtr := min 0xFFFFFFFF (x.2.txCtr + pairCfg s 0x10) }) else x }) s
    pairUpd (fun p => { p with visited := b :: p.visited }) s
  else s

/-- A downlink IPv6 packet. -/
def downPacket (pri : Nat) (pkt : Bytes) (s : Chip) : Chip :=
  let e := euiOfIid ((ipDst pkt).drop 8)
  let s := visitFirst e s
  match pathTo s e, findNode s e with
  | some path, some (i, n) =>
    let (d, s) := takeNodeCtr i n s
    (match d with
      | .inr _ => s
      | .inl (key, ctr) =>
        let (seq, s) := freeNat 8 s
        match tradeFrame path (buildFrame s path pkt key ctr seq) pri ctr (crc32c pkt) with
        | some f => enqueueOrDrop f s
        | none => s)
  | _, _ => toSwq (frmCfg s 6) 2 (wordsOf pkt) (rplMiss e s)

/-! ## TYPE 2 packets and injection (R297, R302, Table 10.5) -/

/-- A downlink frame in the form of Table 10.5. -/
structure Inject where
  secure : Bool
  dest : BitVec 64
  ref : Word
  frame : Bytes
deriving DecidableEq, Repr

/-- Parses the form; none where VERSION or TYPE does not fit. -/
def parseInject (b : Bytes) : Option Inject :=
  if b.length < 16 ∨ 1 < rd b 0 1 ∨ rd b 1 1 ≠ 2 then none
  else some ⟨bitOf (rd b 2 2) 0, euiAt b 4, w32 (rd b 12 4), b.drop 16⟩

/-- Resolves and secures a downlink frame: what Trade takes, or the status that refuses it. -/
def injectFrame (x : Inject) (pri : Nat) (path : List NodeEnt) (s : Chip) : (NewFrame ⊕ Nat) × Chip :=
  match findNode s x.dest with
  | none => (.inr stNotFound, s)
  | some (i, n) =>
    let (d, s) := if x.secure then secureFrame x.frame (takeNodeCtr i n) s else (.inl (x.frame, 0), s)
    match d with
    | .inr st => (.inr st, s)
    | .inl (psdu, ctr) =>
      match tradeFrame path psdu pri ctr (crc32c x.frame) with
      | some f => (.inl f, s)
      | none => (.inr stNotFound, s)

/-- A TYPE 2 packet from a port: an IPv6 packet with UDP. -/
def downType2 (pri : Nat) (pkt : Bytes) (s : Chip) : Chip :=
  match parseInject (pkt.drop 48) with
  | none => bump (fwdCnt 0x04) 1 s
  | some x =>
    let s := visitFirst x.dest s
    match pathTo s x.dest with
    | none => toSwq (frmCfg s 6) 2 (wordsOf pkt) (rplMiss x.dest s)
    | some path =>
      match injectFrame x pri path s with
      | (.inl f, s) => enqueueOrDrop f s
      | (.inr _, s) => s

/-- DOWNLINK_FRAME_PROCESS: the oldest downlink packet of the frame engine. -/
def execDownlinkFrameProcess (s : State) : Out :=
  s.on fun s =>
  .next (if !pdOn s 7 then s
    else match pull 88 s with
      | (none, s) => s
      | (some p, s) =>
        let h := (firstWord p.words).toNat
        let pkt := (bytesOf (p.words.drop 1)).take (h / 256)
        let pri := fld h 4 4
        if 4 ≤ fld h 0 4 then downType2 pri pkt s else downPacket pri pkt s)

/-- DL_INJECT: the next frame of queue 32; it waits there while its Trade queue is full (R297, R312). -/
def execDlInject (s : State) : Out :=
  s.on fun s =>
  .next (match nextItem 32 s with
    | none => s
    | some (p, s') =>
      match p.kind with
      | .mark => s'
      | .abort => abortCompletion 32 p s'
      | .data =>
        let ref := p.words.getD 3 0
        let injectDone := injectDone p.no
        if !pdOn s 7 || decide (2 ≤ s.pwr.state) || notOwner s then injectDone ref stAbortedDisabled s'
        else match parseInject (bytesOf p.words) with
        | none => injectDone ref stNotFound (bump (fwdCnt 0x04) 1 s')
        | some x =>
          match pathTo s x.dest, findNode s x.dest with
          | some path, some (_, n) =>
            let probe : NewFrame := ⟨[], 0, 0, (path.head?.map NodeEnt.band).getD 0, n.cls, p.pri.toNat, 0, 0⟩
            let q := probe.queue s
            if !qEn s q then injectDone ref stAbortedDisabled (bump (schCnt 0x0C) 1 s')
            else if queueFull s q (x.frame.length + 16) then s
            else
              (match injectFrame x p.pri.toNat path (visitFirst x.dest s') with
                | (.inl f, s') => injectDone ref stOk (enqueue f s')
                | (.inr st, s') => injectDone ref st s')
          | _, _ => injectDone ref stNotFound (rplMiss x.dest s'))

/-! ## Beacons (R273, R274) -/

/-- BEACON_SET: parameters as a descriptor with its T, then slot, EN, OFFSET, PERIOD and PSDU. -/
def beaconDesc (p : Bytes) : Bytes := zeros 4 ++ (p.drop 4).take 28 ++ p.drop 40

/-- Field checks of an enabled slot. -/
def beaconChecks (p : Bytes) (s : Chip) : List (Nat × Bool) :=
  [ck 4 (fld (rd p 4 1) 0 2 = 0)] ++ descChecks (beaconDesc p) s ++ [ck 32 (rd p 32 1 ≤ 7)] ++ maskAt p 33 1 ++
    [ck 34 (rd p 34 2 + 12 ≤ rd p 22 2), (36, within 10 3600000 (rd p 36 4))]

/-- Checks of a slot that is disabled: those of R278. -/
def offChecks (p : Bytes) : List (Nat × Bool) :=
  [ck 8 (rd p 8 4 < nsSec), ck 32 (rd p 32 1 ≤ 7)] ++ maskAt p 33 1 ++ [ck 34 (rd p 34 2 + 12 ≤ rd p 22 2)]

/-- T of beacon k of a slot, ns. -/
def Beacon.first (b : Beacon) : Nat := rd b.desc 14 6 * nsSec + rd b.desc 8 4
def Beacon.tAt (b : Beacon) (k : Nat) : Nat := b.first + k * b.period * nsMs

/-- The least k whose T lies at least `lead` ns after `now`. -/
def Beacon.nextK (b : Beacon) (now lead : Nat) : Nat :=
  if now + lead ≤ b.first then 0 else (now + lead - b.first + b.period * nsMs - 1) / (b.period * nsMs)

/-- BEACON_SET. EN = 0 ends the slot's queued beacons. -/
def execBeaconSet (c : CmdRef) (s : State) : Out :=
  s.on fun s =>
  runCmd c 0x0207 s fun m =>
    let p := m.params
    let n := rd p 32 1
    let en := bitOf (rd p 33 1) 0
    checked c (if en then beaconChecks p s else offChecks p) fun s =>
      let old := s.time.beacons.get n
      let res := wr 4 old.sent ++ wr 4 old.skipped ++ wr 4 old.suppressed
      let new : Beacon := ⟨en, (beaconDesc p).take 32, p.drop 40, rd p 34 2, rd p 36 4, 0, 0, 0, 0⟩
      let now := (tdGet s (b2n (bitOf (rd p 4 1) 4))).ns
      let new := { new with k := if en then new.nextK now (leadMin s + nsMs) else 0 }
      let s := { s with time := { s.time with beacons := s.time.beacons.set n new } }
      let s := if en then s else endAll (fun l => l.src = .beacon && l.id % 8 = n) stAbortedFlush s
      complete c stOk res s

/-- Duration from T to the reference instant of a launch, 2⁻¹⁶ ns (R274). -/
def refDelay16 (l : Launch) : Nat :=
  if l.fsk then 8 * (fld l.phy 8 10 + 2) * nsSec * 65536 / fskSymRate (fld l.phy 0 2) (fld l.phy 2 2)
  else ns16 (fld l.phy 8 8 * 2 ^ fld l.phy 0 4 * 10000 / bwUnits (fld l.phy 4 2))

/-- The mesh time field (Table 9.4). -/
def meshTime (t16 epoch : Nat) : Bytes := wr 6 (t16 / 65536 / nsSec) ++ wr 4 (t16 / 65536 % nsSec) ++ [byte epoch, 0]

/-- A template with the field written at OFFSET. -/
def putField (off : Nat) (f psdu : Bytes) : Bytes := psdu.take off ++ f ++ psdu.drop (off + f.length)

/-- Secures a template whose MAC header announces security: the group key of its key index, or DEFAULT_KEY (DEDUCED, assumption 40). -/
def secureBeacon (psdu : Bytes) (s : Chip) : Sealed × Chip :=
  match parseMhr psdu with
  | some m => if m.sec then secureFrame psdu (takeGroupCtr (frmCfg s 1)) s else (.inl (psdu, 0), s)
  | none => (.inl (psdu, 0), s)

def beaconUpd (n : Nat) (f : Beacon → Beacon) (s : Chip) : Chip :=
  { s with time := { s.time with beacons := s.time.beacons.upd n f } }

/-- BEACON_BUILD: LEAD_MIN + 1 ms before T (R273); beacons that a step of the domain has passed are behind the slot; in a pair only the owner sends, with a mirror (R356). -/
def execBeaconBuild (slot : Fin 8) (s : State) : Out :=
  s.on fun s =>
  let b := s.time.beacons.get slot.val
  let d := b2n (bitOf (rd b.desc 4 1) 4)
  let lead := leadMin s + nsMs
  let now := (tdGet s d).ns
  .next (if !b.en || !s.boot.service || !pdOn s 11 || !pdOn s 7 || b.period = 0 || notOwner s then s
    else
      let k := max b.k (b.nextK now lead - 1)
      if now + lead < b.tAt k then s
      else
        let s := beaconUpd slot.val (fun b => { b with k := k + 1 }) s
        if (tdGet s d).st ≠ 1 then beaconUpd slot.val (fun b => { b with suppressed := b.suppressed + 1 }) s
        else
          let t16 := ns16 (b.tAt k) + rd b.desc 12 2
          let l := { descLaunch .beacon (b.desc ++ b.psdu) with id := 0xFFFFFF00 + slot.val, t := t16 }
          let psdu := putField b.offset (meshTime (t16 + refDelay16 l) (tdGet s d).epoch) l.psdu
          let (r, s) := secureBeacon psdu s
          match r with
          | .inr _ => beaconUpd slot.val (fun b => { b with skipped := b.skipped + 1 }) s
          | .inl (psdu, ctr) =>
            let l := { l with psdu := psdu, len := psdu.length, airNs := airOf l.fsk l.phy psdu.length }
            if !tradeLenOk s l then beaconUpd slot.val (fun b => { b with skipped := b.skipped + 1 }) s
            else
              let (_, e, s) := submit l s
              match e with
              | some e => sendMirror ((s.tx.entries.get e).getD l) 0 ctr 0 s
              | none => beaconUpd slot.val (fun b => { b with skipped := b.skipped + 1 }) s)

end Sys2Proof.Machine
end

