-- ==== Sys2Proof/Machine/Pair.lean ====
section
/-! DEFINITION. The Vereri pair (R347 to R362): the link, claims and leases, sequencing messages, mirrors, trim, drills. -/

namespace Sys2Proof.Machine

def leaseMode (s : Chip) : Bool := decide (pairMode s = 2)

/-- The pair protocol runs: PAIR_MODE ≠ 0, the pair SerDes is released, and PD9 is on (R347). -/
def pairRuns (s : Chip) : Bool := decide (pairMode s ≠ 0) && decide (s.pair.st ≠ 0) && pdOn s 9

/-- PAIR_STAT (Table 12.7). -/
def pairStat (s : Chip) : Nat :=
  let p := s.pair
  pack [(0, 3, p.st), (3, 1, b2n p.owner), (4, 1, pairCfg s 1), (5, 2, p.lanes), (7, 1, b2n p.swapped), (8, 2, p.inv),
    (10, 1, b2n p.seqSolo), (11, 1, b2n p.trimValid)]

/-- PAIR_LEASE: lease remaining, µs. -/
def pairLease (s : Chip) : Nat :=
  match s.pair.leaseEnd with
  | some t => (t - s.now) / nsUs
  | none => 0

/-- Settings that the configuration digest covers (R360). -/
def digestFields (s : Chip) : List Nat :=
  [pairMode s, pairCfg s 1, pairCfg s 2, pairCfg s 3, pairCfg s 0xB, pairCfg s 0xC] ++ (List.range 16).map (streamCfg s)

/-- R360: major versions equal, minor versions within 1, digests equal. -/
def compatible (s : Chip) (version digest : Word) : Bool :=
  let (own, peer) := ((s.sys.ver.get 3).toNat, version.toNat)
  let (a, b) := (own / 2 ^ 16 % 256, peer / 2 ^ 16 % 256)
  decide (own / 2 ^ 24 = peer / 2 ^ 24) && decide (a ≤ b + 1) && decide (b ≤ a + 1) &&
    decide (Config.pairDigest (digestFields s) = digest)

/-! ## Drills (R362) -/

/-- A drill ends with a result: EV_PAIR_DRILL, and its command completes. -/
def finishDrill (result : Nat) (s : Chip) : Chip :=
  match s.pair.drill with
  | none => s
  | some d =>
    let us := match d.tookAt with
      | some t => (t - d.startedAt) / nsUs
      | none => 0
    let s := raise 99 (pack [(0, 8, result), (32, 32, us)]) (pairUpd (fun p => { p with drill := none, silent := false }) s)
    match d.cmd with
    | some c => complete c stOk (wr 1 result ++ zeros 3 ++ wr 4 us) s
    | none => s

/-- Ownership moved while a drill runs: the first moment at which the peer of the drilled owner owns. -/
def drillTook (s : Chip) : Chip :=
  pairUpd (fun p => { p with drill := p.drill.map fun d =>
    if 1 ≤ d.phase ∧ d.tookAt.isNone ∧ p.owner ≠ d.mine then { d with tookAt := some s.now } else d }) s

/-! ## Ownership (R349 to R351, R357) -/

/-- EV_PAIR_CLAIM: the winning claim. -/
def raiseClaim (s : Chip) : Chip :=
  let p := s.pair
  raise 95 (pack [(0, 1, b2n p.owner), (32, 32, if p.owner then p.claim else p.peerClaim)]) s

/-- The unit becomes owner: the visit of R357 begins. -/
def takeOwn (s : Chip) : Chip :=
  if s.pair.owner then s
  else raiseClaim (drillTook (bump (pairCnt 0x14) 1 (pairUpd (fun p =>
    { p with owner := true, visiting := true, visited := [], visitAt := s.now, yielding := false }) s)))

/-- The unit stops owning (R245, R349). -/
def stopOwn (s : Chip) : Chip :=
  if s.pair.owner then
    outputLost (drillTook (pairUpd (fun p => { p with owner := false, leaseFree := false, visiting := false, yielding := false }) s))
  else s

/-- Takes ownership with the peer's last known claim plus 1 (R349). `alone`: no peer is heard that could grant a lease. -/
def claimOver (alone : Bool) (s : Chip) : Chip :=
  if s.pair.owner then s
  else takeOwn (pairUpd (fun p => { p with claim := (p.peerClaim + 1) % 2 ^ 32, leaseFree := alone }) s)

/-- The peer has taken ownership: PAIR_YIELD completes with its claim (R365). -/
def yieldOver (s : Chip) : Chip :=
  match s.pair.yieldCmd with
  | some c => complete c stOk (wr 4 s.pair.peerClaim) (pairUpd (fun p => { p with yieldCmd := none, yielding := false }) s)
  | none => s

/-- A yield that can no longer reach the peer (DEDUCED, assumption 47). -/
def yieldLost (s : Chip) : Chip :=
  match s.pair.yieldCmd with
  | some c => complete c stBusy [] (pairUpd (fun p => { p with yieldCmd := none, yielding := false }) s)
  | none => pairUpd (fun p => { p with yielding := false }) s

/-- The own claim against the peer's, after a heartbeat (R349, R350). `knew`: the peer was known as the owner before. -/
def judgeClaims (knew yields : Bool) (s : Chip) : Chip :=
  let p := s.pair
  if later 32 p.peerClaim p.claim then
    if p.owner then
      let held := p.leaseEnd.any fun t => decide (s.now < t)
      let s := yieldOver (raiseClaim (stopOwn s))
      let s := pairUpd (fun p => { p with leaseEnd := none }) s
      if leaseMode s && held then raise 96 1 s else s
    else if yields then claimOver false s
    else if knew then s
    else raiseClaim s
  else if later 32 p.claim p.peerClaim then takeOwn s
  else if p.peerSerial.toNat < s.sys.serial.toNat then claimOver false (pairUpd (fun p => { p with owner := false }) s)
  else s

/-- The pair leaves PAIRED: held frames go out under solo numbers (R355, Table 12.5). -/
def leavePaired (st : Nat) (s : Chip) : Chip :=
  turnSolo (pairUpd (fun p => { p with st := st, settled := false, resumeSent := none }) s)

/-! ## Link (R347, R348, R360) -/

/-- PAIR_LINK_UP: training completes. -/
def execPairLinkUp (t : PairTraining) (s : State) : Out :=
  s.on fun s =>
  .next (if !pairRuns s || s.pair.linkUp || portHeld s 2 then s
    else
      let s := if t.inv = 0 then s else raise 94 t.inv.toNat s
      let s := if t.swapped then raise 93 1 s else s
      let ok := compatible s t.peerVersion t.peerDigest
      let s := raise 92 1 (pairUpd (fun p => { p with
        linkUp := true, lanes := t.lanes.toNat, swapped := t.swapped, inv := t.inv.toNat, peerSerial := t.peerSerial
        peerVersion := t.peerVersion.toNat, peerDigest := t.peerDigest.toNat, settled := false
        st := if ok then 2 else 5 }) s)
      if ok then s else raise 98 (t.peerVersion.toNat / 2 ^ 16) s)

/-- State that a link loss leads to (Table 12.5). -/
def downState (s : Chip) : Nat :=
  if s.pair.st = 5 then 5 else if s.pair.st = 3 ∨ s.pair.st = 4 ∨ s.pair.paired ∨ s.boot.solo then 4 else 1

/-- The link goes down. -/
def pairLinkLost (s : Chip) : Chip :=
  if !s.pair.linkUp then s
  else
    let was := s.pair.st
    let s := raise 92 0 (bump (pairCnt 0x18) 1 (pairUpd (fun p => { p with linkUp := false, lanes := 0 }) s))
    let s := yieldLost (leavePaired (downState s) s)
    let s := if was = 3 then raise 97 0 s else s
    if s.pair.drill.any fun d => decide (1 ≤ d.phase) then finishDrill 3 s else s

/-- PAIR_LINK_DOWN. -/
def execPairLinkDown (s : State) : Out := s.on fun s => .next (pairLinkLost s)

/-- PAIR_LANE_LOCK_CHANGE: one lane changes while the other one carries the link. -/
def execPairLaneLockChange (lane : Fin 2) (up : Bool) (s : State) : Out :=
  s.on fun s =>
  .next (if s.pair.linkUp && bitOf s.pair.lanes (1 - lane.val) then
      pairUpd (fun p => { p with lanes := setFld p.lanes lane.val 1 (b2n up) }) s
    else s)

/-! ## Heartbeats -/

/-- Some port can carry heartbeats: PEER_ADDR is set and its link is up (R348). -/
def hbPort (s : Chip) : Bool := peerAddrSet s && ((List.range 2).any fun p => (s.eth.get p).link)

/-- HEARTBEAT_SEND (R348, R350). -/
def execHeartbeatSend (onLink : Bool) (s : State) : Out :=
  s.on fun s =>
  .next (if !pairRuns s || s.pair.silent || !(if onLink then s.pair.linkUp else hbPort s) then s
    else
      let p := s.pair
      let names := p.peerKnown && later 32 p.peerClaim p.claim
      let grant := leaseMode s && p.grantDue && !p.owner
      pairUpd (fun p => { p with
        out := p.out ++ [.heartbeat onLink p.st s.sys.serial (w32 p.claim) names p.yielding (leaseMode s && p.owner) grant]
        granted := if grant then some s.now else p.granted, grantDue := p.grantDue && !grant }) s)

/-- Lease length that the owner counts: LEASE × (1 − 10⁻⁴), ns (R350). -/
def leaseNs (s : Chip) : Nat := pairCfg s 0xB * nsMs * 9999 / 10000

/-- Both units name one owner: claims are settled (R349); with R360 met the resume messages are exchanged (R355). -/
def settle (s : Chip) : Chip :=
  if s.pair.settled then s
  else
    let s := pairUpd (fun p => { p with settled := true }) s
    if s.pair.linkUp && (s.pair.st = 2 || s.pair.st = 4) then sendResume s else s

/-- HEARTBEAT_RECEIVE (R349, R350). -/
def execHeartbeatReceive (h : Heartbeat) (s : State) : Out :=
  s.on fun s =>
  .next (if !pairRuns s || (h.onLink && !s.pair.linkUp) then s
    else
      let knew := s.pair.peerKnown && later 32 s.pair.peerClaim s.pair.claim && !s.pair.owner
      let s := pairUpd (fun p => { p with
        heard := some s.now, peerClaim := h.claim.toNat, peerKnown := true, peerSerial := h.serial }) s
      let s := judgeClaims knew h.yields s
      let s := match h.leaseGrant with
        | some t => if leaseMode s then
            pairUpd (fun p => { p with leaseEnd := some (t + leaseNs s), leaseFree := false }) s else s
        | none => s
      let s := if h.leaseRequest && leaseMode s && !s.pair.owner then pairUpd (fun p => { p with grantDue := true }) s else s
      if s.pair.owner = h.namesThisOwner ∧ s.pair.claim ≠ s.pair.peerClaim then settle s else s)

/-- LEASE + LEASE_GUARD has passed since the own last grant (R350). -/
def guardPassed (s : Chip) : Bool :=
  match s.pair.granted with
  | some t => decide (t + leaseGuard s ≤ s.now)
  | none => true

/-- The peer, as far as its claim is known, is the owner. -/
def peerOwns (s : Chip) : Bool := s.pair.peerKnown && !later 32 s.pair.claim s.pair.peerClaim

/-- PEER_SILENT: nothing has arrived for PEER_DEAD (R348, R349, R361). -/
def execPeerSilent (s : State) : Out :=
  s.on fun s =>
  .next (match s.pair.heard with
    | some t =>
      if !pairRuns s || decide (s.now < t + pairCfg s 0xA * nsMs) then s
      else
        let drilled := s.pair.drill.any fun d => decide (1 ≤ d.phase) && (d.mine || d.kind = 0 || decide (2 ≤ d.phase))
        let s := pairUpd (fun p => { p with heard := none, settled := false }) s
        let s := if peerOwns s && (!leaseMode s || guardPassed s) then claimOver true s else s
        let s := yieldLost (if s.pair.st = 3 then leavePaired 4 s else s)
        if drilled then finishDrill 3 s else s
    | none => s)

/-- LEASE_GUARD_TAKEOVER (R350). -/
def execLeaseGuardTakeover (s : State) : Out :=
  s.on fun s =>
  .next (if pairRuns s && leaseMode s && s.pair.heard.isNone && peerOwns s && guardPassed s then claimOver true s else s)

/-- LEASE_EXPIRY (R350). -/
def execLeaseExpiry (s : State) : Out :=
  s.on fun s =>
  .next (match s.pair.leaseEnd with
    | some t =>
      if !leaseMode s || decide (s.now < t) then s
      else
        let own := s.pair.owner
        let s := pairUpd (fun p => { p with leaseEnd := none }) (stopOwn s)
        if own then raise 96 2 s else s
    | none => s)

/-! ## Uplink sequencing (R353, R355) -/

/-- MERGE_DIGEST_RECEIVE: an entry of the peer; keys below the restart point stay solo at the peer too. -/
def execMergeDigestReceive (st : Fin 16) (key : Nat) (digest : Word) (s : State) : Out :=
  s.on fun s =>
  .next (if s.pair.st ≠ 3 ∨ s.pair.seqSolo ∨ key < s.pair.restart then s
    else mergeAll (pairUpd (fun p => { p with merge := p.merge.upd st.val (mergeAdd key digest.toNat none) }) s))

/-- WATERMARK_SEND. -/
def execWatermarkSend (s : State) : Out :=
  s.on fun s =>
  .next (if s.pair.st ≠ 3 ∨ !s.pair.linkUp then s
    else
      let w := watermark s
      let s := tellPeer (.watermark w) (pairUpd (fun p => { p with wOwn := w }) s)
      if s.pair.seqSolo then s else mergeAll s)

/-- WATERMARK_RECEIVE: while the uplink is solo a watermark shows that the peer is back, and the resume message follows. -/
def execWatermarkReceive (w : Nat) (s : State) : Out :=
  s.on fun s =>
  .next (if s.pair.st ≠ 3 ∨ !s.pair.linkUp then s
    else
      let s := if s.pair.wPeer < w then pairUpd (fun p => { p with wPeer := w, wPeerAt := s.now }) s else s
      if s.pair.seqSolo then sendResume s else mergeAll s)

/-- SEQ_SOLO (R355). -/
def execSeqSolo (s : State) : Out :=
  s.on fun s =>
  .next (if s.pair.st = 3 ∧ !s.pair.seqSolo ∧ s.pair.wPeerAt + pairCfg s 0xF * nsMs ≤ s.now then
      turnSolo (bump (pairCnt 0x1C) 1 (pairUpd (fun p => { p with seqSolo := true, resumeSent := none }) s))
    else s)

/-- R355, point 3: the later of two numbers by R11 modulo 2¹⁶, plus 1. -/
def resumeNumber (own peer : Nat) : Nat := ((if later 16 peer own then peer else own) + 1) % 65536

/-- RESUME_MESSAGE_RECEIVE: the merge restarts at the higher watermark (R355). -/
def execResumeMessageReceive (w0 : Nat) (counters : List (BitVec 16)) (s : State) : Out :=
  s.on fun s =>
  .next (if !s.pair.linkUp || !s.pair.settled || !(s.pair.st = 2 || s.pair.st = 4 || (s.pair.st = 3 && s.pair.seqSolo)) then s
    else
      let s := sendResume s
      let own := s.pair.resumeSent.getD 0
      let at_ := max w0 own
      pairUpd (fun p => { p with
        st := 3, paired := true, seqSolo := false, resumeSent := none, restart := at_, merge := Tab.const []
        wOwn := own, wPeer := w0, wPeerAt := s.now
        next := p.next.updAll 16 fun i n => resumeNumber n (counters.getD i 0).toNat }) s)

/-! ## Downlink in a pair (R356 to R358) -/

/-- T + θ, 2⁻¹⁶ ns (R358). -/
def shiftTheta (t : Nat) (th : Int) : Nat := ((t : Int) + th * 65536 / 1000).toNat

/-- MIRROR_RECEIVE; before service no launch is taken (R87). -/
def execMirrorReceive (descriptor : Bytes) (node : BitVec 64) (txCtr : Word) (digest : Word) (s : State) : Out :=
  s.on fun s =>
  .next (if s.pair.st ≠ 3 ∨ s.pair.owner then s
    else
      let s := bump (pairCnt 0x04) 1 s
      let s := match findNode s node with
        | some (i, n) =>
          let v := (txCtr.toNat + 1) % 2 ^ 32
          nodePut i { n with txCtr := if later 32 v n.txCtr then v else n.txCtr } s
        | none => s
      let s := if s.pair.trimValid then s else bump (pairCnt 0x10) 1 s
      let l := descLaunch .mirror descriptor
      let l := { l with id := 0xC0000000 + l.id % 2 ^ 29, asap := false, held := false, dom := s.time.stampDom
                        t := if s.pair.trimValid then shiftTheta l.t (theta s) else l.t }
      let s := if !s.boot.service || (firstBad (descChecks descriptor s)).isSome then bump (pairCnt 0x08) 1 s
        else
          let (_, e, s) := submit l s
          if e.isSome then s else bump (pairCnt 0x08) 1 s
      pairUpd (fun p => { p with held := p.held.eraseP fun h => decide (h.digest = digest.toNat) }) s)

/-- HELD_INGRESS_EXPIRE. -/
def execHeldIngressExpire (s : State) : Out :=
  s.on fun s =>
  .next (match s.pair.held with
    | h :: rest =>
      if !s.pair.owner && decide (h.at_ + pairCfg s 0xD * nsMs ≤ s.now) then
        bump (pairCnt 0x0C) 1 (pairUpd (fun p => { p with held := rest }) s)
      else s
    | [] => s)

/-- TAKEOVER_VISIT_END: the last buckets are visited; held packets become new downlink, oldest first (R357). -/
def execTakeoverVisitEnd (s : State) : Out :=
  s.on fun s =>
  .next (if !s.pair.visiting then s
    else
      let (seen, skip) := (s.pair.visited, pairCfg s 0x10)
      let s := feUpd (fun f => { f with
        nodes := f.nodes.map fun x =>
          if x.2.handle ≠ 0 ∧ !seen.contains (x.1 / 4) then (x.1, { x.2 with txCtr := min 0xFFFFFFFF (x.2.txCtr + skip) }) else x }) s
      let s := forEach s.pair.held (fun h s => putDown (h.port % 16) (h.port / 16) h.pkt s) s
      pairUpd (fun p => { p with visiting := false, visited := [], held := [] }) s)

/-- TRIM_EXCHANGE: this unit's time minus the peer's, ps, over lane 0 (R358). -/
def execTrimExchange (th : Int) (s : State) : Out :=
  s.on fun s =>
  .next (if s.pair.linkUp && bitOf s.pair.lanes 0 then
      pairUpd (fun p =>
        let l := (th :: p.trims).take 64
        { p with trims := l, trimAt := s.now, trimValid := decide (l.length = 64) }) s
    else s)

/-- TRIM_STALE_TIMEOUT: 100 ms without an exchange. -/
def execTrimStaleTimeout (s : State) : Out :=
  s.on fun s =>
  .next (if s.pair.trimAt + 100 * nsMs ≤ s.now then pairUpd (fun p => { p with trims := [], trimValid := false }) s else s)

/-! ## Running a drill -/

/-- DRILL_START: at AT in the owner's stamping domain. -/
def execDrillStart (s : State) : Out :=
  s.on fun s =>
  .next (match s.pair.drill with
    | some d =>
      if d.phase ≠ 0 ∨ ownerTime s (stampTd s).ns 0 < d.at_ then s
      else if s.pair.st ≠ 3 then finishDrill 1 s
      else
        let own := s.pair.owner
        let s := pairUpd (fun p => { p with
          drill := some { d with phase := 1, startedAt := s.now, mine := own }
          yielding := p.yielding || (own && d.kind = 0), silent := own && d.kind = 1 }) s
        if s.pair.silent then muteOutput s else s
    | none => s)

/-- Bound of Table 12.4 for the peer to own, ns, with the 10 ms that R362 allows. -/
def drillBound (s : Chip) (d : Drill) : Nat :=
  (if d.kind = 0 then nsMs else if leaseMode s then leaseGuard s + nsMs else pairCfg s 0xA * nsMs + nsMs) + 10 * nsMs

/-- Result of a drill that has run (R362). -/
def drillResult (s : Chip) (d : Drill) : Nat :=
  match d.tookAt with
  | some t => if t ≤ d.startedAt + drillBound s d then 0 else 2
  | none => 2

def setDrill (d : Drill) (s : Chip) : Chip := pairUpd (fun p => { p with drill := some d }) s

/-- DRILL_END: DURATION has passed; after a silence the units wait until they are PAIRED again; with RETURN = 1 the unit
that took ownership yields, and the drill ends when the first owner owns and has visited its node store. -/
def execDrillEnd (s : State) : Out :=
  s.on fun s =>
  .next (match s.pair.drill with
    | none => s
    | some d =>
      if d.phase = 0 ∨ (d.phase = 1 ∧ s.now < d.startedAt + d.dur * nsMs) then s
      else
        let s := if d.phase = 1 then pairUpd (fun p => { p with silent := false }) (setDrill { d with phase := 2 } s) else s
        if d.phase ≤ 2 ∧ d.kind = 1 ∧ s.pair.st ≠ 3 then s
        else if !d.ret then finishDrill (drillResult s d) s
        else
          let s := if d.phase ≤ 2 then
              pairUpd (fun p => { p with yielding := p.yielding || (p.owner && !d.mine) }) (setDrill { d with phase := 3 } s)
            else s
          if s.pair.owner = d.mine ∧ !s.pair.visiting then finishDrill (drillResult s d) s else s)

end Sys2Proof.Machine
end

