-- ==== Sys2Proof/Machine/Reset.lean ====
section
/-! DEFINITION. Resets (R80, R83, R84): what a reset keeps, the start that follows it, and what SYS_RESET aborts. -/

namespace Sys2Proof.Machine

def bootUpd (f : Boot → Boot) (s : Chip) : Chip := { s with boot := f s.boot }
def pwrUpd (f : Pwr → Pwr) (s : Chip) : Chip := { s with pwr := f s.pwr }
def pd0Upd (f : Pd0 → Pd0) (s : Chip) : Chip := { s with pd0 := f s.pd0 }
def sysUpd (f : Sys → Sys) (s : Chip) : Chip := { s with sys := f s.sys }

/-- Calm-Fault is in force (R463): Calm with FAULTn asserted. -/
def inCalmFault (s : Chip) : Bool := decide (s.boot.wait = .calm) && s.pwr.faultn

/-- Everything outside PD0 is cleared, apart from MRAM and flash contents (R83); LPDDR4X keeps what its rails keep, which
the boot finds out (R489). FAULTn stays as it is driven. -/
def cleared (s : Chip) : Chip :=
  { Chip.reset with
    now := s.now, freeCtr := s.freeCtr, pd0 := s.pd0
    cfg := { Cfg.reset with stored := s.cfg.stored, gens := s.cfg.gens }
    cal := { s.cal with nominal := [], running := Tab.const none }
    health := s.health
    sys := { Sys.reset with serial := s.sys.serial }
    pwr := { Pwr.reset with faultn := s.pwr.faultn }
    rwd := { Rwd.reset with frz := s.rwd.frz }
    dram := s.dram
    pair := { Pair.reset with claim := s.pair.claim }
    sec := { Sec.reset with slots := s.sec.slots, locked := s.sec.locked, loops := s.sec.loops }
    img := { Img.reset with slots := s.img.slots.mapEnts fun _ x => { x with valid := false }
                            recA := s.img.recA, recB := s.img.recB, arb := s.img.arb } }

/-- PD0 alone is on, and no start runs (R19, R455, R463, R473). -/
def sleepIn (w : BootWait) (s : Chip) : Chip :=
  let s := cleared s
  { s with boot := { s.boot with wait := w, step := 0 }, pwr := { s.pwr with stage := 0, wakeOut := false, wakeLow := s.now } }

/-- SOURCE of SYS_WAKE_CAUSE for a reset cause (Table 16.10). -/
def sourceOf (cause : Nat) : Nat :=
  match cause with
  | 0x01 => 4
  | 0x02 => 3
  | 0x04 => 3
  | 0x07 => 1
  | 0x08 => 2
  | 0x0B => 5
  | _ => 6

/-- PD0 at a start (Tables 3.1 and 16.10): a cold start clears the wake flag and the pad latches. -/
def Pd0.start (p : Pd0) (cause : Nat) (fault entry : Bool) : Pd0 :=
  let cold := decide (cause = 2 ∨ cause = 4)
  { p with wakeSource := sourceOf cause, wakeStage := 0, attempts := 1, calmFault := fault, alarmHeld := false
           inEntry := entry, prevState := if cold then 0 else p.prevState, latch := if cold then 0 else p.latch }

/-- The start that follows a reset (R83, R462): wake stage 1, or the wait for RESETn to rise. -/
def startFrom (cause : Nat) (w : BootWait) (entry : Bool) (s : Chip) : Chip :=
  let s := pd0Upd (fun p => p.start cause (inCalmFault s) entry) s
  let s := cleared s
  let s := { s with boot := { Boot.reset cause s.now with wait := w, step := if w = .wake then 1 else 0 } }
  pwrUpd (fun p => { p with stageAt := s.now, stage := if w = .wake then 1 else 0, wakeOut := w = .wake
                            afterThermal := decide (cause = 0x0B) }) s

/-- What a reset cuts short in MRAM (R395, R489). -/
def resetCuts (cause : Nat) (s : Chip) : Chip :=
  jTear (if cause = 3 ∨ cause = 5 ∨ cause = 6 then freezeFor 4 s else s)

/-- A reset of cause 0x05, 0x06 or 0x09 ends the trial under way (Table 14.4); its record is written in the next boot. -/
def resetTrial (cause : Nat) (s : Chip) : Chip :=
  match s.img.trialOf with
  | some t =>
    if cause = 5 ∨ cause = 6 ∨ cause = 9 then
      let s := slotPut t SlotState.fallBack s
      bootUpd (fun b => { b with early := [(125, fallbackPay t (slotState s t).inB)] }) s
    else s
  | none => s

/-- A reset with a cause of Table 3.1 other than power-on. -/
def resetWith (cause : Nat) (w : BootWait) (s : Chip) : Chip :=
  let s := resetTrial cause (resetCuts cause (bootUpd (fun b => { b with early := [] }) s))
  bootUpd (fun b => { b with early := s.boot.early }) (startFrom cause w false s)

/-- The commands that have not completed, in admission order. -/
def openCmds (s : Chip) : List CmdRef := (s.ubfen.cmds.filter fun m => m.done.isNone).map Cmd.ref

/-- What SYS_RESET does at its acceptance point (R80): every uncompleted command completes with ST_ABORTED_DISABLED, in
order, scheduled launches are cancelled, and the reset waits. -/
def resetAccept (kind no due : Nat) (s : Chip) : Chip :=
  let cs := openCmds s
  let s := forEach cs (fun c s => complete c stAbortedDisabled [] s) s
  let s := endAll (fun l => decide (l.phase < 3)) stAbortedDisabled s
  { s with ubfen := { s.ubfen with resetWait := some ⟨kind, no, due⟩ } }

/-- RESET_BEGIN (R80): the delay has passed and the reply has left. -/
def execResetBegin (s : State) : Out :=
  s.on fun s =>
  .next (match s.ubfen.resetWait with
    | some w =>
      if (w.kind = 1 ∨ w.kind = 2) ∧ w.due ≤ s.now ∧ replyLeft w.no s then resetWith (if w.kind = 1 then 3 else 4) .wake s else s
    | none => s)

/-- A second cause in the instant of a reset: the lowest code is recorded (R84; DEDUCED, assumption 78). -/
def coincide (cause : Nat) (s : Chip) : Chip :=
  if s.boot.wait = .wake ∧ s.pwr.stage = 1 ∧ s.boot.start = s.now ∧ cause < s.boot.cause ∧ within 5 10 s.boot.cause ∧ s.boot.cause ≠ 7 ∧
      s.boot.cause ≠ 8 then bootUpd (fun b => { b with cause := cause }) s
  else s

/-- Causes 0x03, 0x04 and 0x09 that fall due in this very instant (R80, Table 14.4). -/
def dueCauses (s : Chip) : List Nat :=
  (match s.ubfen.resetWait with
    | some w => if (w.kind = 1 ∨ w.kind = 2) ∧ w.due ≤ s.now ∧ replyLeft w.no s then [if w.kind = 1 then 3 else 4] else []
    | none => []) ++
  (if s.img.trialOf.isSome && s.boot.loaded && decide (s.img.confirmDue ≤ s.now) then [9] else [])

/-- The lowest of a cause and the causes due with it (R84). -/
def lowestCause (cause : Nat) (s : Chip) : Nat := (dueCauses s).foldl min cause

/-- A cause that the running domains PD1 and up raise, with every cause that coincides (R84). -/
def coreReset (cause : Nat) (s : Chip) : Chip :=
  if pdOn s 1 then resetWith (lowestCause cause s) .wake s else coincide cause s

/-- EXEC_LOCKSTEP_MISMATCH: the executive runs once PD1 is up; the program counter of the mismatch has no register. -/
def execExecLockstepMismatch (_pc : Word) (s : State) : Out := s.on fun s => .next (coreReset 5 s)

/-- EXEC_WATCHDOG_EXPIRY. -/
def execExecWatchdogExpiry (s : State) : Out := s.on fun s => .next (coreReset 6 s)

/-- BROWN_OUT: VCORE or VSRAM while the core regulator runs (R474). -/
def execBrownOut (_vsram : Bool) (s : State) : Out := s.on fun s => .next (coreReset 0x0A s)

/-- RESETN_ASSERT: a low of 10 µs or more resets; one of 1 to 10 µs resets when the part takes it; less does not (R84). -/
def execResetnAssert (lowNs : Nat) (taken : Bool) (s : State) : Out :=
  s.on fun s =>
  .next (if s.boot.wait = .vaon then s
    else if 10 * nsUs ≤ lowNs ∨ (nsUs ≤ lowNs ∧ taken) then
      -- R84: with the power-on reset of the same instant, the lower code is recorded.
      (if s.boot.cause = 1 ∧ s.boot.start = s.now ∧ s.boot.stage = 0 then startFrom 1 .resetn false s
      else resetWith 2 .resetn s)
    else s)

/-- A boot starts (R85). -/
def bootStart (s : Chip) : Chip :=
  let s := bootUpd (fun b => { b with wait := .wake, step := 1, start := s.now, stepStart := s.now }) s
  pwrUpd (fun p => { p with stage := 1, stageAt := s.now, wakeOut := true }) s

/-- RESETN_RELEASE. -/
def execResetnRelease (s : State) : Out := s.on fun s => .next (if s.boot.wait = .resetn then bootStart s else s)

/-- VAON_LOSS: every domain loses its state, PD0 included. -/
def execVaonLoss (s : State) : Out :=
  s.on fun s =>
  .next (let s := sleepIn .vaon (jTear s)
    { s with pd0 := Pd0.reset, sec := { s.sec with loops := Sec.reset.loops }, dram := [], pwr := { s.pwr with faultn := false } })

/-- POWER_ON_RESET: VAON rises through its threshold; with POR_HOLD in DEPLOYED that is an alarm of kind 3 (R390). -/
def execPowerOnReset (s : State) : Out :=
  s.on fun s =>
  .next (if s.boot.wait ≠ .vaon then s
    else
      let s := bootStart { s with now := 0, boot := Boot.reset 0x01 0, pd0 := Pd0.reset }
      if lcNow s = 2 ∧ (tampSet s).por then logAlarm false 3 0 0 s else s)

/-- THERMAL_SHUTDOWN: the PD0 sensor reads 125 °C with a domain on or on its way; no prepare (R473). -/
def execThermalShutdown (reading : Int) (s : State) : Out :=
  s.on fun s =>
  .next (if reading < 1250 ∨ !s.pwr.wakeOut then s
    else
      let s := sleepIn .thermal (jTear s)
      pwrUpd (fun p => { p with faultn := true, coolSince := none }) s)

/-- THERMAL_RESTART: a reading of the PD0 sensor; below 100 °C for 1 s the device starts with cause 0x0B. -/
def execThermalRestart (reading : Int) (s : State) : Out :=
  s.on fun s =>
  .next (if s.boot.wait ≠ .thermal then s
    else if 1000 ≤ reading then pwrUpd (fun p => { p with coolSince := none }) s
    else match s.pwr.coolSince with
      | none => pwrUpd (fun p => { p with coolSince := some s.now }) s
      | some t => if t + nsSec ≤ s.now then startFrom 0x0B .wake false s else s)

end Sys2Proof.Machine
end

