-- ==== Sys2Proof/Machine/SchCmds.lean ====
section
/-! DEFINITION. The scheduler group (R322, R329, R333 to R337) and the loss of PD7. -/

namespace Sys2Proof.Machine

/-- Applies fields of a record as a command of a block does: clamped as the record would clamp them, with the report of
R102 when anything was changed (R336). -/
def applyFields (type : Nat) (es : List (Nat × Nat)) (s : Chip) : Chip × Nat :=
  let w := applyEntries type false (es.map fun e => some (e.1, e.2, true)) s
  if w.reps.isEmpty then (w.st, stOk) else (newReport stClamped w.reps w.st, stClamped)

/-- SCH_STAT (Table 11.3). -/
def schStat (s : Chip) : Nat :=
  pack [(0, 6, ((launches s).filter fun e => e.2.ofTrade).length), (6, 1, b2n (s.boot.service && pdOn s 7)),
    (8, 16, sumN ((List.range 16).map fun n => if (s.sch.gates.get n).next.isSome then 2 ^ n else 0))]

/-- Launch that a head would have, at its node's location. -/
def headLaunch (s : Chip) (q : Nat) (f : TFrame) : Option Launch :=
  (findNode s f.child).map fun e => tradeLaunch s q f e.2

/-- The head waits for a window: none begins within PLAN_AHEAD. -/
def gateWait (s : Chip) (q : Nat) (f : TFrame) : Bool :=
  match headLaunch s q f with
  | some l =>
    let last : Int := (ns16 (cfgGet s 0x0B01 1 * nsUs) : Int)
    match fitGate s q l.airNs (ns16 (leadMin s) : Int) with
    | some (t, _) => decide (last < t)
    | none => true
  | none => false

/-- SCH_QSTATn (Table 11.4). -/
def schQstat (s : Chip) (q : Nat) : Nat :=
  match queue s q with
  | f :: l =>
    pack [(0, 12, l.length + 1), (12, 1, b2n (!f.planned && gateWait s q f)),
      (13, 1, b2n (!f.planned && drawn s (qShaped s q) (qShaper s q) && decide (tokensNow s (qShaper s q) < 0))),
      (14, 1, b2n (!f.planned && s.sch.regWait.contains q)), (15, 1, b2n f.planned),
      (16, 16, min 0xFFFF ((s.now - f.at_) / nsMs))]
  | [] => 0

/-- SCH_STATUS. -/
def execSchStatus (c : CmdRef) (s : State) : Out :=
  s.on fun s =>
  runCmd c 0x0800 s fun m =>
    checked c (maskAt m.params 0 1 ++ zeroAt m.params 1 3) fun s =>
      let st := wr 4 (schStat s)
      let (b, s) := counters (schCnt 0) 13 (bitOf (rd m.params 0 1) 0) s
      complete c stOk (st ++ b) s

/-- SCH_SHAPER_SET (R329). -/
def execSchShaperSet (c : CmdRef) (s : State) : Out :=
  s.on fun s =>
  runCmd c 0x0801 s fun m =>
    let p := m.params
    checked c (maskAt p 2 1 ++ zeroAt p 3 1 ++ zeroAt p 14 2) fun s =>
      let n := rd p 0 1
      let before := shpTok s n
      let id := 0x100 + 4 * (n % 32)
      let zero := bitOf (rd p 2 1) 0
      let (s, st) := applyFields (0x0B10 + n / 32)
        [(id, rd p 1 1), (id + 1, rd p 4 4), (id + 2, rd p 8 4), (id + 3, rd p 12 2 + 65536 * b2n zero)] s
      let s := setTokens n zero s
      complete c st (wr 4 before ++ wr 4 (shpTok s n)) s

/-- Entries of a gate control list (R319). -/
def gateEntries (p : Bytes) : List Nat := (List.range (rd p 2 2)).map fun i => rd p (16 + 4 * i) 4

/-- The switch instant of a list, ns (R322). -/
def switchAt (base cycle least : Nat) : Nat :=
  if least ≤ base then base else base + (least - base + cycle - 1) / cycle * cycle

/-- SCH_GATE_LIST_SET (R322, R337). -/
def execSchGateListSet (c : CmdRef) (s : State) : Out :=
  s.on fun s =>
  runCmd c 0x0802 s fun m =>
    let p := m.params
    checked c ([ck 0 (rd p 0 1 ≤ 15)] ++ maskAt p 1 1 ++ [(2, within 1 256 (rd p 2 2)), ck 10 (rd p 10 4 < nsSec)] ++
        zeroAt p 14 2 ++ (List.range (min 256 (rd p 2 2))).map fun i => ck (16 + 4 * i) (rd p (16 + 4 * i) 4 / 256 ≠ 0)) fun s =>
      let g : GList := ⟨rd p 1 1, rd p 4 6 * nsSec + rd p 10 4, gateEntries p⟩
      let start := (tdGet s g.dom).ns - (s.now - m.startedAt.getD s.now)
      let t := switchAt g.base g.cycle (start + cfgGet s 0x0B01 1 * nsUs)
      let s := schUpd (fun r => { r with gates := r.gates.upd (rd p 0 1) fun x => { x with next := some (g, t) } }) s
      complete c stOk (wr 6 (t / nsSec) ++ wr 4 (t % nsSec) ++ zeros 2 ++ wr 4 (g.cycle / nsUs)) s

/-- Both buckets of a policer as its TOKENS bit selects (R332). -/
def setBuckets (n : Nat) (s : Chip) : Chip :=
  let v := if bitOf (pol s n 4) 3 then (0, 0, s.now) else (pol s n 1 * nsSec, pol s n 3 * nsSec, s.now)
  schUpd (fun r => { r with buckets := r.buckets.set n v }) s

/-- SCH_POLICER_SET. -/
def execSchPolicerSet (c : CmdRef) (s : State) : Out :=
  s.on fun s =>
  runCmd c 0x0803 s fun m =>
    let p := m.params
    checked c ([ck 0 (rd p 0 2 ≤ 255)] ++ maskAt p 2 0x1F ++ zeroAt p 3 1) fun s =>
      let n := rd p 0 2
      let id := 0x100 + 8 * (n % 16)
      let (s, st) := applyFields (0x0B20 + n / 16)
        [(id, rd p 8 4), (id + 1, rd p 12 4), (id + 2, rd p 16 4), (id + 3, rd p 20 4),
          (id + 4, rd p 2 1 + 65536 * rd p 4 2), (id + 5, ofS 32 (toS 16 (rd p 6 2)))] s
      complete c st [] (setBuckets n s)

/-- SCH_QUEUE_SET. -/
def execSchQueueSet (c : CmdRef) (s : State) : Out :=
  s.on fun s =>
  runCmd c 0x0804 s fun m =>
    let p := m.params
    checked c (ck 0 (rd p 0 2 ≤ 4095) :: zeroAt p 2 2) fun s =>
      let n := rd p 0 2
      let id := 0x100 + 2 * (n % 64)
      let (s, st) := applyFields (0x0B40 + n / 64) [(id, rd p 4 4), (id + 1, rd p 8 4)] s
      complete c st [] s

/-- Frames of the queues of a test that hold no launch entry. -/
def unplanned (s : Chip) (p : Nat → Bool) : Nat :=
  sumN (s.sch.queues.ents.map fun e => if p e.1 then (e.2.filter fun f => !f.planned).length else 0)

/-- Discards the frames of a queue that hold no launch entry, counted in FLUSHED (R333). -/
def discardQueued (p : Nat → Bool) (s : Chip) : Chip :=
  schUpd (fun r => { r with queues := r.queues.mapEnts fun n q => if p n then q.filter fun f => f.planned else q })
    (bump (schCnt 0x1C) (unplanned s p) s)

/-- Launches of Trade for the queues of a test that have not ended. -/
def queueLaunches (s : Chip) (p : Nat → Bool) : List (Nat × Launch) :=
  let nos := (s.sch.queues.ents.filter fun e => p e.1).flatMap fun e => (e.2.filter fun f => f.planned).map fun f => f.no
  (launches s).filter fun e => e.2.src = .trade && e.2.ended.isNone && nos.contains e.2.frame

/-- SCH_QUEUE_FLUSH (R333, R337). -/
def execSchQueueFlush (c : CmdRef) (s : State) : Out :=
  s.on fun s =>
  runCmd c 0x0805 s fun m =>
    let p := m.params
    let q := rd p 0 2
    checked c (ck 0 (q ≤ 4095 ∨ q = 0xFFFF) :: maskAt p 2 1 ++ zeroAt p 3 1) fun s =>
      let mine := fun (n : Nat) => decide (q = 0xFFFF) || decide (n = q)
      let k := unplanned s mine
      let s := acceptCmd c (discardQueued mine s)
      let es := if bitOf (rd p 2 1) 0 then queueLaunches s mine else []
      let s := forEach (byTime s es) (fun e s => endLaunch e stAbortedFlush s) s
      let left := (es.filter fun e => ((s.tx.entries.get e.1).map fun l => l.no) = some e.2.no).map (·.1)
      if left.isEmpty then complete c stOk (wr 4 k ++ wr 4 es.length) s
      else schUpd (fun r => { r with flushes := r.flushes ++ [⟨c, k, es.length, left⟩] }) s

/-- SCH_QUEUE_STATUS. -/
def execSchQueueStatus (c : CmdRef) (s : State) : Out :=
  s.on fun s =>
  runCmd c 0x0806 s fun m =>
    let (q, k) := (rd m.params 0 2, rd m.params 2 2)
    checked c [ck 0 (q ≤ 4095), ck 2 (1 ≤ k ∧ k ≤ 1024 ∧ q + k ≤ 4096)] fun s =>
      complete c stOk ((List.range k).flatMap fun i => wr 4 (schQstat s (q + i))) s

/-- SCH_SELECT_SET (R311, R330, R337). -/
def execSchSelectSet (c : CmdRef) (s : State) : Out :=
  s.on fun s =>
  runCmd c 0x0807 s fun m =>
    let p := m.params
    let (t, e, k) := (rd p 0 1, rd p 1 1, rd p 2 1)
    let size := if t = 0 then 256 else 128
    let v := fun (i : Nat) => rd p (4 + 2 * i) 2
    checked c ([ck 0 (t ≤ 1), ck 1 (e < size), ck 2 (1 ≤ k ∧ k ≤ 128 ∧ e + k ≤ size)] ++ zeroAt p 3 1 ++
        (List.range (min 128 k)).map fun i => ck (4 + 2 * i) (if t = 0 then v i ≤ 4095 else v i ≤ 255 ∨ v i = 0xFFFF)) fun s =>
      let type := 0x0B02 + t
      let put := fun (i : Nat) (s : Chip) =>
        cfgSet type (1 + (e + i) / 2) (setFld (cfgGet s type (1 + (e + i) / 2)) ((e + i) % 2 * 16) 16 (v i)) s
      complete c stOk [] (forEach (List.range k) put s)

/-- PD7 is disabled: every frame is discarded, every Trade launch is cancelled (R333). -/
def schOff (s : Chip) : Chip :=
  endAll (fun l => l.src = .trade) stAbortedDisabled (discardQueued (fun _ => true) s)

end Sys2Proof.Machine
end

