-- ==== Sys2Proof/Machine/Domains.lean ====
section
/-! DEFINITION. Power-down of one domain (R20, R449, R461, R465, Table 16.5) and its return (R460). -/

namespace Sys2Proof.Machine

/-- The counters of the named register addresses restart at 0 (R461). -/
def cntClear (p : Nat → Bool) (s : Chip) : Chip :=
  { s with cnt := { s.cnt with ents := s.cnt.ents.filter fun e => !p e.1 } }

/-- Address of a register block. -/
def ofBlock (lo hi a : Nat) : Bool := within lo hi (a / 0x10000)

/-- Domain of the register file that holds an address (Table 18.1, R500); none outside every block. -/
def regPd (a : Nat) : Option Nat :=
  match a / 0x10000 with
  | 0x00 => some 1
  | 0x01 => some 1
  | 0x02 => some 11
  | 0x03 => some 11
  | 0x04 => some 11
  | 0x05 => some 5
  | 0x06 =>
    let o := a % 0x10000
    let b := if o < 0x100 then decide (0x10 ≤ o) else if o < 0x700 then decide (o % 0x200 < 0x100) else decide (0xC00 ≤ o)
    some (if b then 4 else 3)
  | 0x07 => some 6
  | 0x08 => some 7
  | 0x09 => some 7
  | 0x0A => some 7
  | 0x0B => some 7
  | 0x0C => some 9
  | 0x0D => some 9
  | 0x0E => some 1
  | 0x0F => some 2
  | 0x10 => some 10
  | 0x11 => some (if a % 0x10000 < 0x8000 then 1 else 10)
  | _ => none

/-- Register arrays of Table 18.8: first address, count, stride, words of an element. -/
def regArrays : List (Nat × Nat × Nat × Nat) :=
  [(0x000000, 9, 4, 1), (0x000030, 4, 4, 1), (0x000100, 11, 4, 1), (0x000200, 17, 4, 1), (0x000300, 3, 4, 1),
   (0x000310, 4, 4, 1), (0x000800, 64, 0x20, 4), (0x010000, 5, 4, 1), (0x010020, 8, 4, 1)] ++
  [(0x020000, 1, 4, 1), (0x020010, 2, 0x10, 3), (0x030000, 3, 4, 1), (0x030010, 4, 4, 1), (0x030100, 32, 4, 1),
   (0x040000, 1, 4, 1), (0x040100, 32, 4, 1), (0x050000, 1, 4, 1), (0x050010, 4, 4, 1), (0x050100, 2, 4, 1),
   (0x050200, 4, 0x20, 8)] ++
  [(0x060000, 8, 4, 1), (0x060100, 128, 4, 1), (0x060300, 128, 4, 1), (0x060500, 128, 4, 1), (0x060800, 128, 0x10, 4),
   (0x070000, 96, 4, 1), (0x070200, 1, 4, 1), (0x070400, 2, 0x40, 16), (0x070F00, 9, 4, 1), (0x080100, 16, 4, 1),
   (0x080200, 16, 0x20, 8)] ++
  [(0x090000, 1, 4, 1), (0x090010, 12, 4, 1), (0x0A0000, 1, 4, 1), (0x0A0010, 6, 4, 1), (0x0A0100, 256, 0x10, 4),
   (0x0B0000, 1, 4, 1), (0x0B0010, 13, 4, 1), (0x0B1000, 256, 4, 1), (0x0B4000, 4096, 4, 1), (0x0C0000, 2, 0x100, 1),
   (0x0C0010, 2, 0x100, 10)] ++
  [(0x0D0000, 5, 4, 1), (0x0D0020, 9, 4, 1), (0x0E0000, 5, 4, 1), (0x0E0020, 4, 4, 1), (0x0F0000, 2, 4, 1),
   (0x0F0010, 1, 4, 1), (0x0F0020, 8, 4, 1), (0x0F0100, 8, 0x20, 3), (0x0F0400, 16, 4, 1), (0x100000, 8, 4, 1),
   (0x100040, 16, 4, 1), (0x110000, 2, 4, 1), (0x118000, 1, 4, 1)]

/-- The address holds a register. -/
def holdsReg (a : Nat) : Bool :=
  regArrays.any fun r =>
    let (base, n, stride, words) := r
    decide (base ≤ a ∧ a < base + n * stride ∧ (a - base) % stride < 4 * words)

/-- The register at the address lies in a domain that is off (R500); an address that holds no register lies in none. -/
def regOff (s : Chip) (a : Nat) : Bool := holdsReg a && (regPd a).any fun k => !pdOn s k

/-- REG_POLLs that wait on a register of the domain complete with the last value read (R500). -/
def endPolls (k : Nat) (s : Chip) : Chip :=
  let hit := s.ubfen.cmds.filter fun m => m.done.isNone && m.startedAt.isSome && decide (m.opcode = 0x0005) &&
    holdsReg (rd m.params 0 4) && decide (regPd (rd m.params 0 4) = some k)
  forEach hit (fun m s => complete m.ref stAbortedDisabled (wr 4 m.work) s) s

/-- A queue that crosses into a departing domain is flushed with CAUSE disable (R20); its consumer completes the ABORT
items when it takes them. -/
def flushDown (q : Nat) (s : Chip) : Chip := dqUpd q (Dq.flush 0b01) s

/-- The queues that cross into a domain: their consumer lies in it (Table 1.3). The channel samples of a receiver are
flushed also when the receiver, their producer, goes off: which queues "cross into" a domain R20 does not list (DESIGN
CHOICE, assumption 86). -/
def crossInto (k : Nat) : List Nat :=
  match k with
  | 1 => [70, 72, 77, 78, 79, 82, 83, 86]
  | 3 => [64, 67]
  | 4 => [65, 68]
  | 5 => [66, 69]
  | 6 => [64, 65]
  | 7 => [32, 73, 74, 87, 88]
  | 9 => [33, 34, 75, 76, 80]
  | 10 => [81]
  | 11 => [71]
  | _ => []

/-- The queues of a departing domain are flushed (R20). -/
def flushInto (k : Nat) (s : Chip) : Chip := forEach (crossInto k) flushDown s

/-- A calibration of the band stops (Table 16.3). -/
def stopCal (b : Nat) (s : Chip) : Chip :=
  match (band s b).cal with
  | some r =>
    let s := bandUpd b (fun x => { x with cal := none, calValid := false }) s
    forEach (r.cmd.toList ++ r.also) (fun c s => complete c stAbortedDisabled [] s) s
  | none => s

/-- Commands that wait for the band's new state. -/
def endBandCmds (b : Nat) (s : Chip) : Chip :=
  let r := band s b
  let s := bandUpd b (fun x => { x with drain := none, rxCmd := none }) s
  let s := match r.drain with
    | some (_, c) => complete c stAbortedDisabled [] s
    | none => s
  match r.rxCmd with
  | some c => complete c stAbortedDisabled [] s
  | none => s

/-- PD3 or PD4 goes off: the band is in OFF under R122, its settings of Table 16.5 are lost. -/
def bandOff (b : Nat) (s : Chip) : Chip :=
  let s := pwrUpd (fun p => { p with bandBase := p.bandBase.set b (band s b).base }) s
  let s := refuseRecs (fun ch => ch / 64 = b) s
  let s := forEach (bandBusy s b) (fun x s => endCtx x 9 s) s
  let s := endBandCmds b (stopCal b (endBand b s))
  let s := if (band s b).state = 0 then s else raise 51 b (bandEnter b 0 s)
  let s := dropCal b (parkBand b (bandUpd b (fun r => { RBand.reset with bootFail := r.bootFail }) s))
  let s := { s with chn := { s.chn with chans := (List.range 64).foldl (fun t i => t.clr (64 * b + i)) s.chn.chans } }
  cntClear (fun a => decide (a / 0x10000 = 6) && decide (regPd a = some (3 + b))) s

/-- PD5 goes off: launch queue, carriers, Eddy and amplifier pins. -/
def txOff (s : Chip) : Chip :=
  let s := endAll (fun _ => true) stAbortedDisabled s
  let s := { s with tx := { s.tx with entries := Tab.const none, eddy := Tab.const Eddy.reset, air := Tab.const Air.none } }
  let s := rfUpd (fun r => { r with
    carriers := Rf.reset.carriers, paEn := 0, biasOn := false, biasFall := none, biasPorts := []
    ports := r.ports.mapEnts fun _ p => { p with enFall := none } }) s
  let s := forEach [0, 1] (fun b s => bandSettle b (if (band s b).bypass then bypassOff b s else s)) s
  cntClear (ofBlock 5 5) s

/-- PD7 goes off: frame engine, prefix memory, Trade, packet buffer. A descriptor that the frame engine has taken completes
as the ABORT item of its packet would have (R42, promise 4; R35). -/
def fwdOff (s : Chip) : Chip :=
  let s := schOff s
  let s := { s with sch := { Sch.reset with flushes := s.sch.flushes } }
  let cut := (s.fe.held ++ s.fe.uplink).map fun d => (firstWord d.words, stAbortedDisabled)
  let s := dqUpd 87 (fun q => { q with aborts := q.aborts ++ cut }) s
  let s := feUpd (fun f => { Fe.reset with nodes := f.nodes, injDone := f.injDone, srcs := f.srcs }) s
  let s := sysUpd (fun y => { y with
    grpHandle := Tab.const 0, grpIndex := Tab.const 0, nhPorts := Tab.const 0, nhVid := Tab.const 0
    nhTagged := Tab.const false, nhMac := Sys.reset.nhMac }) s
  let s := pairUpd (fun p => { p with merge := Tab.const [], ready := [], held := [] }) s
  cntClear (ofBlock 8 0xB) s

/-- PD9 goes off: links, PTP port states, sequence recovery, pair training; LOCKED domains enter HOLDOVER (R264). -/
def ethOff (s : Chip) : Chip :=
  let s := pairLinkLost (linkDown 1 (linkDown 0 s))
  let s := { s with eth := s.eth.mapEnts fun _ e => { EthPort.reset with sent := e.sent } }
  let s := pairUpd (fun p => { p with rcvy := Pair.reset.rcvy }) s
  let s := forEach [0, 1] (fun d s => servoUpd d (fun v =>
    { v with gm := none, announce := Tab.const none, inLock := 0, over4 := 0, overJump := 0 }) (unlockDomain d s)) s
  cntClear (ofBlock 0xC 0xD) s

/-- PD10 goes off: LPDDR4X is held in self-refresh (R449); a capture was frozen in prepare (R488). -/
def dramOff (s : Chip) : Chip :=
  cntClear (ofBlock 0x10 0x10) (sysUpd (fun y => { y with dramSelfRefresh := true }) s)

/-- One domain goes off: what it loses (Table 16.5), then its pads are driven and latched and its outputs clamped (R21,
R465). -/
def domainOff (k : Nat) (s : Chip) : Chip :=
  let s := match k with
    | 2 => apcOff s
    | 3 => bandOff 0 s
    | 4 => bandOff 1 s
    | 5 => txOff s
    | 7 => fwdOff s
    | 8 => feUpd (fun f => { f with nodes := [], shorts := [] }) s
    | 9 => ethOff s
    | 10 => dramOff s
    | _ => s
  let s := endPolls k (flushInto k s)
  let s := pd0Upd (fun p => { p with latch := setFld p.latch k 1 1 }) s
  pwrUpd (fun p => { p with domOn := setFld p.domOn k 1 0 }) s

/-- Domains of a set go off in descending number (Table 16.2). -/
def domainsOff (down : Nat) (s : Chip) : Chip :=
  forEach ((List.range 12).reverse.filter fun k => bitOf down k) domainOff s

/-! ## Return -/

/-- A band returns: thresholds at THR_INIT (R171), its base state with the calibration of R123 (R460). -/
def bandOn (b : Nat) (s : Chip) : Chip :=
  let t := (chnCfg s 7, chnCfg s 8)
  let chans := (List.range 64).foldl (fun c i => c.upd (64 * b + i) fun h => { h with thr := t }) s.chn.chans
  let s := { s with chn := { s.chn with chans := chans } }
  let base := s.pwr.bandBase.get b
  if base = 2 then calStart b false true true none (bandUpd b (fun r => { r with base := 2 }) s)
  else bandGo b base (bandUpd b (fun r => { r with base := base }) s)

/-- The short map is rebuilt from a retained node store (Table 16.5). -/
def shortsOf (s : Chip) : Chip :=
  forEach s.fe.nodes (fun e s => if e.2.short < 0xFFFE then shortPut e.1 e.2.short s else s) s

/-- PD10 returns (R461, R488): with DRAM_LOST the ring is gone and the application image is loaded again (R424). -/
def dramOn (s : Chip) : Chip :=
  let s := sysUpd (fun y => { y with dramSelfRefresh := false }) s
  if s.pwr.dramLost then
    { s with rwd := { Rwd.reset with frz := s.rwd.frz }, dram := [], apc := { s.apc with imageLoaded := false },
             img := { s.img with appLoad := if s.img.appLoad = 0 then 0 else 1 } }
  else s

/-- One domain comes on and its settings are restored (R460). -/
def domainOn (k : Nat) (s : Chip) : Chip :=
  let s := pwrUpd (fun p => { p with domOn := setFld p.domOn k 1 1 }) s
  match k with
  | 2 => apcUpd (fun a => { a with
      cores := (Tab.const Core.reset).updAll 8 fun n c => if bitOf s.pwr.coresOff n then { c with st := 0 } else c }) s
  | 3 => bandOn 0 s
  | 4 => bandOn 1 s
  | 5 => eddyCal 0 (loadDelays s)
  | 7 => startLedgers (shortsOf s)
  | 10 => dramOn s
  | _ => s

/-- The cores of AUTO_START start again when the cluster has returned and LPDDR4X holds the image (Table 16.5). -/
def coresAgain (up : Nat) (s : Chip) : Chip :=
  if bitOf up 2 && pdOn s 2 && pdOn s 10 && s.apc.imageLoaded then autoStart 1 s else s

/-- Domains of a set come on in ascending number; a domain named in `fails` stays off, with EV_WAKE_FAIL after four
attempts (R460, R462). -/
def domainsOn (up : Nat) (fails : List (Nat × Nat)) (s : Chip) : Chip :=
  coresAgain up <| forEach ((List.range 12).filter fun k => bitOf up k) (fun k s =>
    match fails.find? fun f => f.1 = k with
    | some f => raise 9 (pack [(0, 8, f.2), (8, 8, 4)]) s
    | none => domainOn k s) s

end Sys2Proof.Machine
end

