-- ==== Sys2Proof/Machine/PowerHealth.lean ====
section
/-! DEFINITION. Registers and monitors of the power and health manager (R465 to R477): voltage loop, ageing, thermal and
supply monitors, RTC commands, pads, and the Lull buffer's read. Power states and wake are in PowerCmds.lean. -/

namespace Sys2Proof.Machine

/-- Power record field. -/
def pwrCfg (s : Chip) (id : Nat) : Nat := cfgGet s 0x0101 id

/-- RTC seconds. -/
def rtcSec (s : Chip) : Nat := s.pd0.rtc / nsSec

/-- PWR_STAT (Table 16.8). -/
def pwrStat (s : Chip) : Nat :=
  pack [(0, 2, s.pwr.state), (2, 2, s.pwr.phase), (4, 12, s.pwr.domOn), (16, 12, s.pd0.latch),
    (28, 1, b2n s.pwr.dramLost), (29, 1, b2n s.pwr.pmbusFault), (30, 1, b2n s.pwr.atCeiling), (31, 1, b2n s.pwr.ageValid)]

/-- PWR_AVS, PWR_AGE, PWR_THERM, PWR_LULL, PWR_RAILr (Table 16.9). -/
def pwrAvs (s : Chip) : Nat := pack [(0, 16, s.pwr.vcore), (16, 16, ofS 16 s.pwr.margin)]
def pwrAge (s : Chip) : Nat :=
  let days := match s.health.planned with
    | some t => (rtcSec s - t) / 86400
    | none => 0
  pack [(0, 16, s.pwr.index), (16, 8, s.health.guard), (24, 8, min 255 days)]
def pwrTherm (s : Chip) : Nat := ofS 16 s.pwr.junction
def pwrLull (s : Chip) : Nat := pack [(0, 16, s.pwr.lull.length), (16, 16, s.pwr.lullLost)]
def pwrRail (s : Chip) (r : Nat) : Nat :=
  let x := s.pwr.rails.get r
  pack [(0, 16, x.mv), (16, 1, b2n x.low), (17, 1, b2n x.high)]

/-- SYS_WAKE_CAUSE (Table 16.10). -/
def wakeCause (s : Chip) : Nat :=
  pack [(0, 4, s.pd0.wakeSource), (4, 3, s.pd0.wakeStage), (7, 3, s.pd0.attempts), (10, 1, b2n s.pd0.calmFault),
    (11, 2, s.pd0.prevState), (13, 1, b2n s.pd0.inEntry)]

/-- PWR_STATUS (Table 16.12). -/
def execPwrStatus (c : CmdRef) (s : State) : Out :=
  s.on fun s =>
  runCmd c 0x0100 s fun m =>
    checked c (zeroAt m.params 0 4) fun s =>
      complete c stOk (wr 4 (pwrStat s) ++ wr 4 (pwrAvs s) ++ wr 4 (pwrAge s) ++ wr 4 (pwrTherm s) ++ wr 4 (pwrLull s) ++
        (List.range 8).flatMap (fun r => wr 4 (pwrRail s r)) ++ wr 4 (wakeCause s)) s

/-- The RTC takes a value; an alarm that then lies in the future can fall. -/
def setRtc (ns : Nat) (s : Chip) : Chip :=
  { s with pd0 := { s.pd0 with rtc := ns, alarmDone := s.pd0.alarmDone && decide (s.pd0.alarmSec * nsSec ≤ ns) } }

/-- The RTC alarm is set; it falls when the RTC next reaches it. -/
def setAlarm (sec : Nat) (en : Bool) (s : Chip) : Chip :=
  { s with pd0 := { s.pd0 with alarmSec := sec, alarmEn := en, alarmDone := decide (sec * nsSec ≤ s.pd0.rtc) } }

/-- RTC_SET. -/
def execRtcSet (c : CmdRef) (s : State) : Out :=
  s.on fun s =>
  runCmd c 0x0102 s fun m =>
    checked c (zeroAt m.params 6 2) fun s =>
      complete c stOk (wr 6 (rtcSec s) ++ zeros 2) (setRtc (rd m.params 0 6 * nsSec) s)

/-- RTC_ALARM_SET. -/
def execRtcAlarmSet (c : CmdRef) (s : State) : Out :=
  s.on fun s =>
  runCmd c 0x0103 s fun m =>
    checked c (maskAt m.params 6 1 ++ zeroAt m.params 7 1) fun s =>
      complete c stOk [] (setAlarm (rd m.params 0 6) (bitOf (rd m.params 6 1) 0) s)

/-- PAD_RELEASE: the latches of the named domains that are on open (R466). -/
def execPadRelease (c : CmdRef) (s : State) : Out :=
  s.on fun s =>
  runCmd c 0x0104 s fun m =>
    checked c (maskAt m.params 1 0x0F ++ zeroAt m.params 2 2) fun s =>
      let s := { s with pd0 := { s.pd0 with latch := s.pd0.latch &&& notN 12 (rd m.params 0 2 &&& s.pwr.domOn) } }
      complete c stOk (wr 2 s.pd0.latch ++ zeros 2) s

/-- Bytes of a Lull record: 8 descriptor words and the frame, padded (Table 16.12). -/
def lullBytes (r : List Word × Bytes) : Bytes := bytesOf r.1 ++ pad4 r.2

/-- The whole records that fit a result. -/
def lullTake : Nat → Nat → List (List Word × Bytes) → List (List Word × Bytes)
  | 0, _, _ => []
  | _, _, [] => []
  | k + 1, room, r :: l => if (lullBytes r).length ≤ room then r :: lullTake k (room - (lullBytes r).length) l else []

/-- LULL_READ: returns records and frees them (R459). -/
def execLullRead (c : CmdRef) (s : State) : Out :=
  s.on fun s =>
  runCmd c 0x0105 s fun m =>
    checked c ((0, within 1 255 (rd m.params 0 2)) :: zeroAt m.params 2 2) fun s =>
      let l := lullTake (rd m.params 0 2) 8184 s.pwr.lull
      let s := { s with pwr := { s.pwr with lull := s.pwr.lull.drop l.length } }
      complete c stOk (wr 2 l.length ++ wr 2 s.pwr.lull.length ++ wr 4 s.pwr.lullLost ++ l.flatMap lullBytes) s

/-- A monitor takes its sample when one is due, the next after `period`. -/
def monitor (k period : Nat) (s : Chip) (f : Chip → Chip) : Chip :=
  if s.now < s.pwr.due.get k then s
  else f { s with pwr := { s.pwr with due := s.pwr.due.set k (s.now + period) } }

/-! ## Voltage loop (R467 to R469) -/

/-- A PMBus transaction has failed: the third in a row faults the loop (R469). -/
def pmbusFail (s : Chip) : Chip :=
  let s := { s with pwr := { s.pwr with fails := s.pwr.fails + 1 } }
  if s.pwr.fails = 3 then raise 12 0xFFFF { s with pwr := { s.pwr with pmbusFault := true } } else s

/-- EV_VCORE_AVS payload. -/
def avsPayload (s : Chip) : Nat := pack [(0, 16, s.pwr.vcore), (16, 16, ofS 16 s.pwr.margin)]

/-- VCORE that the loop calls for (R468), and whether m has been high for 100 consecutive ms. -/
def loopTarget (m : Int) (above : Nat) (s : Chip) : Nat :=
  let g := s.health.guard
  if m < (pwrCfg s 9 + g : Nat) then min (s.pwr.vcore + 5) (pwrCfg s 0xC)
  else if 100 ≤ above then max (s.pwr.vcore - 5) (pwrCfg s 0xB)
  else s.pwr.vcore

/-- R469, second case: VCORE at its ceiling with the margin below target; EV_VCORE_AVS is raised at once, and the movement
and the 10 s of R468 count from it. -/
def ceiling (s : Chip) : Chip :=
  let at_ := decide (s.pwr.vcore = pwrCfg s 0xC ∧ s.pwr.margin < (pwrCfg s 9 : Nat))
  let rise := at_ && !s.pwr.atCeiling
  let s := { s with pwr := { s.pwr with atCeiling := at_ } }
  if rise then
    raise 11 (avsPayload s) { s with pwr := { s.pwr with avsRef := s.pwr.vcore }
                                     ev := { s.ev with limits := insertIn s.ev.limits (limKey 11 0) s.now } }
  else s

/-- CANARY_MEASURE, every 1 ms: one pass of the voltage loop (R468); `failed`: its VOUT_COMMAND fails by NACK or PEC. -/
def execCanaryMeasure (margin : Int) (failed : Bool) (s : State) : Out :=
  s.on fun s =>
  .next (if !pdOn s 1 || !s.pwr.loopOn then s
    else monitor 0 nsMs s fun s =>
      let above := if (pwrCfg s 0xA + s.health.guard : Nat) < margin then s.pwr.above + 1 else 0
      let s := { s with pwr := { s.pwr with margin := margin, above := above } }
      if s.pwr.pmbusFault then s
      else
        let v := loopTarget margin above s
        if v = s.pwr.vcore then ceiling s
        else if failed then pmbusFail s
        else
          let s := { s with pwr := { s.pwr with vcore := v, fails := 0, voutCheck := some v
                                                due := s.pwr.due.set 1 (s.now + 200 * nsUs) } }
          let moved := decide (20 ≤ max v s.pwr.avsRef - min v s.pwr.avsRef)
          let s := if moved && limFree 11 0 (10 * nsSec) s then
              raiseLim 11 0 (10 * nsSec) (avsPayload s) { s with pwr := { s.pwr with avsRef := v } } else s
          ceiling s)

/-- READ_VOUT_CHECK: READ_VOUT 200 µs after a VOUT_COMMAND (R468); `mv` has no effect that the specification states. -/
def execReadVoutCheck (_mv : Nat) (failed : Bool) (s : State) : Out :=
  s.on fun s =>
  .next (match s.pwr.voutCheck with
    | none => s
    | some _ =>
      if s.now < s.pwr.due.get 1 then s
      else
      let s := { s with pwr := { s.pwr with voutCheck := none } }
      if failed then pmbusFail s else { s with pwr := { s.pwr with fails := 0 } })

/-- STATUS_WORD_POLL: every 10 ms; a nonzero value raises EV_PMBUS_FAULT at most once per second (R467). -/
def execStatusWordPoll (value : BitVec 16) (failed : Bool) (s : State) : Out :=
  s.on fun s =>
  .next (if !pdOn s 1 || !s.pwr.loopOn || s.pwr.pmbusFault then s
    else monitor 2 (10 * nsMs) s fun s =>
      if failed then pmbusFail s
      else
      let s := { s with pwr := { s.pwr with fails := 0 } }
      if value = 0 then s else raiseLim 12 0 nsSec value.toNat s)

/-- PMBUS_RETRY: while PMBUS_FAULT, every 100 ms (R469). -/
def execPmbusRetry (ok : Bool) (s : State) : Out :=
  s.on fun s =>
  .next (if s.pwr.pmbusFault && limFree 12 1 (100 * nsMs) s then
      let s := { s with ev := { s.ev with limits := insertIn s.ev.limits (limKey 12 1) s.now } }
      if ok then { s with pwr := { s.pwr with pmbusFault := false, fails := 0 } } else s
    else s)

/-! ## Ageing (R470 to R472) -/

/-- A re-plan applies: none yet, 30 days since the last, or an RTC time before its date (R472). -/
def replanDue (s : Chip) : Bool :=
  match s.health.planned with
  | none => true
  | some t => decide (rtcSec s < t ∨ t + 30 * 86400 ≤ rtcSec s)

/-- A check of the ageing index (R470 to R472): the state after it and whether a re-plan was applied. -/
def ageingDo (index : Nat) (s : Chip) : Chip × Bool :=
  let valid := !s.cal.nominal.contains 8
  let idx := if valid then min 0xFFFF index else 0
  let plan := valid && replanDue s
  let s := { s with pwr := { s.pwr with index := idx, ageValid := valid }
                    health := { s.health with checked := some (rtcSec s) } }
  let s := if plan then
      { s with health := { s.health with guard := min (max s.health.guard ((idx + 4) / 5)) 200, planned := some (rtcSec s) } }
    else s
  (raise 15 (pack [(0, 16, idx), (16, 1, b2n plan)]) s, plan)

/-- AGEING_CHECK: 24 h of RTC time have passed since the last check (R471). -/
def execAgeingCheck (index : Nat) (s : State) : Out :=
  s.on fun s =>
  let due := match s.health.checked with
    | none => true
    | some t => decide (rtcSec s < t ∨ t + 86400 ≤ rtcSec s)
  .next (if due && decide (4 ≤ s.boot.stage) then (ageingDo index s).1 else s)

/-- AGE_CHECK: the check at once (R477). -/
def execAgeCheck (c : CmdRef) (index : Nat) (s : State) : Out :=
  s.on fun s =>
  runCmd c 0x0106 s fun m =>
    checked c (zeroAt m.params 0 4) fun s =>
      let (s, plan) := ageingDo index s
      complete c stOk (wr 2 s.pwr.index ++ wr 1 s.health.guard ++ wr 1 (b2n plan)) s

/-! ## Temperature and supplies (R473, R474) -/

/-- EV_THERMAL with a threshold code. -/
def raiseThermal (code : Nat) (s : Chip) : Chip :=
  raise 13 (pack [(0, 16, ofS 16 s.pwr.junction), (16, 8, code)]) s

/-- THERMAL_SAMPLE, every 1 ms: the highest of the eight readings, 0.1 °C (R473). -/
def execThermalSample (readings : List Int) (s : State) : Out :=
  s.on fun s =>
  match readings with
  | [] => .fault .illFormed
  | r :: rs =>
    if rs.length ≠ 7 then .fault .illFormed
    else .next (if !pdOn s 1 then s
      else monitor 3 nsMs s fun s =>
        let j := rs.foldl max r
        let warn : Int := 10 * (pwrCfg s 0xF : Nat)
        let s := { s with pwr := { s.pwr with junction := j } }
        let s := if !s.pwr.warm && decide (warn < j) then raiseThermal 0 { s with pwr := { s.pwr with warm := true } }
          else if s.pwr.warm && decide (j < warn - 50) then raiseThermal 3 { s with pwr := { s.pwr with warm := false } }
          else s
        if decide (1150 < j) then
          (if s.pwr.hot then s else raiseThermal 1 { s with pwr := { s.pwr with hot := true } })
        else { s with pwr := { s.pwr with hot := false } })

/-- Window of a rail, mV (Table 16.6); VIO banks are nominally 1.8 V or 3.3 V. -/
def railWindow (s : Chip) (r mv : Nat) : Nat × Nat :=
  match r with
  | 0 => (s.pwr.vcore - 30, s.pwr.vcore + 30)
  | 1 => (760, 840)
  | 2 => (855, 945)
  | 3 => (1710, 1890)
  | 4 => if mv < 2400 then (1710, 1890) else (3135, 3465)
  | 5 => (1060, 1170)
  | 6 => (570, 650)
  | _ => (1700, 3600)

/-- One rail's sample: LOW, HIGH and EV_SUPPLY at most once per 10 s (R474). VDD2 or VDDQ outside its window while
LPDDR4X is in self-refresh loses its contents (Table 16.5). -/
def railDo (r mv : Nat) (s : Chip) : Chip :=
  let (lo, hi) := railWindow s r mv
  let out := decide (mv < lo ∨ hi < mv)
  let s := { s with pwr := { s.pwr with rails := s.pwr.rails.set r ⟨mv, decide (mv < lo), decide (hi < mv)⟩
                                        dramLost := s.pwr.dramLost || (out && s.sys.dramSelfRefresh && within 5 6 r) } }
  if mv < lo ∨ hi < mv then raiseLim 14 r (10 * nsSec) (pack [(0, 8, r), (16, 16, mv)]) s else s

/-- RAIL_SAMPLE, every 10 µs: the eight rails, in the order of Table 16.6. -/
def execRailSample (mv : List Nat) (s : State) : Out :=
  s.on fun s =>
  if mv.length ≠ 8 then .fault .illFormed
  else .next (if !pdOn s 1 then s else monitor 4 (10 * nsUs) s (forEach ((List.range 8).zip mv) fun p => railDo p.1 p.2))

/-- STATUS_INPUT_POLL: with LULL_AUTO, VIN_UV_WARNING every 1 ms (R457). -/
def execStatusInputPoll (value : Byte) (s : State) : Out :=
  s.on fun s =>
  let uv := value.getLsbD 5
  .next (if !pdOn s 1 || decide (pwrCfg s 2 = 0) then s
    else monitor 5 nsMs s fun s =>
      if uv = s.pwr.uv then s else { s with pwr := { s.pwr with uv := uv, uvSince := s.now } })

/-- RTC_CRYSTAL_FALLBACK: the crystal has not oscillated within 1 s of VAON rising; the RTC runs from the RC oscillator
(R522). -/
def execRtcCrystalFallback (s : State) : Out :=
  s.on fun s =>
  .next (if s.now < nsSec then s else { s with pd0 := { s.pd0 with rtcRc := true } })

end Sys2Proof.Machine
end

