-- ==== Sys2Proof/Machine/PowerCmds.lean ====
section
/-! DEFINITION. Power states and transitions (R448 to R464): PWR_STATE_SET, the prepare phase with its votes, commit, the
automatic entry to Lull and its return, the RTC alarm, and Calm. -/

namespace Sys2Proof.Machine

/-! ## Requests -/

/-- A power state with its choices (Table 16.1): state, domains on, cores off, ports off, live band, RETAIN. -/
structure PowerSet where
  state : Nat
  on : Nat
  cores : Nat
  ports : Nat
  band : Nat
  retain : Bool
deriving DecidableEq, Repr

/-- Domain set as a mask, bit k for PDk. -/
def maskOf (l : List Nat) : Nat := sumN (l.map (2 ^ ·))

/-- The set that PWR_STATE_SET asks for (Tables 1.4 and 16.12, R449). -/
def powerSet (p : Bytes) : PowerSet :=
  let (cores, opt, b) := (rd p 2 1, rd p 3 1, rd p 4 1)
  let ports := fld opt 3 3
  match rd p 0 1 with
  | 0 => ⟨0, 0xFFF, 0, 0, 0, false⟩
  | 1 =>
    let off := maskOf ((if cores = 0xFF then [2] else []) ++ (if bitOf opt 0 then [3] else []) ++
      (if bitOf opt 1 then [4] else []) ++ (if bitOf opt 2 then [5] else []) ++ (if ports = 7 then [9] else []) ++
      (if bitOf opt 6 then [10] else []))
    ⟨1, 0xFFF - off, cores, ports, 0, false⟩
  | 2 =>
    let (band, retain) := (fld b 0 1, bitOf b 1)
    ⟨2, maskOf ([0, 1, 6, 11, 3 + band] ++ if retain then [8] else []), 0xFF, 7, band, retain⟩
  | _ => ⟨3, 1, 0xFF, 7, 0, false⟩

/-- The set in force. -/
def powerNow (s : Chip) : PowerSet := ⟨s.pwr.state, s.pwr.domOn, s.pwr.coresOff, s.pwr.portsOff, s.pwr.liveBand, s.pwr.retain⟩

/-- The alarm that Calm asks for is refused (R456): true. -/
def calmAlarmBad (p : Bytes) (s : Chip) : Bool :=
  let a := rd p 8 6
  if a ≠ 0 then decide (a * nsSec < s.pd0.rtc + nsSec)
  else if s.pd0.alarmEn then decide (s.pd0.alarmSec * nsSec ≤ s.pd0.rtc)
  else !bitOf (rd p 1 1) 1

/-- Time since prepare began, µs. -/
def prepareUs (t : Trans) (s : Chip) : Nat := (s.now - t.startedAt) / nsUs

/-! ## Raising (R460) -/

/-- A core that had been named off returns. -/
def coreBack (n : Nat) (s : Chip) : Chip :=
  let s := coreUpd n (fun _ => Core.reset) s
  if bitOf (apcCfg s 1) n && s.apc.imageLoaded && pdOn s 10 then
    startCore n (BitVec.ofNat 64 dramBase) 1 s
  else s

/-- Cores, ports and the pair link named off lose power or their link; cores no longer named off return. -/
def coresPorts (was : PowerSet) (w : PowerSet) (s : Chip) : Chip :=
  let s := forEach (List.range 8) (fun n s =>
    if !pdOn s 2 then s
    else if bitOf w.cores n then (if (coreOf s n).st = 0 then s else coreOff n s)
    else if bitOf was.cores n && bitOf was.on 2 then coreBack n s
    else s) s
  let s := if bitOf w.ports 0 then linkDown 0 s else s
  let s := if bitOf w.ports 1 then linkDown 1 s else s
  if bitOf w.ports 2 then pairLinkLost s else s

/-- The device enters a set: the domains of `down` go off, those it lacks come on (R450, R460), PHASE returns to steady
and EV_PWR_STATE is raised. -/
def enterSet (w : PowerSet) (down : Nat) (fails : List (Nat × Nat)) (s : Chip) : Chip :=
  let was := powerNow s
  let s := domainsOff down s
  let s := pwrUpd (fun p => { p with
    state := w.state, phase := 0, trans := none, coresOff := w.cores, portsOff := w.ports, liveBand := w.band, retain := w.retain }) s
  let s := coresPorts was w s
  raise 10 (pack [(0, 8, was.state), (8, 8, w.state)]) (domainsOn (w.on &&& notN 12 s.pwr.domOn) fails s)

/-- The first domain of a raise that fails. -/
def firstFail (up : Nat) (fails : List (Nat × Nat)) : Option (Nat × Nat) :=
  (List.range 12).findSome? fun k => if bitOf up k then fails.find? fun f => f.1 = k else none

/-! ## Prepare (R450 to R453) -/

/-- Cores that a transition takes down. -/
def coresGoing (t : Trans) : List Nat := (List.range 8).filter fun n => bitOf t.down 2 || bitOf t.coresOff n

/-- Blocks of the domains that go down, and SYS, PAIR and SEC, by block code. -/
def votersOf (t : Trans) : List Nat :=
  let any := fun (l : List Nat) => l.any (bitOf t.down ·)
  (List.range 18).filter fun b =>
    match b with
    | 0x01 => any [1]
    | 0x02 => any [11]
    | 0x03 => any [3]
    | 0x04 => any [4]
    | 0x05 => any [3, 4, 5]
    | 0x06 => any [3, 4]
    | 0x07 => any [3, 4, 6]
    | 0x08 => any [7]
    | 0x09 => any [7, 8]
    | 0x0A => any [7]
    | 0x0B => any [7]
    | 0x0C => any [9]
    | 0x0F => !(coresGoing t).isEmpty
    | 0x10 => any [10]
    | 0x11 => any [10]
    | _ => true

/-- A launch whose band domain, or PD5, goes down. -/
def launchGoing (t : Trans) (l : Launch) : Bool := l.ended.isNone && (bitOf t.down 5 || bitOf t.down (3 + l.band))

/-- This unit owns in PAIRED, and PD5 or PD9 goes down. -/
def mustYield (t : Trans) (s : Chip) : Bool := s.pair.owner && decide (s.pair.st = 3) && (bitOf t.down 5 || bitOf t.down 9)

/-- Contexts of the bands that go down. -/
def ctxsGoing (t : Trans) (s : Chip) : List Nat :=
  (if bitOf t.down 3 then bandBusy s 0 else []) ++ (if bitOf t.down 4 then bandBusy s 1 else [])

/-- An activation is open on a core that goes down. -/
def actsGoing (t : Trans) (s : Chip) : List Nat := (coresGoing t).filter fun n => (coreOf s n).act.isSome

/-- Reason for which a block refuses at once (Table 16.3). -/
def refuses (t : Trans) (s : Chip) (b : Nat) : Option Nat :=
  match b with
  | 0x00 => if s.img.session.isSome ∧ t.target = 3 then some 5 else none
  | 0x03 => if ((band s 0).cal.any fun c => c.cmd.isSome) ∧ bitOf t.down 3 then some 3 else none
  | 0x04 => if ((band s 1).cal.any fun c => c.cmd.isSome) ∧ bitOf t.down 4 then some 3 else none
  | 0x05 => if (launches s).any fun e => launchGoing t e.2 && decide (e.2.phase < 3) then some 1 else none
  | 0x10 => if s.rwd.replay.isSome ∧ bitOf t.down 10 then some 6 else none
  | _ => none

/-- A block has reached its drain point. -/
def drained (t : Trans) (s : Chip) (b : Nat) : Bool :=
  match b with
  | 0x03 => (band s 0).cal.isNone || !bitOf t.down 3
  | 0x04 => (band s 1).cal.isNone || !bitOf t.down 4
  | 0x05 => !(launches s).any fun e => launchGoing t e.2
  | 0x07 => (ctxsGoing t s).isEmpty
  | 0x0D => !mustYield t s
  | 0x0E => s.sec.commits.isEmpty
  | 0x0F => (actsGoing t s).isEmpty
  | _ => true

/-- What a block that would refuse does with FORCE = 1 (Table 16.3). -/
def forceBlock (t : Trans) (b : Nat) (s : Chip) : Chip :=
  match b with
  | 0x00 => closeSession s
  | 0x03 => stopCal 0 s
  | 0x04 => stopCal 1 s
  | 0x05 => endAll (fun l => launchGoing t l && decide (l.phase < 3)) stAbortedDisabled s
  | 0x07 => forEach (ctxsGoing t s) (fun x s => endCtx x 9 s) s
  | 0x0D => stopOwn s
  | 0x0F => forEach (actsGoing t s) (fun n s => faultCore n 4 s) s
  | 0x10 => match s.rwd.replay with
    | some r => (stopReplay r s).2
    | none => s
  | _ => s

/-- Every block that has voted or drains receives RESUME (R454). -/
def resumeAll (s : Chip) : Chip :=
  let s := forEach (List.range 8) (fun n s => coreUpd n (fun c => { c with hold := false }) s) s
  let s := if s.pair.yieldCmd.isNone ∧ s.pair.yielding then pairUpd (fun p => { p with yielding := false }) s else s
  pwrUpd (fun p => { p with trans := none, phase := 0 }) s

/-- The first refusal ends prepare (R454); an RTC alarm held for the entry that is off finds the device awake. -/
def refuse (t : Trans) (b reason : Nat) (s : Chip) : Chip :=
  let s := if s.pd0.alarmHeld then raise 29 0 s else s
  let s := pd0Upd (fun p => { p with alarmHeld := false }) (raise 7 b (resumeAll s))
  match t.cmd with
  | some c => complete c stSleepRefused (wr 1 b ++ wr 1 reason ++ zeros 2 ++ wr 4 (prepareUs t s)) s
  | none => s

/-- The alarm that PWR_STATE_SET asks for, and NO_ALARM (R456). -/
def setCalmAlarm (p : Bytes) (s : Chip) : Chip :=
  let s := if rd p 8 6 ≠ 0 then setAlarm (rd p 8 6) true s else s
  if bitOf (rd p 1 1) 1 then pd0Upd (fun d => { d with alarmEn := false }) s else s

/-- Every vote is yes: the command completes (Table 16.2, step 3); for Calm the device acts as SYS_RESET does from its
acceptance point, with no delay (R456). -/
def votesIn (t : Trans) (s : Chip) : Chip :=
  let old := s.pwr.state
  let s := pwrUpd (fun p => { p with trans := some { t with voted := true } }) s
  match t.cmd with
  | some c =>
    let s := if t.target = 3 then setCalmAlarm ((findCmd c s).map Cmd.params |>.getD []) s else s
    let s := complete c stOk (wr 1 old ++ zeros 3 ++ wr 4 (prepareUs t s)) s
    if t.target = 3 then resetAccept 0 t.cmdNo s.now s else s
  | none => s

/-- A block votes yes. -/
def voteYes (t : Trans) (b : Nat) (s : Chip) : Chip :=
  let t := { t with yes := b :: t.yes }
  let s := pwrUpd (fun p => { p with trans := some t }) s
  if (votersOf t).all t.yes.contains then votesIn t s else s

/-- A block refuses; of those that refuse at this instant the lowest code counts as first (R454). With FORCE it acts as
Table 16.3 states and votes yes. -/
def refuseOrForce (t : Trans) (b reason : Nat) (s : Chip) : Chip :=
  if t.force then voteYes t b (forceBlock t b s)
  else match (votersOf t).find? fun x => !t.yes.contains x && (refuses t s x).isSome && decide (x ≤ b) with
    | some x => refuse t x ((refuses t s x).getD reason) s
    | none => refuse t b reason s

/-- BLOCK_VOTE: a block has drained, or refuses. -/
def execBlockVote (block : Fin 18) (s : State) : Out :=
  s.on fun s =>
  let b := block.val
  .next (match s.pwr.trans with
    | some t =>
      if t.voted ∨ t.yes.contains b ∨ !(votersOf t).contains b then s
      else match refuses t s b with
        | some r => refuseOrForce t b r s
        | none => if drained t s b then voteYes t b s else s
    | none => s)

/-- Blocks with a limit of their own during prepare: the limit in ns, and the reason (Table 16.3). -/
def voteLimit (s : Chip) (b : Nat) : Option (Nat × Nat) :=
  match b with
  | 0x07 => some (pwrCfg s 1 * nsMs, 2)
  | 0x0D => some (nsMs, 8)
  | 0x0F => some (10 * nsMs, 4)
  | _ => none

/-- PREPARE_TIMEOUT: a block has not drained within its limit. -/
def execPrepareTimeout (block : Fin 18) (s : State) : Out :=
  s.on fun s =>
  let b := block.val
  .next (match s.pwr.trans, voteLimit s b with
    | some t, some (lim, reason) =>
      if t.voted ∨ t.yes.contains b ∨ !(votersOf t).contains b ∨ drained t s b ∨ s.now < t.startedAt + lim then s
      else refuseOrForce t b reason s
    | _, _ => s)

/-- LAST_GASP_NOTICE (R458): a push with the EV_PWR_STATE record, old state to Lull, at PCP 7, to every enabled host of each
port whose link is up and whose management transport is enabled. -/
def lastGasp (s : Chip) : Chip :=
  let r := evRecord 10 (evLevel 10) (unlockedAt s s.time.stampDom) false (nsWord s) (pack [(0, 8, s.pwr.state), (8, 8, 2)]) s
  let ports := [0, 1].filter fun p => (s.eth.get p).link && trEn s (1 + p)
  if ports.isEmpty then s
  else
    let pkt := pushPacket [r] s
    let s := forEach ports (fun p s => sendPush (1 + p) 7 pkt s) s
    { s with ev := { s.ev with pushSeq := (s.ev.pushSeq + 1) % 2 ^ 32 } }

/-- Prepare begins (Table 16.2, step 1; R438, R458, R488). -/
def beginPrepare (t : Trans) (s : Chip) : Chip :=
  let s := pwrUpd (fun p => { p with trans := some t, phase := 1 }) s
  let s := forEach (coresGoing t) (fun n s => coreUpd n (fun c => { c with hold := true }) s) s
  let s := if bitOf t.down 10 then freezeFor 3 s else s
  let s := if mustYield t s then pairUpd (fun p => { p with yielding := true }) s else s
  if t.target = 2 then lastGasp s else s

/-- What a change of the power state takes down, if anything: domains, cores, ports and the pair link. -/
def goesDown (w : PowerSet) (s : Chip) : Nat × Nat × Nat :=
  (s.pwr.domOn &&& notN 12 w.on, w.cores &&& notN 8 s.pwr.coresOff, w.ports &&& notN 3 s.pwr.portsOff)

/-- A change of the power state: it prepares when something goes down, else the domains come on at once. Answers the first
domain that stays off, when the change is done. -/
def changeState (w : PowerSet) (force : Bool) (cmd : Option CmdRef) (no : Nat) (fails : List (Nat × Nat)) (s : Chip) :
    Chip × Option (Option (Nat × Nat)) :=
  let (d, c, p) := goesDown w s
  if d = 0 ∧ c = 0 ∧ p = 0 then
    let up := w.on &&& notN 12 s.pwr.domOn
    (enterSet w 0 fails s, some (firstFail up fails))
  else
    (beginPrepare ⟨w.state, force, d, w.on, w.cores, w.ports, w.band, w.retain, cmd, no, [], s.now, false⟩ s, none)

/-- Domains that stay off, with the stage of Table 16.4 that failed: logic (4) or memory (3) (R460). -/
def failList (l : List (Fin 12 × Bool)) : List (Nat × Nat) := l.map fun f => (f.1.val, if f.2 then 4 else 3)

/-- PWR_STATE_SET. `fails`: domains whose stage still fails after the retries; true: its logic stage, false: its memory stage (R460). -/
def execPwrStateSet (c : CmdRef) (fails : List (Fin 12 × Bool)) (s : State) : Out :=
  s.on fun s =>
  runCmd c 0x0101 s fun m s =>
    let p := m.params
    if s.pwr.trans.isSome then s
    else
      let w := powerSet p
      checked c ([ck 0 (rd p 0 1 ≤ 3)] ++ maskAt p 1 3 ++
          [(3, !(decide (rd p 0 1 = 1) && bitOf (rd p 3 1) 6 && (List.range 8).any fun n => decide (1 < (coreOf s n).st)))] ++ maskAt p 3 0x7F ++ maskAt p 4 3 ++
          zeroAt p 5 3 ++ [(8, !(decide (rd p 0 1 = 3) && calmAlarmBad p s))] ++ zeroAt p 14 2) (fun s =>
        if w = powerNow s then complete c stOk (wr 1 s.pwr.state ++ zeros 7) s
        else
          let old := s.pwr.state
          let s := pwrUpd (fun q => { q with autoLull := false, before := none }) s
          match changeState w (bitOf (rd p 1 1) 0) (some c) m.no (failList fails) s with
          | (s, some none) => complete c stOk (wr 1 old ++ zeros 7) s
          | (s, some (some f)) => complete c stWakeFail (wr 1 f.1 ++ wr 1 f.2 ++ zeros 6) s
          | (s, none) => s) s

/-! ## Commit (R450, R455) -/

/-- The queues that cross into the domains of a set are flushed before the isolation, and their consumers complete the
ABORT items (R20, R35). -/
def quiesce (down : Nat) (s : Chip) : Chip :=
  forEach (((List.range 12).reverse.filter fun k => bitOf down k).flatMap crossInto) (fun n s =>
    let s := dqUpd n (fun q => { q.flush 0b01 with flushing := false }) s
    (pull n s).2) s

/-- Entry to Calm: every queue into a departing domain is flushed (R20), PD1 goes off last, every pad is latched and
WAKE_OUT falls. What the completions reach is lost with PD1. -/
def enterCalm (s : Chip) : Chip :=
  let old := s.pwr.state
  let s := quiesce (s.pwr.domOn &&& 0xFFE) s
  let s := pd0Upd (fun p => { p with prevState := old, latch := 0xFFE }) (jTear s)
  sleepIn .calm s

/-- POWER_COMMIT. -/
def execPowerCommit (s : State) : Out :=
  s.on fun s =>
  .next (match s.pwr.trans with
    | some t =>
      if !t.voted ∨ (t.cmd.isSome ∧ !replyLeft t.cmdNo s) then s
      else if t.target = 3 then enterCalm s
      else
        let s := pd0Upd (fun p => { p with prevState := s.pwr.state }) s
        enterSet ⟨t.target, t.onAfter, t.coresOff, t.portsOff, t.band, t.retain⟩ t.down [] s
    | none => s)

/-! ## Lull (R457) -/

/-- LULL_AUTO_ENTRY: VIN_UV_WARNING has been set for LULL_DEBOUNCE; the entry is forced. -/
def execLullAutoEntry (s : State) : Out :=
  s.on fun s =>
  .next (if pdOn s 1 && decide (pwrCfg s 2 = 1) && s.pwr.uv && decide (s.pwr.uvSince + pwrCfg s 3 * nsMs ≤ s.now) &&
      s.pwr.trans.isNone && decide (s.pwr.state < 2) && decide (4 ≤ s.boot.stage) then
      let b := pwrCfg s 5
      let retain := decide (pwrCfg s 6 = 1)
      let n := powerNow s
      let s := pwrUpd (fun p => { p with autoLull := true, before := some (n.state, n.on, n.cores, n.ports) }) s
      (changeState (powerSet (wr 1 2 ++ zeros 3 ++ wr 1 (b + 2 * b2n retain))) true none 0 [] s).1
    else s)

/-- LULL_AUTO_RETURN: the bit has been clear for LULL_RETURN_HOLD. -/
def execLullAutoReturn (fails : List (Fin 12 × Bool)) (s : State) : Out :=
  s.on fun s =>
  .next (match s.pwr.before with
    | some (st, on, cores, ports) =>
      if s.pwr.autoLull && decide (s.pwr.state = 2) && s.pwr.trans.isNone && !s.pwr.uv &&
          decide (s.pwr.uvSince + pwrCfg s 4 * nsSec ≤ s.now) then
        let s := pwrUpd (fun p => { p with autoLull := false, before := none }) s
        (changeState ⟨st, on, cores, ports, 0, false⟩ true none 0 (failList fails) s).1
      else s
    | none => s)

/-! ## The RTC alarm and the end of Calm (R455, R462, R463) -/

/-- RTC_ALARM: in Calm a wake, in Calm-Fault a new start of four attempts; during an entry to Calm it is held; while the
device is awake it raises EV_RTC_ALARM (Table 2.13). -/
def execRtcAlarm (s : State) : Out :=
  s.on fun s =>
  .next (if !s.pd0.alarmEn || s.pd0.alarmDone || decide (s.pd0.rtc < s.pd0.alarmSec * nsSec) then s
    else
      let s := pd0Upd (fun p => { p with alarmDone := true }) s
      if s.boot.wait = .calm then startFrom (if s.pwr.faultn then 8 else 7) .wake false s
      else if s.pwr.trans.any fun t => t.target = 3 then pd0Upd (fun p => { p with alarmHeld := true }) s
      else if pdOn s 1 then raise 29 0 s
      else s)

/-- WAKE_AFTER_ENTRY: the held alarm starts the wake once WAKE_OUT has been low for 1 ms. -/
def execWakeAfterEntry (s : State) : Out :=
  s.on fun s =>
  .next (if s.boot.wait = .calm ∧ s.pd0.alarmHeld ∧ s.pwr.wakeLow + nsMs ≤ s.now then startFrom 7 .wake true s else s)

end Sys2Proof.Machine
end

