-- ==== Sys2Proof/Machine/Boot.lean ====
section
/-! DEFINITION. The boot (R83 to R94): wake stages (R462 to R465), the steps of Table 3.3 in order, the images that they
load (R401 to R407, R412), solo timeout, and TAMPER_CLEAR, which resumes a boot from Tamper-Hold (R92, R393). -/

namespace Sys2Proof.Machine

/-! ## Boot step 1: the wake stages (R462) -/

/-- Timeouts of Table 16.4, ns. -/
def stageLimit (k : Nat) : Nat := [0, 2000000, 10000000, 1000000, 500000].getD k 0

/-- A domain at PD11 power-up (R257): FREE, nominal INC, time from the RTC, EPOCH one on from its mirror. -/
def domainUp (d : Nat) (s : Chip) : Chip :=
  let e := ((if d = 0 then s.pd0.epoch0 else s.pd0.epoch1) + 1) % 2 ^ 32
  let t := (rtcSec s * nsSec + rtcSub s * nsSec / 32768) * 2 ^ 32
  let s := tdUpd d (fun _ => { TimeDom.reset with t := t, epoch := e }) s
  let s := pd0Upd (fun p => if d = 0 then { p with epoch0 := e } else { p with epoch1 := e }) s
  raise 28 (pack [(0, 1, d), (32, 32, e)]) s

/-- Stage 4 ends: PD1 and PD11 leave reset, their pads open, FAULTn is released (R463, R465). -/
def stageFour (s : Chip) : Chip :=
  let s := pwrUpd (fun p => { p with stage := 0, faultn := false, domOn := p.domOn ||| 0x802 }) s
  let s := pd0Upd (fun p => { p with latch := p.latch &&& notN 12 0x802 }) s
  domainUp 1 (domainUp 0 (bootUpd (fun b => { b with wait := .none }) s))

/-- Stage 2 ends: output 3 is locked, to REFCLK when present, else to the internal oscillator, which is a loss of REFCLK
(R118, R462). -/
def stageTwo (refclk : Bool) (s : Chip) : Chip :=
  let s := { s with scs := { s.scs with lock := setFld s.scs.lock 3 1 1, refOk := refclk, holdover := !refclk } }
  if refclk then s else raise 22 0 s

/-- WAKE_STAGE_READY: `refclk`: REFCLK is present, as stage 2 senses it. -/
def execWakeStageReady (refclk : Bool) (s : State) : Out :=
  s.on fun s =>
  .next (if s.boot.wait ≠ .wake ∨ s.pwr.stage = 0 then s
    else if s.pwr.stage = 4 then stageFour s
    else
      let s := if s.pwr.stage = 2 then stageTwo refclk s else s
      pwrUpd (fun p => { p with stage := p.stage + 1, stageAt := s.now }) s)

/-- Calm-Fault is entered after the fourth failed attempt (R463). FAULT_RETRY is the stored record's, or its default. -/
def calmFault (k : Nat) (s : Chip) : Chip :=
  let s := sleepIn .calm s
  let s := pwrUpd (fun p => { p with faultn := true }) s
  let s := pd0Upd (fun p => { p with wakeStage := k, failStage := k, attempts := 4, failAttempts := 4, calmFault := true }) s
  let retry := (lookupIn (storedFields 0x0101 s) 7).getD (fieldDflt 0x0101 7)
  if s.pd0.alarmEn && decide (s.pd0.rtc < s.pd0.alarmSec * nsSec) then s else setAlarm (rtcSec s + retry) true s

/-- WAKE_STAGE_TIMEOUT: everything is off again, and the sequencer backs off, or gives up. -/
def execWakeStageTimeout (s : State) : Out :=
  s.on fun s =>
  let k := s.pwr.stage
  .next (if s.boot.wait ≠ .wake ∨ k = 0 ∨ s.now < s.pwr.stageAt + stageLimit k then s
    else if 4 ≤ s.pd0.attempts then calmFault k s
    else
      let s := pd0Upd (fun p => { p with wakeStage := k }) { s with scs := Scs.reset }
      pwrUpd (fun p => { p with stage := 0, wakeOut := false, wakeLow := s.now
                                backoff := some (s.now + 2 ^ (s.pd0.attempts - 1) * nsMs) }) s)

/-- WAKE_BACKOFF_END. -/
def execWakeBackoffEnd (s : State) : Out :=
  s.on fun s =>
  .next (match s.pwr.backoff with
    | some t =>
      if s.boot.wait ≠ .wake ∨ s.now < t then s
      else
        let s := pd0Upd (fun p => { p with attempts := p.attempts + 1 }) s
        pwrUpd (fun p => { p with stage := 1, stageAt := s.now, wakeOut := true, backoff := none }) s
    | none => s)

/-! ## Images at boot (R402, R406, R407, R412) -/

/-- The trial of a type falls back within the boot. -/
def dropTrial (t : Nat) (s : Chip) : Chip :=
  let s := slotPut t SlotState.fallBack s
  let s := imgUpd (fun i => { i with trialOf := if i.trialOf = some t then none else i.trialOf }) s
  raise 125 (fallbackPay t (slotState s t).inB) s

/-- A type runs the image of a slot, or none. -/
def runSlot (t : Nat) (b : Option Bool) (s : Chip) : Chip :=
  let s := imgUpd (fun i => { i with running := i.running.set t b }) s
  let s := sysUpd (fun y => { y with ver := y.ver.set t (w32 (runVersion s t)) }) s
  if t = 0 then bootUpd (fun x => { x with slotB := b.getD x.slotB }) s else s

/-- A trial start uses one trial boot (R412). -/
def startTrial (t : Nat) (s : Chip) : Chip :=
  let b := !(slotState s t).inB
  let again := decide (s.img.trialOf = some t)
  let s := runSlot t (some b) s
  if again then s
  else
    let s := slotPut t (fun x => { x with tries := x.tries - 1 }) s
    raise 124 (pack [(0, 8, t), (32, 32, runVersion s t)]) (imgUpd (fun i => { i with trialOf := some t }) s)

/-- The slot that a type runs among those that pass `ok`: its trial slot, else the slot in force, else the other slot
unless it is marked FAILED (R93, R412). -/
def choose (t : Nat) (ok : Bool → Bool) (s : Chip) : Chip :=
  let x := slotState s t
  let s := if x.trial && (decide (x.tries = 0 ∧ s.img.trialOf ≠ some t) || !ok (!x.inB)) then dropTrial t s else s
  let x := slotState s t
  if x.trial then startTrial t s
  else if ok x.inB then runSlot t (some x.inB) s
  else if ok (!x.inB) && !(if x.inB then x.failA else x.failB) then
    raise 125 (fallbackPay t (!x.inB)) (runSlot t (some (!x.inB)) (slotPut t (fun x => { x with inB := !x.inB }) s))
  else runSlot t none s

/-- The boot ROM's checks of an executive slot in step 2: its header, and every tag of its body. -/
def romOk (s : Chip) (b : Bool) : Bool :=
  let h := (imgSlot s 0 b).header
  !(imgSlot s 0 b).invalid && hdrForm h && hdrPart h && hdrSize h && decide (rd h 5 1 = 0) && bodyOpens s 0 b

/-- A slot has passed step 3, and its body has opened where this boot has opened it. -/
def slotRuns (s : Chip) (t : Nat) (b : Bool) : Bool := (imgSlot s t b).valid && (decide (t ≠ 0) || bodyOpens s 0 b)

/-- A trial that is not compatible with the images in force is dropped (R412, R414). -/
def trialFits (s : Chip) : Chip :=
  match s.img.trialOf with
  | some t => if (incompatible s (imgSlot s t (!(slotState s t).inB)).header).isSome then choose t (slotRuns s t) (dropTrial t s) else s
  | none => s

/-- Step 3: every slot is checked, and every type takes its slot. -/
def checkImages (s : Chip) : Chip :=
  let s := forEach (List.range 8) (fun i s =>
    slotUpd (i / 2) (decide (i % 2 = 1)) (fun x => { x with valid := slotOk s (i / 2) (decide (i % 2 = 1)) }) s) s
  trialFits (forEach (List.range 4) (fun t s => choose t (slotRuns s t) s) s)

/-- Types whose images the device cannot do without (R93): executive and radio microcode. -/
def imagesMissing (s : Chip) : Bool := (s.img.running.get 0).isNone || (s.img.running.get 1).isNone

/-- The status with which step 3 refuses a slot; none for an empty one. -/
def slotRefusal (s : Chip) (t : Nat) (b : Bool) : Option Nat :=
  let sl := imgSlot s t b
  if sl.header.isEmpty || sl.valid then none
  else if hdrForm sl.header && decide (rd sl.header 16 4 < arbOf s t) then some stRollback
  else some stImageRejected

/-- Recovery (R93). -/
def enterRecovery (s : Chip) : Chip :=
  let s := forEach (List.range 8) (fun i s =>
    match slotRefusal s (i / 2) (decide (i % 2 = 1)) with
    | some st => raiseRejected (i / 2) st s
    | none => s) s
  bootUpd (fun b => { b with recovery := true, wait := .recovery, step := 0 }) s

/-- After unseal the radio microcode and pair protocol bodies are opened (R406, R407). -/
def openBodies (s : Chip) : Chip :=
  forEach [1, 3] (fun t s => choose t (fun b => slotRuns s t b && bodyOpens s t b) s) s

/-! ## Steps of Table 3.3 -/

/-- A step ends: STAGE, EV_BOOT_STAGE. -/
def endStep (k : Nat) (s : Chip) : Chip :=
  raise 1 (pack [(0, 8, k), (32, 32, (s.now - s.boot.start) / nsUs)]) (bootUpd (fun b => { b with stage := k }) s)

/-- Ports that are enabled (Table 12.8). -/
def portsEnabled (s : Chip) : List Nat := (List.range 2).filter fun p => decide (ethCfg s p 2 = 1)

/-- A step that Table 3.3 skips. -/
def skipsStep (k : Nat) (s : Chip) : Bool :=
  (decide (k = 5) && decide (pairMode s = 0)) || (decide (k = 6) && (portsEnabled s).isEmpty)

/-- Pads of the named domains open where AUTO_RELEASE says so (R465). -/
def autoRelease (ds : List Nat) (s : Chip) : Chip :=
  pd0Upd (fun p => { p with latch := p.latch &&& notN 12 (maskOf ds &&& pwrCfg s 8 &&& s.pwr.domOn) }) s

/-- What begins with a step. In a boot-ROM Tamper-Hold READY is 1 before step 2 ends: R52 holds READY at 0 until step 2 ends,
and R407 has the executive answer the Tamper-Hold set there (DESIGN CHOICE, assumption 105). -/
def enterStep (k : Nat) (s : Chip) : Chip :=
  if k = 2 then
    let s := sysUpd (fun y => { y with lc := lcNow s, debugRoot := s.sec.locked.debugEn.get false }) s
    if s.pd0.tampLatch then enterHold .tamperRom { s with ubfen := { s.ubfen with ready := true } } else s
  else if k = 8 then
    let s := bootCal 0 (autoRelease [3, 4] s)
    if (band s 0).cal.isSome then s else bootCal 1 s
  else s

/-- A step begins; one that is skipped ends at once (R85). -/
def beginStep : Nat → Nat → Chip → Chip
  | 0, _, s => s
  | f + 1, k, s =>
    let s := bootUpd (fun b => { b with step := k, stepStart := s.now }) s
    if skipsStep k s then beginStep f (k + 1) (endStep k s) else enterStep k s

/-- A step ends and the next one begins. -/
def nextStep (k : Nat) (s : Chip) : Chip := beginStep 9 (k + 1) (endStep k s)

/-! ### Step 2 -/

/-- What the executive finds in flash and LPDDR4X (R512); without self-refresh the contents are gone. -/
def findMemory (env : BootEnv) (s : Chip) : Chip :=
  let s := sysUpd (fun y => { y with
    flashLog2 := if env.flashFound then env.flashLog2.toNat else 0, flashOctal := env.flashOctal, flashFound := env.flashFound
    dramSize := env.dramSize.toNat, dramTrained := env.dramTrained, dramRate := env.dramRate.toNat, dramSelfRefresh := false }) s
  if env.dramKept then s
  else pwrUpd (fun p => { p with dramLost := decide (s.boot.cause ≠ 1) }) { s with dram := [] }

/-- The record that holds an uncorrected word fails its own check (R512, R97, R108, R396, R402, R489). -/
def mramLose (p : MramPlace) (s : Chip) : Chip :=
  let recUpd := fun (t : Nat) (f : StoredRec → StoredRec) =>
    { s with cfg := { s.cfg with stored := s.cfg.stored.set t ((s.cfg.stored.get t).map f) } }
  match p with
  | .recordHead t => recUpd t.toNat fun r => { r with hcrcOk := false }
  | .recordEntry t i => recUpd t.toNat fun r => { r with
      entries := r.entries.take i ++ ((r.entries.drop i).take 1).map (fun e => (e.1, e.2.1, false)) ++ r.entries.drop (i + 1) }
  | .calSection k => { s with cal := { s.cal with sections := s.cal.sections.upd k.val fun c => { c with crcOk := false } } }
  | .journal b => secUpd (fun v => { v with slots := v.slots.upd (b2n b) fun x => x.map fun j => { j with ok := false } }) s
  | .slotState b =>
    if b then imgUpd (fun i => { i with recB := { i.recB with ok := false } }) s
    else imgUpd (fun i => { i with recA := { i.recA with ok := false } }) s
  | .freezeRecord => { s with rwd := { s.rwd with frz := none } }

/-- Reads of MRAM in a boot step: corrected and uncorrected words are counted (R512, Table 18.7). -/
def mramRead (env : BootEnv) (s : Chip) : Chip :=
  sysUpd (fun y => { y with mramCorr := satAdd 65535 y.mramCorr env.mramCorr.toNat
                            mramUncorr := satAdd 65535 y.mramUncorr env.mramBad.length }) (forEach env.mramBad mramLose s)

/-- The voltage loop starts from the regulator's default, which is at least 0.80 V (R467). -/
def startLoop (linear : Bool) (s : Chip) : Chip :=
  let (v, s) := freeNat 7 s
  let s := pwrUpd (fun p => { p with loopOn := linear, vcore := 800 + v % 101, avsRef := 800 + v % 101 }) s
  if linear then s else raise 12 0 s

/-- Ring size of the record that this boot will load. -/
def storedRing (s : Chip) : Nat := max 24 (min ((lookupIn (storedFields 0x1001 s) 1).getD 31) (ringMax s))

/-- A ring that a reset froze is recovered (R489). -/
def recoverRing (kept : Bool) (s : Chip) : Chip :=
  match s.rwd.frz with
  | some f =>
    if kept && decide (f.ringLog2 = storedRing s) then
      raise 120 (pack [(0, 8, 4), (32, 32, f.trig)]) (rwdUpd (fun r => { r with
        st := 3, recovered := true, wptr := f.wptr, trig := f.trig, marks := f.marks, mode := f.mode, sources := f.sources
        ringLog2 := f.ringLog2, wrapped := f.wrapped, snapshot := f.snapshot, code := 4 }) s)
    else s
  | none => s

/-- The records of a start (R85, R464, R473). -/
def raiseStart (s : Chip) : Chip :=
  let s := if s.pd0.calmFault then raise 9 (pack [(0, 8, s.pd0.failStage), (8, 8, s.pd0.failAttempts)]) s else s
  let s := raise 0 (pack [(0, 8, s.boot.cause), (8, 1, b2n s.boot.slotB)]) s
  let s := if s.boot.cause = 7 ∨ s.boot.cause = 8 then raise 8 (wakeCause s) s else s
  let s := forEach s.boot.early (fun e s => raise e.1 e.2 s) (bootUpd (fun b => { b with early := [] }) s)
  if s.pwr.afterThermal then raiseThermal 2 (pwrUpd (fun p => { p with afterThermal := false }) s) else s

/-- Step 2 ends; an alarm raised in it stops the boot (R92). -/
def endStepTwo (env : BootEnv) (s : Chip) : Chip :=
  let s := recoverRing env.dramKept (startLoop env.voutLinear (mramRead env (findMemory env s)))
  let s := raiseStart (choose 0 (romOk s) s)
  let s := { s with ubfen := { s.ubfen with ready := true } }
  if s.pd0.tampLatch then enterHold .tamperExec (endStep 2 s) else nextStep 2 s

/-! ### Step 4 -/

/-- Both copies of every field of the locked region agree (R370). -/
def fixLocked (s : Chip) : Chip :=
  lockedUpd (fun l => ⟨l.lc.fix, l.helper.fix, l.opKey.fix, l.cert.fix, l.debugEn.fix, l.ctr.fix, l.tamper.fix⟩) s

/-- The start-up test of the entropy source (R397). -/
def startEntropy (ok : Bool) (s : Chip) : Chip :=
  if ok then secUpd (fun v => { v with drbgOn := true, failCode := 0, drbgReqs := 0, drbgAt := s.now }) s
  else raise 108 3 (secUpd (fun v => { v with drbgOn := false, failCode := 3 }) s)

/-- The calibration set at boot (R108): a marked section is finished, one whose CRC fails is replaced in use. -/
def loadCal (s : Chip) : Chip :=
  let s := calFinish s
  let bad := (List.range 9).filter fun k => !(s.cal.sections.get k).crcOk
  let s := { s with cal := { s.cal with nominal := bad } }
  loadDelays (pwrUpd (fun p => { p with ageValid := !bad.contains 8 }) s)

/-- Report entries of sections in nominal use (R108). -/
def calReport (s : Chip) : List RepEntry := s.cal.nominal.map fun k => ⟨0, k, 0xFFFFFFFF, 0, 0x0A⟩

/-- Types whose stored FORMAT is not current (R415). -/
def oldFormats (s : Chip) : List Nat :=
  recordTypes.filter fun t => match s.cfg.stored.get t with
    | some r => decide (r.hcrcOk ∧ r.count ≠ 0 ∧ r.format ≠ 1)
    | none => false

/-- Fields that take effect at boot only (R103, Tables 9.8 and 17.5). -/
def bootFields : List (Nat × Nat) := ((fieldsOf 0x0001).map fun f => (0x0001, f.id)) ++ [(0x0201, 1), (0x1001, 5)]

/-- Stored records and the calibration set are loaded, and the boot report is issued. -/
def loadRecords (s : Chip) : Chip :=
  let (s, status, reps) := loadStored s
  let s := loadCal s
  let s := imgUpd (fun i => { i with defaulted := oldFormats s }) s
  let cal := calReport s
  let s := bootUpd (fun b => { b with loaded := true })
    { s with cfg := { s.cfg with atBoot := bootFields.map fun k => (fkey k.1 k.2, cfgGet s k.1 k.2) } }
  newReport (worstStatus status (if cal.isEmpty then stOk else stDefaulted)) (reps ++ cal) s

/-- Step 4 up to its load: tamper check, unseal, journal, records. -/
def enterStepFour (env : BootEnv) (s : Chip) : Chip :=
  if s.pd0.tampLatch then enterHold .tamperExec s
  else
    let s := fixLocked (mramRead env s)
    let s := sysUpd (fun y => { y with lc := lcNow s }) s
    if lcNow s = 0xFF then enterHold .tamperExec s
    else
      let s := startEntropy env.entropyOk s
      let s := if s.sys.debugRoot then raise 109 0 s else s
      match vaultOpen env.pufOk env.entropyOk s with
      | some s => loadRecords s
      | none =>
        -- R366, R397: a first boot without entropy stops here.
        if lcNow s = 0 ∧ !s.sys.debugRoot then bootUpd (fun b => { b with step := 0 }) s
        else secUpd (fun v => { v with vault := 4 }) (enterHold .tamperExec (raise 111 0 s))

/-- Software queues that SOFTWARE routes name (R41). -/
def softQueues (s : Chip) : List Nat := (s.fe.routes.filter fun r => r.action = 4).map Route.nh

/-- What follows step 4 at once: pads, pair SerDes, the load of the application image, confirm window (R89, R412, R424). -/
def afterStepFour (s : Chip) : Chip :=
  let s := openBodies s
  let s := { s with time := { s.time with stampDom := cfgGet s 0x0201 1 } }
  let s := autoRelease [2, 9, 10] s
  let s := if pairMode s = 0 then s
    else bootUpd (fun b => { b with serdesAt := s.now }) (pairUpd (fun p => { p with st := 1, bootAt := s.boot.start }) s)
  imgUpd (fun i => { i with appLoad := if (i.running.get 2).isSome then 1 else 0
                            confirmDue := s.boot.start + cfgGet s 0x0002 1 * nsSec }) s

/-- Step 4 ends: with COMMIT_AT_BOOT the configuration is committed, else the boot waits for CFG_COMMIT. -/
def endStepFour (s : Chip) : Chip :=
  let s := afterStepFour s
  if imagesMissing s then enterRecovery (endStep 4 s)
  else if bootCfg s 1 = 0 then endStep 4 (bootUpd (fun b => { b with cfgHold := true, wait := .commit, step := 0 }) s)
  else
    let (s, reps) := commitConfig (softQueues s) s
    nextStep 4 (if reps.isEmpty then s else newReport stClamped reps s)

/-! ### Step 9 and the conditions of steps 5 to 8 -/

/-- Service opens. -/
def openService (s : Chip) : Chip :=
  let s := autoRelease [5, 6, 7, 8] s
  let s := bootUpd (fun b => { b with
    service := true, openUs := (s.now - s.boot.start) / nsUs, unlockedOpen := decide ((stampTd s).st ≠ 1), step := 0 }) (endStep 9 s)
  let t := (chnCfg s 7, chnCfg s 8)
  let s := forEach (List.range 128) (fun n s => chanUpd n (fun h => { h with thr := t, lastIdle := s.now }) s) s
  let s := if pdOn s 7 then startLedgers s else s
  if (lookupIn s.cfg.atBoot (fkey 0x1001 5)).getD 0 = 1 ∧ pdOn s 10 ∧ s.rwd.st = 0 then arm none s else s

/-- The step in progress has reached its end (Table 3.3, R88, R89, R115: step 1 includes the lock of every SCS output). -/
def stepOver (k : Nat) (s : Chip) : Bool :=
  match k with
  | 1 => decide (s.scs.lock % 16 = 15)
  | 5 => s.pair.settled
  | 6 => ((portsEnabled s).any fun p => (s.eth.get p).link) || decide (s.boot.stepStart + bootCfg s 4 * nsMs ≤ s.now)
  | 7 =>
    decide ((stampTd s).st = 1) || (match s.boot.announceAt with
      | some t => decide (t + 2000 * nsMs ≤ s.now)
      | none => decide (s.boot.stepStart + bootCfg s 5 * nsMs ≤ s.now))
  | 8 => (band s 0).cal.isNone && (band s 1).cal.isNone
  | _ => true

/-- BOOT_STEP_END. `env` is what the memory controllers, the regulator, the PUF and the entropy source answer; step 4 does
its load when it begins, or here when a Tamper-Hold stood in between. Steps 2 and 4 read MRAM. -/
def execBootStepEnd (env : BootEnv) (s : State) : Out :=
  s.on fun s =>
  let k := s.boot.step
  .next (if s.boot.wait ≠ .none ∨ !stepOver k s then s
    else match k with
    | 1 => nextStep 1 (pwrUpd (fun p => { p with domOn := 0xFFF }) s)
    | 2 => endStepTwo env s
    | 3 =>
      let s := checkImages s
      if imagesMissing s then enterRecovery (endStep 3 s) else enterStepFour env (nextStep 3 s)
    | 4 => if s.boot.loaded then endStepFour s else enterStepFour env s
    | 5 => nextStep 5 s
    | 6 => nextStep 6 s
    | 7 => nextStep 7 s
    | 8 => nextStep 8 s
    | 9 => openService s
    | _ => s)

/-- SOLO_TIMEOUT_EXPIRY (R89, R349). -/
def execSoloTimeoutExpiry (s : State) : Out :=
  s.on fun s =>
  .next (if s.boot.wait ≠ .none ∨ s.boot.step ≠ 5 ∨ s.pair.settled ∨ s.now < s.boot.serdesAt + bootCfg s 3 * nsMs then s
    else
      let s := bootUpd (fun b => { b with solo := true }) s
      let s := if s.pair.peerKnown then s else claimOver true s
      nextStep 5 (raise 97 1 (pairUpd (fun p => { p with st := if p.st = 5 then 5 else 4 }) s)))

/-! ## TAMPER_CLEAR (R92, R393) -/

/-- The boot resumes from Tamper-Hold: at step 2 when the boot ROM held it, else at step 4, with the slots of step 3. -/
def resumeBoot (s : Chip) : Chip :=
  let rom := decide (s.boot.wait = .tamperRom)
  let s := secUpd (fun v => { v with vault := 0 }) (bootUpd (fun b => { b with tamperHold := false, wait := .none }) s)
  if rom then beginStep 1 2 s
  else
    let s := if s.boot.stage < 3 then checkImages s else s
    if imagesMissing s then enterRecovery (endStep 3 s)
    else beginStep 1 4 (bootUpd (fun b => { b with loaded := false }) (if s.boot.stage < 3 then endStep 3 s else s))

/-- TAMPER_CLEAR. -/
def execTamperClear (c : CmdRef) (s : State) : Out :=
  s.on fun s =>
  secCmd c 0x0B11 s fun m =>
    gated c m 8 (fun p => checked c (maskAt p 0 1 ++ zeroAt p 1 3) fun s =>
      let t := tampSet s
      if (t.enA && decide ((s.sec.loops.get 0).cond ≠ 0)) || (t.enB && decide ((s.sec.loops.get 1).cond ≠ 0)) then
        complete c stTampered [] s
      else if rd p 4 4 ≠ s.pd0.tampCount then badParam c 4 s
      else
        let s := raise 103 0 (pd0Upd (fun d => { d with tampLatch := false }) s)
        let s := if bitOf (rd p 0 1) 0 then pd0Upd (fun d => { d with tampLog := [], tampOver := false, tampCount := 0 }) s else s
        let s := complete c stOk (wr 4 s.pd0.tampCount) s
        if s.boot.tamperHold then resumeBoot s else s)

end Sys2Proof.Machine
end

