-- ==== Sys2Proof/Machine/ImgCmds.lean ====
section
/-! DEFINITION. The update group (R408 to R418), the end of sessions and trials, and the load of the application image
(R424). -/

namespace Sys2Proof.Machine

/-- An open session of the type's slot. -/
def withSession (c : CmdRef) (f : ImgSession → Chip → Chip) (s : Chip) : Chip :=
  match s.img.session with
  | some g => f g s
  | none => complete c stNotFound [] s

/-- IMAGE_STATUS (Table 14.7). -/
def execImageStatus (c : CmdRef) (s : State) : Out :=
  s.on fun s =>
  runCmd c 0x0E00 s fun m =>
    let t := rd m.params 0 1
    checked c (ck 0 (t ≤ 3) :: zeroAt m.params 1 3) fun s =>
      let got := match s.img.session with
        | some g => if g.typ = t then g.body.length else 0
        | none => 0
      complete c stOk (wr 4 (imgStat s t) ++ wr 4 (runVersion s t) ++ wr 4 (otherVersion s t) ++ wr 4 (arbOf s t) ++ wr 4 got) s

/-- The checks 3 to 10 of Table 14.3 in order: status and result. -/
def beginRefusal (s : Chip) (h : Bytes) : Option (Nat × Bytes) :=
  let rej := fun (r : Nat) => some (stImageRejected, wr 1 r ++ zeros 3)
  let t := rd h 5 1
  if !hdrForm h then rej 1
  else if !hdrPart h then rej 2
  else if !hdrSize h then rej 3
  else if !hdrSigner s h then rej 4
  else if !hdrSigned s h then rej 5
  else if rd h 16 4 < arbOf s t then some (stRollback, wr 4 (arbOf s t))
  else match incompatible s h with
    | some (u, w) => some (stIncompatible, wr 1 u ++ wr 1 w ++ zeros 2)
    | none => if Config.p521On ((h.drop 48).take 133) then none else rej 6

/-- A type is on trial: its trial slot stands in the slot state. -/
def inTrial (s : Chip) : Bool := (List.range 4).any fun t => (slotState s t).trial

/-- IMAGE_BEGIN. -/
def execImageBegin (c : CmdRef) (s : State) : Out :=
  s.on fun s =>
  runCmd c 0x0E01 s fun m s =>
    let h := (m.params ++ zeros 384).take 384
    let t := rd h 5 1
    let no := fun (st : Nat) (res : Bytes) (s : Chip) => complete c st res (raiseRejected t st s)
    if lcNow s = 4 then no stLifecycle [] s
    else if s.img.session.isSome || inTrial s then no stBusy [] s
    else match beginRefusal s h with
      | some (st, res) => no st res s
      | none =>
        let b := !((s.img.running.get t).getD (slotState s t).inB)
        let s := slotUpd t b (fun _ => ⟨[], [], true, false⟩) s
        let s := imgUpd (fun i => { i with session := some ⟨t, m.tr, h, b, [], s.now⟩ }) s
        complete c stOk (wr 1 (b2n b) ++ zeros 3 ++ wr 4 (hSealed h)) s

/-- Segments that are complete in the first `n` bytes of a sealed body of `total` bytes. -/
def segsDone (total n : Nat) : Nat := if n = total then (total + 65551) / 65552 else n / 65552

/-- The tag of segment `i` of a body holds; in BLANK no body key exists yet. -/
def segOk (s : Chip) (h body : Bytes) (i : Nat) : Bool :=
  let seg := (body.drop (65552 * i)).take 65552
  match bodyKey s h with
  | some key => (openSeg key h i seg).isSome
  | none => decide (lcNow s = 0) && Config.keylessOpen seg

/-- IMAGE_CHUNK (R409). The body key is a key use: a zeroised vault refuses a chunk that completes a segment (R392). -/
def execImageChunk (c : CmdRef) (s : State) : Out :=
  s.on fun s =>
  runCmd c 0x0E02 s fun m =>
    let p := m.params
    let n := rd p 4 2
    checked c ((4, within 1 8184 n) :: zeroAt p 6 2) (withSession c fun g s =>
      let old := g.body.length
      if rd p 0 4 ≠ old then badParam c 0 s
      else if hSealed g.header < old + n then badParam c 4 s
      else
        let body := g.body ++ (p.drop 8 ++ zeros n).take n
        let total := hSealed g.header
        let fresh := (List.range (segsDone total body.length)).filter fun i => segsDone total old ≤ i
        if s.sec.vault = 2 ∧ fresh ≠ [] then complete c stTampered [] s
        else if fresh.all (segOk s g.header body) then
          complete c stOk (wr 4 body.length) (imgUpd (fun i => { i with session := some { g with body := body, at_ := s.now } }) s)
        else complete c stImageRejected (wr 1 7 ++ zeros 3) (closeSession s))

/-- IMAGE_FINISH (R410); with RESET a warm reset follows the reply. -/
def execImageFinish (c : CmdRef) (s : State) : Out :=
  s.on fun s =>
  runCmd c 0x0E03 s fun m =>
    checked c (maskAt m.params 0 1 ++ zeroAt m.params 1 3) (withSession c fun g s =>
      if g.body.length ≠ hSealed g.header then badParam c 0 s
      else if fitB 64 (Config.sha512 g.body) ≠ (g.header.drop 184).take 64 then
        complete c stImageRejected (wr 1 8 ++ zeros 3) s
      else
        let s := slotUpd g.typ g.toB (fun _ => ⟨g.header, g.body, false, false⟩) s
        let s := slotPut g.typ (fun x => { x with
          inB := !g.toB, trial := true, tries := cfgGet s 0x0002 2
          failA := x.failA && g.toB, failB := x.failB && !g.toB }) s
        let s := complete c stOk [] (closeSession s)
        if bitOf (rd m.params 0 1) 0 then resetAccept 1 m.no s.now s else s)

/-- IMAGE_CONFIRM (R412, R413, R415). -/
def execImageConfirm (c : CmdRef) (s : State) : Out :=
  s.on fun s =>
  runCmd c 0x0E04 s fun m =>
    let t := rd m.params 0 1
    checked c (ck 0 (t ≤ 3) :: zeroAt m.params 1 3) fun s =>
      if s.img.trialOf ≠ some t then complete c stNotFound [] s
      else
        let x := slotState s t
        let arb := max (arbOf s t) (rd (imgSlot s t (!x.inB)).header 16 4)
        let s := slotPut t (fun x => { x with inB := !x.inB, trial := false, tries := 0 }) s
        let s := imgUpd (fun i => { i with trialOf := none, arb := i.arb.set t (TwoCopy.both arb) }) s
        let s := forEach s.img.defaulted (fun ty s =>
          storeCopy ty ((fieldsOf ty).map fun f => (f.id, cfgGet s ty f.id)) s) s
        complete c stOk (wr 4 arb) (imgUpd (fun i => { i with defaulted := [] }) s)

/-- IMAGE_ABORT. -/
def execImageAbort (c : CmdRef) (s : State) : Out :=
  s.on fun s =>
  runCmd c 0x0E05 s fun m =>
    checked c (zeroAt m.params 0 4) (withSession c fun g s => complete c stOk (wr 4 g.body.length) (closeSession s))

/-- IMAGE_SESSION_TIMEOUT. -/
def execImageSessionTimeout (s : State) : Out :=
  s.on fun s =>
  .next (match s.img.session with
    | some g => if g.at_ + 60 * nsSec ≤ s.now then raiseRejected g.typ stTimeout (closeSession s) else s
    | none => s)

/-- CONFIRM_WINDOW_EXPIRY. -/
def execConfirmWindowExpiry (s : State) : Out :=
  s.on fun s =>
  .next (if s.img.trialOf.isSome && s.boot.loaded && decide (s.img.confirmDue ≤ s.now) then resetWith (lowestCause 9 s) .wake s else s)

/-- The application image of the slot that runs. -/
def appImage (s : Chip) : Option ImgSlot := (s.img.running.get 2).map fun b => imgSlot s 2 b

/-- A tag of the application image has failed (R406, R412): a trial falls back and the previous slot is loaded. -/
def appFailed (s : Chip) : Chip :=
  let s := choose 2 (fun b => slotRuns s 2 b && bodyOpens s 2 b) s
  imgUpd (fun i => { i with appLoad := if (i.running.get 2).isSome then 1 else 3 }) s

/-- APPLICATION_IMAGE_LOADED (R424): the body stands in LPDDR4X, and the cores of AUTO_START start. After DRAM_LOST the
cores that are held start as after boot. -/
def execApplicationImageLoaded (s : State) : Out :=
  s.on fun s =>
  .next (if s.img.appLoad ≠ 1 || !pdOn s 10 || bitOf s.pd0.latch 10 || !s.sys.dramTrained then s
    else match appImage s with
      | some sl =>
        match openBody s sl.header sl.body with
        | some text =>
          let s := { s with dram := memWriteBytes s.dram 0 text, apc := { s.apc with imageLoaded := true } }
          let s := imgUpd (fun i => { i with appLoad := 2 }) (pwrUpd (fun p => { p with dramLost := false }) s)
          if pdOn s 2 then autoStart 0 s else s
        | none => appFailed s
      | none => s)

end Sys2Proof.Machine
end

