-- ==== Sys2Proof/Machine/CfgCmds.lean ====
section
/-! DEFINITION. The configuration group (R95 to R105) and the calibration set's commands (R109, R110). -/

namespace Sys2Proof.Machine

/-! ## CFG_WRITE -/

/-- Checks of a record's header, lowest byte first (R97, step 1). -/
def headerChecks (p : Bytes) : List (Nat × Bool) :=
  [(0, knownType (rd p 0 2)), ck 2 (rd p 2 1 = 1), ck 3 (rd p 3 1 ≠ 0)] ++ maskAt p 8 3 ++ zeroAt p 9 3 ++
    [ck 12 (rd p 12 4 = crc32c (p.take 12))]

/-- Values of a running field before and after a record. -/
def fieldMoved (old s : Chip) (type id : Nat) : Bool := decide (cfgGet old type id ≠ cfgGet s type id)

/-- A channel whose band does not receive shows its change as pending (R158). -/
def chanTaken (old : Chip) (ch : Nat) (s : Chip) : Chip :=
  let s := chTook ch (chCfg old ch) s
  if bandRx s (ch / 64) then s else chanUpd ch (fun c => { c with pendingSet := true }) s

/-- Channels and windows take a record's fields as a whole (R99, R173); contexts in progress keep the settings of their
allocation. -/
def chnAfter (old s : Chip) : Chip :=
  let s := forEach ((List.range 8).filter fun n => fieldMoved old s 0x0601 (0x10 + n)) (fun n s => setupChanged (64 * (n / 4)) s) s
  let s := forEach ((List.range 128).filter fun n => fieldMoved old s 0x0602 (0x100 + n)) (chanTaken old) s
  raiseChange (chEnabled old) s

/-- What a record does beyond its running values: channels (R157, R173), tokens of shapers and policers (R329, R332),
Ethernet ports (R339). -/
def afterRecord (type : Nat) (sets : List Nat) (old s : Chip) : Chip :=
  let named := fun (lo n : Nat) => (List.range n).any fun k => sets.contains (lo + k)
  if type = 0x0601 ∨ type = 0x0602 then chnAfter old s
  else if 0x0B10 ≤ type ∧ type < 0x0B18 then
    forEach ((List.range 32).filter fun i => named (0x100 + 4 * i) 4) (fun i s =>
      let n := 32 * (type - 0x0B10) + i
      setTokens n (bitOf (shp s n 3) 16) s) s
  else if 0x0B20 ≤ type ∧ type < 0x0B30 then
    forEach ((List.range 16).filter fun i => named (0x100 + 8 * i) 6) (fun i s => setBuckets (16 * (type - 0x0B20) + i) s) s
  else if type = 0x0C01 then
    forEach [0, 1] (fun p s => if ethCfg old p 2 ≠ ethCfg s p 2 ∨ ethCfg old p 3 ≠ ethCfg s p 3 then portInForce p (ethCfg old p 3) s else s) s
  else s

/-- IDs that a record has set: with REPLACE, every field of the type. -/
def recordSets (type : Nat) (replace : Bool) (w : Walk) : List Nat :=
  if replace then (fieldsOf type).map FDef.id else w.sets.map Prod.fst

/-- CFG_WRITE (R96 to R102). -/
def execCfgWrite (c : CmdRef) (s : State) : Out :=
  s.on fun s =>
  runCmd c 0x0F01 s fun m =>
    let p := m.params
    checked c (headerChecks p) fun s =>
      let type := rd p 0 2
      let replace := bitOf (rd p 8 1) 1
      let w := crossFix type (applyEntries type replace (entriesOf p (rd p 3 1) (rd p 4 4)) s)
      let t := afterRecord type (recordSets type replace w) s w.st
      let t := if bitOf (rd p 8 1) 0 && !w.torn then storeCopy type (storeFields type replace w.sets w.st) t else t
      let t := newReport w.status w.reps t
      complete c w.status (reportResult t w.reps) t

/-! ## CFG_COMMIT and the stored copies -/

/-- The running values of every field of a type are stored. -/
def storeRunning (type : Nat) (s : Chip) : Chip := storeCopy type ((fieldsOf type).map fun f => (f.id, cfgGet s type f.id)) s

/-- CFG_COMMIT; a boot that waits for it goes on with step 5. After commit it changes no setting (R105). -/
def execCfgCommit (c : CmdRef) (s : State) : Out :=
  s.on fun s =>
  runCmd c 0x0F02 s fun m =>
    checked c (maskAt m.params 0 1 ++ zeroAt m.params 1 3) fun s =>
      if s.boot.committed then
        let s := newReport stOk [] s
        complete c stOk (reportResult s []) s
      else
        let (s, reps) := commitConfig (softQueues s) s
        let st := if reps.isEmpty then stOk else stClamped
        let s := if bitOf (rd m.params 0 1) 0 then forEach recordTypes storeRunning s else s
        let s := newReport st reps s
        let s := complete c st (reportResult s reps) s
        if s.boot.wait = .commit then beginStep 9 5 (bootUpd (fun b => { b with cfgHold := false, wait := .none }) s) else s

/-- CFG_REPORT_READ. -/
def execCfgReportRead (c : CmdRef) (s : State) : Out :=
  s.on fun s =>
  runCmd c 0x0F03 s fun m s =>
    let p := m.params
    let no := rd p 0 2
    match s.cfg.reports.find? fun r => decide (no = 0xFFFF ∨ r.no = no) with
    | some r =>
      let es := (r.entries.drop (rd p 2 2)).take 511
      complete c stOk (wr 2 r.no ++ wr 2 r.total ++ wr 2 es.length ++ wr 1 (b2n (decide (1024 < r.total))) ++ zeros 1 ++
        wr 4 r.status ++ zeros 4 ++ es.flatMap repBytes) s
    | none => complete c stNotFound [] s

/-- A record of the running values of a type, with the GENERATION of its newest stored copy. -/
def runningRecord (s : Chip) (type : Nat) : Bytes :=
  let fs := fieldsOf type
  let gen := s.cfg.gens.get type
  let head := wr 2 type ++ wr 1 1 ++ wr 1 fs.length ++ wr 4 gen ++ zeros 4
  head ++ wr 4 (crc32c head) ++ fs.flatMap fun f =>
    let e := wr 2 f.id ++ zeros 2 ++ wr 4 (cfgGet s type f.id)
    e.take 3 ++ wr 1 (entryCheck gen e) ++ e.drop 4

/-- CFG_READ. -/
def execCfgRead (c : CmdRef) (s : State) : Out :=
  s.on fun s =>
  runCmd c 0x0F04 s fun m =>
    let t := rd m.params 0 2
    checked c (zeroAt m.params 2 2) fun s =>
      if knownType t then complete c stOk (runningRecord s t) s else complete c stNotFound [] s

/-- CFG_ERASE: the GENERATION stays (R96). -/
def execCfgErase (c : CmdRef) (s : State) : Out :=
  s.on fun s =>
  runCmd c 0x0F05 s fun m =>
    let t := rd m.params 0 2
    checked c (zeroAt m.params 2 2) fun s =>
      if t = 0xFFFF then complete c stOk [] { s with cfg := { s.cfg with stored := Tab.const none } }
      else if knownType t then complete c stOk [] { s with cfg := { s.cfg with stored := s.cfg.stored.set t none } }
      else complete c stNotFound [] s

/-! ## Calibration set (R109, R110) -/

/-- CAL_EXPORT: the signature is an operation of the crypto engine. -/
def execCalExport (c : CmdRef) (s : State) : Out :=
  s.on fun s =>
  secCmd c 0x0F10 s fun m =>
    checked c (ck 0 (rd m.params 0 1 ≤ 8) :: zeroAt m.params 1 3) (withKey c 0x08 0 fun k s =>
      if !s.sec.drbgOn then complete c stBusy [] s else submitOp c true [k.handle] (drbgTake s))

/-- Bands that a section serves (Table 3.12). -/
def sectionBands (k : Nat) : List Nat :=
  if k = 1 ∨ k = 3 ∨ k = 5 then [0] else if k = 2 then [1] else if k = 4 ∨ k = 6 then [0, 1] else []

/-- A calibration or a launch uses a band. -/
def bandUsed (s : Chip) (b : Nat) : Bool :=
  (band s b).cal.isSome || (launches s).any fun e => e.2.ended.isNone && decide (e.2.band = b ∧ 1 ≤ e.2.phase)

/-- The signature of a CAL_WRITE verifies under this device's identity key, and its serial is this device's. -/
def calSigned (s : Chip) (p : Bytes) (l : Nat) : Bool :=
  decide (16 + l + 132 ≤ p.length) && decide ((p.drop 4).take 8 = serialBytes s) &&
    (match keyUse s 0x10 1 with
      | .inr k => Config.p521Verify k.mat (fitB 64 (Config.sha512 (p.take (16 + l)))) ((p.drop (16 + l)).take 132)
      | .inl _ => false)

/-- CAL_WRITE. -/
def execCalWrite (c : CmdRef) (s : State) : Out :=
  s.on fun s =>
  runCmd c 0x0F11 s fun m =>
    let p := m.params
    let (k, l) := (rd p 0 1, rd p 2 2)
    checked c [ck 0 (k ≤ 8), ck 2 (l % 4 = 0 ∧ l ≤ 4096 ∧ 16 + l ≤ p.length)] fun s =>
      if lcNow s = 4 then complete c stLifecycle [] s
      else if (sectionBands k).any (bandUsed s) then complete c stBusy [] s
      else
        let signed := calSigned s p l
        if k = 8 ∧ !(signed && decide (rd p 1 1 = 0)) then complete c stAttrDenied [] s
        else complete c stOk [] (calWrite k (if signed then rd p 1 1 else 1) ((p.drop 16).take l) s)

end Sys2Proof.Machine
end

