-- ==== Sys2Proof/Machine/PairCmds.lean ====
section
/-! DEFINITION. The pair group (R362, R363, R365). -/

namespace Sys2Proof.Machine

/-- PAIR_STATUS. -/
def execPairStatus (c : CmdRef) (s : State) : Out :=
  s.on fun s =>
  runCmd c 0x0A00 s fun m =>
    checked c (maskAt m.params 0 1 ++ zeroAt m.params 1 3) fun s =>
      let p := s.pair
      let r := wr 4 (pairStat s) ++ wr 4 p.claim ++ wr 4 p.peerClaim ++ wr 4 (pairLease s) ++ wr 4 (ofS 32 (theta s)) ++
        wr 4 p.peerVersion ++ wr 8 p.peerSerial.toNat
      let (b, s) := counters (pairCnt 0) 9 (bitOf (rd m.params 0 1) 0) s
      complete c stOk (r ++ b) s

/-- PAIR_YIELD: it waits for the peer to own. -/
def execPairYield (c : CmdRef) (s : State) : Out :=
  s.on fun s =>
  runCmd c 0x0A01 s fun m =>
    checked c (zeroAt m.params 0 4) fun s =>
      if s.pair.st ≠ 3 ∨ !s.pair.owner ∨ s.pair.yieldCmd.isSome then complete c stBusy [] s
      else pairUpd (fun p => { p with yielding := true, yieldCmd := some c }) s

/-- PAIR_DRILL: the drill is passed to the peer; a second drill finds the first in hand (DEDUCED, assumption 48). -/
def execPairDrill (c : CmdRef) (s : State) : Out :=
  s.on fun s =>
  runCmd c 0x0A03 s fun m =>
    let p := m.params
    checked c ([ck 0 (rd p 0 1 ≤ 1)] ++ maskAt p 1 1 ++ zeroAt p 2 2 ++ [ck 10 (rd p 10 4 < nsSec)] ++ zeroAt p 14 2 ++
        [(16, within 10 60000 (rd p 16 4))]) fun s =>
      if s.pair.st ≠ 3 then complete c stOk (wr 1 1 ++ zeros 7) s
      else if s.pair.drill.isSome then complete c stBusy [] s
      else
        let (k, at_, dur, ret) := (rd p 0 1, rd p 4 6 * nsSec + rd p 10 4, rd p 16 4, bitOf (rd p 1 1) 0)
        acceptCmd c (tellPeer (.drill k at_ dur ret) (setDrill ⟨k, at_, dur, ret, some c, 0, 0, none, false⟩ s))

end Sys2Proof.Machine
end

