-- ==== Sys2Proof/Machine/Regs.lean ====
section
/-! DEFINITION. The register map (R498 to R513): what each register reads, which fields a write changes (Table 18.2), and
the register commands REG_READ, REG_WRITE, REG_POLL (R76 to R78) and REGISTER_WRITE. -/

namespace Sys2Proof.Machine

/-- A 4-byte-aligned address within a block (R498, R499). -/
def regAddrOk (a : Nat) : Bool := decide (a % 4 = 0 ∧ a < 0x120000)

/-! ## What each register reads -/

/-- Word `n` of a 128-bit map. -/
def mapWord (m : BitVec 128) (n : Nat) : Nat := fld m.toNat (32 * n) 32

/-- Element of an array of words at `base`. -/
def elem (o base : Nat) : Nat := (o - base) / 4

/-- SYS_BOOT_STAT (Table 3.4). -/
def bootStat (s : Chip) : Nat :=
  let b := s.boot
  pack [(0, 8, b.cause), (8, 4, b.stage), (12, 1, b2n b.cfgHold), (13, 1, b2n b.solo), (14, 1, b2n b.slotB),
    (15, 1, b2n b.committed), (16, 1, b2n b.service), (17, 1, b2n b.tamperHold), (18, 1, b2n b.recovery),
    (19, 1, b2n b.unlockedOpen)]

/-- SYS_EV_STAT (Table 2.12). -/
def evStat (s : Chip) : Nat := pack [(0, 11, evFill s), (11, 16, s.ev.lost), (27, 1, b2n (decide (evFree s = 0)))]

/-- SYS (Tables 18.4, 2.7, 2.12, 3.4, 3.5, 16.10, 14.5, 1.7 to 1.10). -/
def sysView (s : Chip) (o : Nat) : Nat :=
  if o = 0x000 then pack [(0, 16, 0x9740), (16, 8, 0xA1)]
  else if o = 0x004 then fld s.sys.serial.toNat 0 32
  else if o = 0x008 then fld s.sys.serial.toNat 32 32
  else if o = 0x00C then pack [(0, 8, s.sys.lc), (8, 8, modeNow s)]
  else if within 0x010 0x01C o then (s.sys.ver.get (elem o 0x010)).toNat
  else if o = 0x020 then pack [(0, 8, s.sys.lockCount), (8, 24, s.sys.lockAddr)]
  else if within 0x030 0x03C o then (s.sys.scratch.get (elem o 0x030)).toNat
  else if within 0x100 0x128 o then cfgGet s 0x0003 (1 + elem o 0x100)
  else if within 0x200 0x20C o then mapWord s.ev.ringEn (elem o 0x200)
  else if within 0x210 0x21C o then mapWord s.ev.pin0En (elem o 0x210)
  else if within 0x220 0x22C o then mapWord s.ev.pin1En (elem o 0x220)
  else if within 0x230 0x23C o then mapWord s.ev.pend (elem o 0x230)
  else if o = 0x240 then evStat s
  else if o = 0x300 then bootStat s
  else if o = 0x304 then s.boot.openUs
  else if o = 0x308 then wakeCause s
  else if within 0x310 0x31C o then imgStat s (elem o 0x310)
  else if within 0x800 0xFFC o then
    let n := (o - 0x800) / 0x20
    let q := s.dq.get n
    match o % 0x20 with
    | 0x00 => dqCtrl q
    | 0x04 => dqStat q
    | 0x08 => dqSide n q
    | 0x0C => (dqData n q).toNat
    | _ => 0
  else 0

/-- PWR (Tables 16.8, 16.9). -/
def pwrView (s : Chip) (o : Nat) : Nat :=
  if o = 0x00 then pwrStat s
  else if o = 0x04 then pwrAvs s
  else if o = 0x08 then pwrAge s
  else if o = 0x0C then pwrTherm s
  else if o = 0x10 then pwrLull s
  else if within 0x20 0x3C o then pwrRail s (elem o 0x20)
  else 0

/-- TIME_CTRL (Table 9.5). -/
def timeCtrl (s : Chip) : Nat :=
  pack [(0, 1, s.time.stampDom), (1, 1, b2n s.time.switch.isSome), (2, 1, b2n s.scs.holdover), (3, 1, b2n (tcActive s))]

/-- TIME_TDn_STAT (Table 9.6). -/
def tdStat (s : Chip) (d : Nat) : Nat :=
  let t := tdGet s d
  pack [(0, 2, t.st), (2, 1, b2n (servoEn s d)), (3, 1, b2n t.tempEnd.isSome), (4, 2, t.inc / 2 ^ 32), (6, 1, b2n t.stepHeld),
    (16, 16, t.steps)]

/-- TIME (Tables 9.5 to 9.7). -/
def timeView (s : Chip) (o : Nat) : Nat :=
  if o = 0 then timeCtrl s
  else if within 0x10 0x2C o then
    let d := (o - 0x10) / 0x10
    match o % 0x10 with
    | 0x0 => tdStat s d
    | 0x4 => (tdGet s d).inc % 2 ^ 32
    | 0x8 => (tdGet s d).epoch
    | _ => 0
  else 0

/-- RFA and RFB (Tables 4.4, 4.7, 4.9, 4.13, 4.15). -/
def rfView (s : Chip) (b o : Nat) : Nat :=
  if o = 0 then bandStat s b
  else if within 0x100 0x17C o then cfgGet s (if b = 0 then 0x0302 else 0x0402) (1 + elem o 0x100)
  else if b = 1 then 0
  else if o = 0x04 then scsStat s
  else if o = 0x08 then pinStat s
  else if within 0x10 0x1C o then antStat s (elem o 0x10)
  else 0

/-- TXP (Tables 8.6 to 8.9). -/
def txView (s : Chip) (o : Nat) : Nat :=
  if o = 0 then lqStat s
  else if within 0x10 0x1C o then carStat s (elem o 0x10)
  else if within 0x100 0x104 o then eddyStat s (elem o 0x100)
  else s.cnt.get (0x050000 + o)

/-- CHN (Tables 5.1, 5.2, 5.6 to 5.8). -/
def chnView (s : Chip) (o : Nat) : Nat :=
  if o ≤ 0x1C then winCfg s (elem o 0)
  else if within 0x100 0x2FC o then chCfg s (elem o 0x100)
  else if within 0x300 0x4FC o then chStat s (elem o 0x300)
  else if within 0x500 0x6FC o then chThr s (elem o 0x500)
  else s.cnt.get (0x060000 + o)

/-- DEM (Tables 6.7, 6.11, 7.7 to 7.9). -/
def demView (s : Chip) (o : Nat) : Nat :=
  if o ≤ 0x17C then demCtxStat s (elem o 0)
  else if o = 0x200 then demArrayStat s
  else if within 0xF00 0xF1C o then cfgGet s 0x0701 (0x10 + elem o 0xF00)
  else if o = 0xF20 then demPhyCfg s
  else s.cnt.get (0x070000 + o)

/-- FRM (Table 18.5). -/
def frmView (s : Chip) (o : Nat) : Nat :=
  if within 0x100 0x13C o then
    pack [(0, 18, s.sys.grpHandle.get (elem o 0x100)), (24, 8, s.sys.grpIndex.get (elem o 0x100))]
  else if within 0x200 0x3FC o ∧ o % 0x20 ≤ 0x10 then cfgGet s 0x0801 (0x100 + 8 * ((o - 0x200) / 0x20) + o % 0x20 / 4)
  else 0

/-- Octet `i` of a next hop's MAC address. -/
def nhOctet (s : Chip) (n i : Nat) : Nat := ((s.sys.nhMac.get n).getD i 0).toNat

/-- FWD (Tables 10.8, 18.6, R303). -/
def fwdView (s : Chip) (o : Nat) : Nat :=
  if o = 0 then fwdStat s
  else if within 0x100 0x10FC o then
    let n := (o - 0x100) / 0x10
    match o % 0x10 with
    | 0x0 => pack [(0, 2, s.sys.nhPorts.get n), (16, 12, s.sys.nhVid.get n), (28, 1, b2n (s.sys.nhTagged.get n))]
    | 0x4 => pack [(8, 8, nhOctet s n 0), (0, 8, nhOctet s n 1)]
    | 0x8 => pack [(24, 8, nhOctet s n 2), (16, 8, nhOctet s n 3), (8, 8, nhOctet s n 4), (0, 8, nhOctet s n 5)]
    | _ => 0
  else s.cnt.get (0x0A0000 + o)

/-- SCH (Tables 11.3 to 11.6). -/
def schView (s : Chip) (o : Nat) : Nat :=
  if o = 0 then schStat s
  else if within 0x1000 0x13FC o then shpTok s (elem o 0x1000)
  else if within 0x4000 0x7FFC o then schQstat s (elem o 0x4000)
  else s.cnt.get (0x0B0000 + o)

/-- PAIR (Table 12.7, R363). -/
def pairView (s : Chip) (o : Nat) : Nat :=
  if o = 0x00 then pairStat s
  else if o = 0x04 then s.pair.claim
  else if o = 0x08 then s.pair.peerClaim
  else if o = 0x0C then pairLease s
  else if o = 0x10 then ofS 32 (theta s)
  else s.cnt.get (0x0D0000 + o)

/-- SEC (Tables 13.11, 13.12). -/
def secView (s : Chip) (o : Nat) : Nat :=
  if o = 0x00 then secStat s
  else if o = 0x04 then usedSpan s
  else if o = 0x08 then orphSpan s
  else if o = 0x0C then persistSpan s
  else if o = 0x10 then s.sec.attrDenied
  else if within 0x20 0x24 o then tampStat s (elem o 0x20)
  else if within 0x28 0x2C o then tampBase s (elem o 0x28)
  else 0

/-- APC (Tables 15.8 to 15.10, R445). -/
def apcView (s : Chip) (o : Nat) : Nat :=
  if o = 0x00 then clusterStat s
  else if o = 0x04 then apcCfg s 6
  else if o = 0x10 then gustStat s
  else if within 0x20 0x3C o then gustPri s (elem o 0x20)
  else if within 0x100 0x1FC o then
    let n := (o - 0x100) / 0x20
    match o % 0x20 with
    | 0x0 => coreStat s n
    | 0x4 => (coreOf s n).taken
    | 0x8 => sampleStat s n
    | _ => 0
  else if within 0x400 0x43C o then
    let v := (coreOf s ((o - 0x400) / 8)).mtimecmp.toNat
    if o % 8 = 0 then v % 2 ^ 32 else v / 2 ^ 32
  else 0

/-- RWD (Table 17.6). -/
def rwdView (s : Chip) (o : Nat) : Nat :=
  if o = 0x00 then rwdStat s
  else if o = 0x04 then s.rwd.wptr
  else if o = 0x08 then s.rwd.trig
  else if o = 0x0C then s.rwd.skew
  else if within 0x40 0x7C o then s.rwd.marks.get (elem o 0x40)
  else s.cnt.get (0x100000 + o)

/-- MEM (Table 18.7). -/
def memView (s : Chip) (o : Nat) : Nat :=
  if o = 0x0000 then
    pack [(0, 5, s.sys.flashLog2), (5, 1, b2n s.sys.flashOctal), (6, 1, b2n s.sys.flashFound),
      (7, 1, b2n (s.sys.flashFound && decide (s.sys.flashLog2 < 26)))]
  else if o = 0x0004 then pack [(0, 16, s.sys.mramCorr), (16, 16, s.sys.mramUncorr)]
  else if o = 0x8000 then
    pack [(0, 3, s.sys.dramSize), (3, 1, b2n s.sys.dramTrained), (4, 1, b2n s.sys.dramSelfRefresh), (5, 3, s.sys.dramRate)]
  else 0

/-- What the register at an address holds; an address without one reads 0 (R499). A read through this view has no effect
(R78). -/
def regView (s : Chip) (a : Nat) : Nat :=
  let o := a % 0x10000
  if !holdsReg a then 0
  else match a / 0x10000 with
  | 0x00 => sysView s o
  | 0x01 => pwrView s o
  | 0x02 => timeView s o
  | 0x03 => rfView s 0 o
  | 0x04 => rfView s 1 o
  | 0x05 => txView s o
  | 0x06 => chnView s o
  | 0x07 => demView s o
  | 0x08 => frmView s o
  | 0x09 => if o = 0 then nodeStat s else s.cnt.get a
  | 0x0A => fwdView s o
  | 0x0B => schView s o
  | 0x0C => if o % 0x100 = 0 then ethPortStat s (o / 0x100) else s.cnt.get a
  | 0x0D => pairView s o
  | 0x0E => secView s o
  | 0x0F => apcView s o
  | 0x10 => rwdView s o
  | 0x11 => memView s o
  | _ => 0

/-- The software queue whose register of offset `k` lies at an address. -/
def dqAt (k a : Nat) : Option Nat := if 0x800 ≤ a ∧ a < 0x1000 ∧ a % 0x20 = k then some ((a - 0x800) / 0x20) else none

/-- The APC_MTIMECMPn word at an address: core, and whether it is the high word. -/
def mtimeAt (a : Nat) : Option (Nat × Bool) :=
  if 0x0F0400 ≤ a ∧ a < 0x0F0440 then some ((a - 0x0F0400) / 8, decide (a % 8 = 4)) else none

/-- A register read by the executive, with its effect (R502, R503). -/
def regRead (a : Nat) (s : Chip) : Nat × Chip :=
  match dqAt 0x0C a with
  | some n => (regView s a, if swConsumer n then dqUpd n Dq.pop s else s)
  | none => match mtimeAt a with
    | some (n, hi) =>
      let (v, s) := if hi then mtimeHiRead .executive n s else mtimeLoRead .executive n s
      (v.toNat, s)
    | none => (regView s a, s)

/-- REG_READ's reads, in ascending address (R501). -/
def regReads : Nat → Nat → Chip → Bytes × Chip
  | 0, _, s => ([], s)
  | n + 1, a, s =>
    let (v, s) := regRead a s
    let (vs, s) := regReads n (a + 4) s
    (wr 4 v ++ vs, s)

/-! ## REG_READ and REG_POLL -/

/-- REG_READ (R77, R500, R501). -/
def execRegRead (c : CmdRef) (s : State) : Out :=
  s.on fun s =>
  runCmd c 0x0003 s fun m =>
    let p := m.params
    let a := rd p 0 4
    let n := rd p 4 2
    checked c ([(0, regAddrOk a), (4, within 1 256 n && decide (a % 0x10000 + 4 * n ≤ 0x10000))] ++ zeroAt p 6 2) fun s =>
      if (List.range n).any fun i => regOff s (a + 4 * i) then complete c stAbortedDisabled [] s
      else
        let (res, s) := regReads n a s
        complete c stOk res s

/-- REG_POLL waits: the value read last and the instant of the read (R77). -/
def pollNote (v now : Nat) : Nat := v % 2 ^ 32 + 2 ^ 32 * (now + 1)

/-- A read of REG_POLL's register matches (R77). -/
def pollMatch (p : Bytes) (v : Nat) : Bool := decide (v &&& rd p 4 4 = rd p 8 4)

/-- REG_POLL: the first read (R77, R500, R503). -/
def execRegPoll (c : CmdRef) (s : State) : Out :=
  s.on fun s =>
  runCmd c 0x0005 s fun m =>
    let p := m.params
    let a := rd p 0 4
    checked c [(0, regAddrOk a && (dqAt 0x0C a).isNone), (12, within 1 10000000 (rd p 12 4))] fun s =>
      if m.work ≠ 0 then s
      else if regOff s a then complete c stAbortedDisabled (wr 4 0) s
      else
        let (v, s) := regRead a s
        if pollMatch p v then complete c stOk (wr 4 v) s else updCmd c (fun m => { m with work := pollNote v s.now }) s

/-- REG_POLL_SAMPLE: a REG_POLL that waits reads again once 10 µs have passed since its last read; it ends at its timeout. -/
def execRegPollSample (c : CmdRef) (s : State) : Out :=
  s.on fun s =>
  runCmd c 0x0005 s fun m s =>
    let p := m.params
    let a := rd p 0 4
    let late := m.startedAt.any fun t => decide (t + rd p 12 4 * nsUs ≤ s.now)
    if m.work = 0 then s
    else if regOff s a then complete c stAbortedDisabled (wr 4 m.work) s
    else if m.work / 2 ^ 32 - 1 + 10 * nsUs ≤ s.now then
      let (v, s) := regRead a s
      if pollMatch p v then complete c stOk (wr 4 v) s
      else if late then complete c stTimeout (wr 4 v) s
      else updCmd c (fun m => { m with work := pollNote v s.now }) s
    else if late then complete c stTimeout (wr 4 m.work) s
    else s

/-! ## Register writes (Table 18.2) -/

/-- A write to an RWL field (R9, R423): `opn` while the requester may change it; a refusal is counted when the value
would have changed. The second component: refused. -/
def rwlWrite (opn : Bool) (a cur new : Nat) (set : Chip → Chip) (s : Chip) : Chip × Bool :=
  if opn then (set s, false) else if new = cur then (s, false) else (lockViol a s, true)

/-- Replaces word `n` of a 128-bit map. -/
def putWord (m : BitVec 128) (n v : Nat) : BitVec 128 := BitVec.ofNat 128 (setFld m.toNat (32 * n) 32 v)

/-- SYS_CMD_CFGt (Table 2.7): EN and GROUPS; CREDIT until commit, 0 stored as 1. None where R505 refuses it. -/
def writeCmdCfg (opn : Bool) (a v : Nat) (s : Chip) : Option (Chip × Bool) :=
  let id := 1 + elem a 0x100
  let cur := cfgGet s 0x0003 id
  let new := setFld (v % 2 ^ 25) 1 8 (max 1 (fld v 1 8))
  if reachable (cfgSet 0x0003 id (setFld new 1 8 (fld cur 1 8)) s) then
    some (rwlWrite opn a (fld cur 1 8) (fld new 1 8) (fun s => cfgSet 0x0003 id new s)
      (cfgSet 0x0003 id (setFld new 1 8 (fld cur 1 8)) s))
  else none

/-- SYS_DQ_CTRLn (Table 1.7): BANK_LOG2 until commit, then EN, then FLUSH. Words that a queue holds stay when BANK_LOG2 changes
under them, and the credit follows the new size (R26; DESIGN CHOICE, assumption 104). -/
def writeDqCtrl (opn : Bool) (a n v : Nat) (s : Chip) : Chip × Bool :=
  let k := clampN 6 12 (fld v 8 4)
  let (s, refused) := rwlWrite opn a (s.dq.get n).bankLog2 k (dqUpd n fun q => { q with bankLog2 := k }) s
  let s := if bitOf v 0 then dqUpd n Dq.pump (dqMark n (dqUpd n Dq.enable s)) else dqUpd n Dq.disable s
  (if bitOf v 1 then dqUpd n (Dq.flush 0b00) s else s, refused)

/-- SYS_DQ_STATn: NOCRED, TRUNC and OVERRUN are W1C (Table 1.8). -/
def writeDqStat (n v : Nat) (s : Chip) : Chip :=
  dqUpd n (fun q => { q with noCred := q.noCred && !bitOf v 28, trunc := q.trunc && !bitOf v 29
                             overrun := q.overrun && !bitOf v 30 }) s

/-- SYS_DQ_SIDEn of a producer queue (Table 1.9, R40). -/
def writeDqSide (n v : Nat) (s : Chip) : Chip :=
  if swConsumer n then s
  else dqUpd n (fun q => { q with
    sideEnd := bitOf v 0, sideTag := BitVec.ofNat 2 (v / 2), sidePri := BitVec.ofNat 3 (v / 8)
    sideStream := BitVec.ofNat 8 (v / 256) }) s

/-- A software queue register. -/
def writeDq (opn : Bool) (a v : Nat) (s : Chip) : Chip × Bool :=
  let n := (a - 0x800) / 0x20
  match a % 0x20 with
  | 0x00 => writeDqCtrl opn a n v s
  | 0x04 => (writeDqStat n v s, false)
  | 0x08 => (writeDqSide n v s, false)
  | 0x0C => (if swConsumer n then s else swAppend n (w32 v) s, false)
  | _ => (s, false)

/-- A register write of the executive or of a core (Table 18.2): the state, and whether R9 refused an RWL field. A core
changes no RWL field, and of APC only APC_MTIMECMPn (R423). None where R505 refuses the write. -/
def regWrite (who : Requester) (a v : Nat) (s : Chip) : Option (Chip × Bool) :=
  let exec := decide (who = .executive)
  let opn := exec && !s.boot.committed
  let evSet := fun (f : Ev → Ev) => some ({ s with ev := f s.ev }, false)
  if within 0x000800 0x000FFC a then some (writeDq opn a v s)
  else if a = 0x0F0004 then
    some (rwlWrite opn a (apcCfg s 6) (v % 2 ^ 11) (cfgSet 0x0F01 6 (v % 2 ^ 11)) s)
  else if (mtimeAt a).isSome then
    let n := (a - 0x0F0400) / 8
    some (if a % 8 = 0 then mtimeLo who n (w32 v) s else mtimeHi who n (w32 v) s, false)
  else if !exec then some (s, false)
  else if within 0x000030 0x00003C a then
    some ({ s with sys := { s.sys with scratch := s.sys.scratch.set (elem a 0x30) (w32 v) } }, false)
  else if within 0x000100 0x000128 a then writeCmdCfg opn a v s
  else if within 0x000200 0x00020C a then evSet fun e => { e with ringEn := putWord e.ringEn (elem a 0x200) v }
  else if within 0x000210 0x00021C a then evSet fun e => { e with pin0En := putWord e.pin0En (elem a 0x210) v }
  else if within 0x000220 0x00022C a then evSet fun e => { e with pin1En := putWord e.pin1En (elem a 0x220) v }
  else if within 0x000230 0x00023C a then evSet fun e => { e with pend := e.pend &&& ~~~ (putWord 0 (elem a 0x230) v) }
  else if within 0x030100 0x03017C a then
    let id := 1 + elem a 0x030100
    some (rwlWrite opn a (cfgGet s 0x0302 id) (v % 2 ^ 27) (cfgSet 0x0302 id (v % 2 ^ 27)) s)
  else if within 0x040100 0x04017C a then
    let id := 1 + elem a 0x040100
    some (rwlWrite opn a (cfgGet s 0x0402 id) (v % 2 ^ 27) (cfgSet 0x0402 id (v % 2 ^ 27)) s)
  else if within 0x080100 0x08013C a then
    let n := elem a 0x080100
    some (sysUpd (fun y => { y with grpHandle := y.grpHandle.set n (fld v 0 18), grpIndex := y.grpIndex.set n (fld v 24 8) }) s, false)
  else some (s, false)

/-! ## REG_WRITE -/

/-- The value that a masked entry writes (R78). -/
def masked (old mask v : Nat) : Nat := if mask = 0xFFFFFFFF then v else (old &&& notN 32 mask) ||| (v &&& mask)

/-- What REG_WRITE has reached: the state, entries applied, entries refused, the status and the offending byte. -/
structure RegWalk where
  st : Chip
  applied : Nat
  refused : Nat
  status : Nat
  off : Nat

/-- The entries in order, up to the first that stops the command (R78, R500, R505). -/
def regWrites : List (Nat × Nat × Nat) → RegWalk → RegWalk
  | [], w => w
  | (a, mask, v) :: rest, w =>
    let i := 4 + 12 * w.applied
    if !regAddrOk a then { w with status := stBadParam, off := i }
    else if regOff w.st a then { w with status := stAbortedDisabled }
    else match regWrite .executive a (masked (regView w.st a) mask v) w.st with
      | none => { w with status := stBadParam, off := i + 8 }
      | some (s, refused) => regWrites rest { w with st := s, applied := w.applied + 1, refused := w.refused + b2n refused }

/-- REG_WRITE's result (Table 2.14). -/
def regWriteResult (w : RegWalk) : Bytes := wr 4 w.applied ++ wr 4 w.refused ++ wr 2 w.off ++ zeros 2

/-- REG_WRITE (R78, R504 to R506). -/
def execRegWrite (c : CmdRef) (s : State) : Out :=
  s.on fun s =>
  runCmd c 0x0004 s fun m s =>
    let p := m.params
    let n := rd p 0 4
    let w : RegWalk := ⟨s, 0, 0, stOk, 0⟩
    let w := if !within 1 256 n || decide (p.length < 4 + 12 * n) then { w with status := stBadParam }
      else regWrites ((List.range n).map fun i => (rd p (4 + 12 * i) 4, rd p (8 + 12 * i) 4, rd p (12 + 12 * i) 4)) w
    complete c w.status (regWriteResult w) w.st

/-- The registers that a core reaches through its window (R423). -/
def coreWindow (c a : Nat) (s : Chip) : Bool :=
  coreLive s c && (decide (a / 0x10000 = 0x0F) || (within 0x000800 0x000FFC a && coreQueue c ((a - 0x800) / 0x20)))

/-- REGISTER_WRITE: a write to a register by the executive or by a core. A core's access outside its window is the core's
access fault; a write that R505 or R500 turns away changes nothing. -/
def execRegisterWrite (who : Requester) (addr : BitVec 24) (value : Word) (s : State) : Out :=
  s.on fun s =>
  let a := addr.toNat
  let reach := match who with
    | .executive => true
    | .core c => coreWindow c.val a s
  .next (if !reach || !regAddrOk a || regOff s a then s
    else match regWrite who a value.toNat s with
    | some (s, _) => s
    | none => s)

end Sys2Proof.Machine
end

