-- ==== Sys2Proof/Machine/SysCmds.lean ====
section
/-! DEFINITION. The start of a command with its checks (R61, R64, R86, R93, R411, R452), and the system commands that touch
no register: SYS_NOP, SYS_IDENTIFY, SYS_STATUS, SYS_RESET, STREAM_FLUSH (R76, R79, R80). -/

namespace Sys2Proof.Machine

/-- The checks of OPCODE_CHECK in their order (R61), then the gates of the boot (R86, R93), of an installation session
(R411), of a transition and of domains that are off (R452): the status that ends the command before it runs, with its
result. -/
def startRefusal (m : Cmd) (s : Chip) : Option (Nat × Bytes) :=
  let op := m.opcode
  let g := op / 256
  if !knownOpcode op then some (stBadOpcode, [])
  else if !bitOf (trGroups s m.tr) g then some (stDenied, [])
  else if s.boot.tamperHold && !holdSet op then some (stTamperHold, [])
  else match badHeader m with
  | some off => some (stBadParam, badOff off)
  | none =>
    if bootBusy op s then some (stBusy, [])
    else if s.img.session.any fun x => decide (x.tr ≠ m.tr) && decide (g = 0x0E) && !([0x0E00, 0x0E01, 0x0E05].contains op) then
      some (stBusy, [])
    else if preparing op s then some (stBusy, [])
    else if groupPd g ≠ 0 ∧ !pdOn s (groupPd g) then some (stAbortedDisabled, [])
    else none

/-- COMMAND_START. -/
def execCommandStart (c : CmdRef) (s : State) : Out :=
  s.on fun s =>
  .next (if !s.ubfen.ready then s
    else match findCmd c s with
    | some m =>
      if !startsNext m s then s
      else match startRefusal m s with
      | some (st, res) => complete c st res s
      | none => updCmd c (fun m => { m with startedAt := some s.now }) s
    | none => s)

/-- SYS_NOP. -/
def execSysNop (c : CmdRef) (s : State) : Out := s.on fun s => runCmd c 0x0000 s fun _ => complete c stOk []

/-- SYS_IDENTIFY (Table 2.15). -/
def execSysIdentify (c : CmdRef) (s : State) : Out :=
  s.on fun s =>
  runCmd c 0x0001 s fun m s =>
    complete c stOk (wr 2 0x9740 ++ wr 1 0xA1 ++ wr 1 s.sys.lc ++ wr 1 (modeNow s) ++ wr 1 m.tr ++ wr 1 (trCredit s m.tr) ++
      wr 1 s.boot.cause ++ wr 8 s.sys.serial.toNat ++ (List.range 4).flatMap fun t => wr 4 (s.sys.ver.get t).toNat) s

/-- SYS_STATUS (Table 2.14). -/
def execSysStatus (c : CmdRef) (s : State) : Out :=
  s.on fun s =>
  runCmd c 0x0002 s fun _ s =>
    complete c stOk (wr 1 s.pwr.state ++
      wr 1 (pack [(0, 1, b2n (decide (s.time.td0.st = 1))), (1, 1, b2n (decide (s.time.td1.st = 1))), (2, 1, b2n s.scs.refOk)]) ++
      wr 1 s.pair.st ++ wr 1 (b2n s.boot.service) ++ wr 2 (ofS 16 s.pwr.junction) ++ wr 2 s.pwr.vcore ++
      wr 1 (busyCtxs s).length ++ wr 1 (launches s).length ++ wr 2 (evFill s) ++ wr 4 ((s.now - s.boot.start) / nsSec)) s

/-- SYS_RESET (R80). -/
def execSysReset (c : CmdRef) (s : State) : Out :=
  s.on fun s =>
  runCmd c 0x0006 s fun m =>
    let p := m.params
    checked c ((0, within 1 2 (rd p 0 1)) :: zeroAt p 1 3 ++ [ck 4 (rd p 4 4 ≤ 60000)]) fun s =>
      resetAccept (rd p 0 1) m.no (s.now + rd p 4 4 * nsMs) (complete c stOk [] s)

/-- Streams that STREAM_FLUSH names (Table 2.14). -/
def flushNames (m : Cmd) (tr cls : Nat) : Bool :=
  (decide (rd m.params 0 1 = tr) || (decide (rd m.params 0 1 = 0xFF) && decide (tr = m.tr))) &&
    (decide (rd m.params 1 1 = 0xFF) || decide (rd m.params 1 1 = cls))

/-- STREAM_FLUSH (R79): commands admitted before it and not started complete with ST_ABORTED_FLUSH, in order; the streams
then take any SEQUENCE. -/
def execStreamFlush (c : CmdRef) (s : State) : Out :=
  s.on fun s =>
  runCmd c 0x0007 s fun m =>
    let p := m.params
    checked c ([ck 0 (rd p 0 1 ≤ 10 ∨ rd p 0 1 = 0xFF), ck 1 (rd p 1 1 ≤ 15 ∨ rd p 1 1 = 0xFF)] ++ zeroAt p 2 2) fun s =>
      let cs := s.ubfen.cmds.filter fun e =>
        decide (e.no < m.no) && e.startedAt.isNone && e.done.isNone && flushNames m e.tr e.cls
      let s := forEach cs (fun e s => complete e.ref stAbortedFlush [] s) s
      let s := forEach (List.range 176) (fun k s =>
        if flushNames m (k / 16) (k % 16) then
          { s with ubfen := { s.ubfen with streams := s.ubfen.streams.upd k fun r => { r with expect := none } } }
        else s) s
      complete c stOk (wr 2 cs.length ++ zeros 2) s

end Sys2Proof.Machine
end

