-- ==== Sys2Proof/Machine/Dispatch.lean ====
section
/-! DEFINITION. What each command does: one direct call of its meaning. -/

namespace Sys2Proof.Machine

def exec (i : Instr) (s : State) : Host.Outcome State Fault Refusal :=
  match i with
  | .dqWordWrite q clocked data pri stream last => Sys2Proof.Machine.execDqWordWrite q clocked data pri stream last s
  | .dqBankSwap q => Sys2Proof.Machine.execDqBankSwap q s
  | .dqCarryOver q => Sys2Proof.Machine.execDqCarryOver q s
  | .dqPacketRead q => Sys2Proof.Machine.execDqPacketRead q s
  | .sysDqDataRead n who => Sys2Proof.Machine.execSysDqDataRead n who s
  | .sysDqDataWrite n who data => Sys2Proof.Machine.execSysDqDataWrite n who data s
  | .dqEnable n who => Sys2Proof.Machine.execDqEnable n who s
  | .dqDisable n who => Sys2Proof.Machine.execDqDisable n who s
  | .dqFlush n who => Sys2Proof.Machine.execDqFlush n who s
  | .dqFlushDone q => Sys2Proof.Machine.execDqFlushDone q s
  | .descriptorRelease dseq => Sys2Proof.Machine.execDescriptorRelease dseq s
  | .spiWritePacket data => Sys2Proof.Machine.execSpiWritePacket data s
  | .spiReadPacket count => Sys2Proof.Machine.execSpiReadPacket count s
  | .spiReadStatus => Sys2Proof.Machine.execSpiReadStatus s
  | .mgmtFrameCommand p frame => Sys2Proof.Machine.execMgmtFrameCommand p frame s
  | .mailboxCommand n => Sys2Proof.Machine.execMailboxCommand n s
  | .commandStart c => Sys2Proof.Machine.execCommandStart c s
  | .replyRelease tr cls => Sys2Proof.Machine.execReplyRelease tr cls s
  | .eventRecordWrite src => Sys2Proof.Machine.execEventRecordWrite src s
  | .ringOverflowRecord => Sys2Proof.Machine.execRingOverflowRecord s
  | .eventPushSend => Sys2Proof.Machine.execEventPushSend s
  | .sysNop c => Sys2Proof.Machine.execSysNop c s
  | .sysIdentify c => Sys2Proof.Machine.execSysIdentify c s
  | .sysStatus c => Sys2Proof.Machine.execSysStatus c s
  | .regRead c => Sys2Proof.Machine.execRegRead c s
  | .regWrite c => Sys2Proof.Machine.execRegWrite c s
  | .regPoll c => Sys2Proof.Machine.execRegPoll c s
  | .regPollSample c => Sys2Proof.Machine.execRegPollSample c s
  | .sysReset c => Sys2Proof.Machine.execSysReset c s
  | .resetBegin => Sys2Proof.Machine.execResetBegin s
  | .streamFlush c => Sys2Proof.Machine.execStreamFlush c s
  | .eventRead c => Sys2Proof.Machine.execEventRead c s
  | .eventConfig c => Sys2Proof.Machine.execEventConfig c s
  | .eventAck c => Sys2Proof.Machine.execEventAck c s
  | .eventPushSet c => Sys2Proof.Machine.execEventPushSet c s
  | .eventInject c => Sys2Proof.Machine.execEventInject c s
  | .powerOnReset => Sys2Proof.Machine.execPowerOnReset s
  | .resetnAssert lowNs taken => Sys2Proof.Machine.execResetnAssert lowNs taken s
  | .resetnRelease => Sys2Proof.Machine.execResetnRelease s
  | .bootStepEnd env => Sys2Proof.Machine.execBootStepEnd env s
  | .soloTimeoutExpiry => Sys2Proof.Machine.execSoloTimeoutExpiry s
  | .execLockstepMismatch pc => Sys2Proof.Machine.execExecLockstepMismatch pc s
  | .execWatchdogExpiry => Sys2Proof.Machine.execExecWatchdogExpiry s
  | .cfgWrite c => Sys2Proof.Machine.execCfgWrite c s
  | .cfgCommit c => Sys2Proof.Machine.execCfgCommit c s
  | .cfgReportRead c => Sys2Proof.Machine.execCfgReportRead c s
  | .cfgRead c => Sys2Proof.Machine.execCfgRead c s
  | .cfgErase c => Sys2Proof.Machine.execCfgErase c s
  | .calExport c => Sys2Proof.Machine.execCalExport c s
  | .calWrite c => Sys2Proof.Machine.execCalWrite c s
  | .adcClipReport conv clipped => Sys2Proof.Machine.execAdcClipReport conv clipped s
  | .scsLockLoss o => Sys2Proof.Machine.execScsLockLoss o s
  | .scsRelocked o => Sys2Proof.Machine.execScsRelocked o s
  | .refclkLoss => Sys2Proof.Machine.execRefclkLoss s
  | .refclkRestore => Sys2Proof.Machine.execRefclkRestore s
  | .steeringEnd => Sys2Proof.Machine.execSteeringEnd s
  | .bandTransitionDone b => Sys2Proof.Machine.execBandTransitionDone b s
  | .carrierPark k => Sys2Proof.Machine.execCarrierPark k s
  | .bandDrainDone b => Sys2Proof.Machine.execBandDrainDone b s
  | .calibrationDone b failed results => Sys2Proof.Machine.execCalibrationDone b failed results s
  | .radioCalRestart b => Sys2Proof.Machine.execRadioCalRestart b s
  | .backgroundTrack b offset gain skew => Sys2Proof.Machine.execBackgroundTrack b offset gain skew s
  | .paBiasRise e => Sys2Proof.Machine.execPaBiasRise e s
  | .paEnRise e => Sys2Proof.Machine.execPaEnRise e s
  | .launchStart e => Sys2Proof.Machine.execLaunchStart e s
  | .launchEnd e => Sys2Proof.Machine.execLaunchEnd e s
  | .paEnFall p => Sys2Proof.Machine.execPaEnFall p s
  | .paBiasFall => Sys2Proof.Machine.execPaBiasFall s
  | .lnaBypassStart b clipped samples level => Sys2Proof.Machine.execLnaBypassStart b clipped samples level s
  | .lnaBypassEnd b => Sys2Proof.Machine.execLnaBypassEnd b s
  | .antennaMeasure p m => Sys2Proof.Machine.execAntennaMeasure p m s
  | .tunerCodeWrite p => Sys2Proof.Machine.execTunerCodeWrite p s
  | .antennaProbeDue p => Sys2Proof.Machine.execAntennaProbeDue p s
  | .pinFaultDetect k high => Sys2Proof.Machine.execPinFaultDetect k high s
  | .radioStatus c => Sys2Proof.Machine.execRadioStatus c s
  | .radioCal c => Sys2Proof.Machine.execRadioCal c s
  | .radioStateSet c => Sys2Proof.Machine.execRadioStateSet c s
  | .rffeWrite c => Sys2Proof.Machine.execRffeWrite c s
  | .rffeRead c data parityFails => Sys2Proof.Machine.execRffeRead c data parityFails s
  | .antProbe c => Sys2Proof.Machine.execAntProbe c s
  | .pinRearm c stillBad => Sys2Proof.Machine.execPinRearm c stillBad s
  | .scsRelock c => Sys2Proof.Machine.execScsRelock c s
  | .channelBlockOut ch samples => Sys2Proof.Machine.execChannelBlockOut ch samples s
  | .nfBusyTimeout ch => Sys2Proof.Machine.execNfBusyTimeout ch s
  | .agcRangeAlert ch => Sys2Proof.Machine.execAgcRangeAlert ch s
  | .detectorScan b found => Sys2Proof.Machine.execDetectorScan b found s
  | .channelDrainDone ch => Sys2Proof.Machine.execChannelDrainDone ch s
  | .thresholdLoop ch fam => Sys2Proof.Machine.execThresholdLoop ch fam s
  | .rxWindowSet c => Sys2Proof.Machine.execRxWindowSet c s
  | .rxChannelSet c => Sys2Proof.Machine.execRxChannelSet c s
  | .rxChannelStatus c => Sys2Proof.Machine.execRxChannelStatus c s
  | .rxThreshSet c => Sys2Proof.Machine.execRxThreshSet c s
  | .rxCountersRead c => Sys2Proof.Machine.execRxCountersRead c s
  | .contextAllocate => Sys2Proof.Machine.execContextAllocate s
  | .contextAlignEnd x m => Sys2Proof.Machine.execContextAlignEnd x m s
  | .syncDecide x m0 m1 p0 p1 => Sys2Proof.Machine.execSyncDecide x m0 m1 p0 p1 s
  | .headerDecide x syms level => Sys2Proof.Machine.execHeaderDecide x syms level s
  | .fskSfdTimeout x => Sys2Proof.Machine.execFskSfdTimeout x s
  | .fskPhrDecide x bits level => Sys2Proof.Machine.execFskPhrDecide x bits level s
  | .payloadGroupDecode x syms bits level => Sys2Proof.Machine.execPayloadGroupDecode x syms bits level s
  | .contextFinish x m => Sys2Proof.Machine.execContextFinish x m s
  | .contextFree x => Sys2Proof.Machine.execContextFree x s
  | .demStatus c => Sys2Proof.Machine.execDemStatus c s
  | .demCountersRead c => Sys2Proof.Machine.execDemCountersRead c s
  | .txLaunch c => Sys2Proof.Machine.execTxLaunch c s
  | .heldLaunchPlace e => Sys2Proof.Machine.execHeldLaunchPlace e s
  | .holdMaxExpiry e => Sys2Proof.Machine.execHoldMaxExpiry e s
  | .launchDescriptorLoad e => Sys2Proof.Machine.execLaunchDescriptorLoad e s
  | .txCancel c => Sys2Proof.Machine.execTxCancel c s
  | .txStatus c => Sys2Proof.Machine.execTxStatus c s
  | .txSimcal c => Sys2Proof.Machine.execTxSimcal c s
  | .simcalMeasureDone e delayM spread => Sys2Proof.Machine.execSimcalMeasureDone e delayM spread s
  | .txSimcalSet c => Sys2Proof.Machine.execTxSimcalSet c s
  | .eddyReset c => Sys2Proof.Machine.execEddyReset c s
  | .eddyDigitalFit b m => Sys2Proof.Machine.execEddyDigitalFit b m s
  | .nsWordWrap => Sys2Proof.Machine.execNsWordWrap s
  | .rtcRealign => Sys2Proof.Machine.execRtcRealign s
  | .tempIncEnd d => Sys2Proof.Machine.execTempIncEnd d s
  | .timeRead c => Sys2Proof.Machine.execTimeRead c s
  | .timeStatus c => Sys2Proof.Machine.execTimeStatus c s
  | .timeSet c => Sys2Proof.Machine.execTimeSet c s
  | .timeAdjust c => Sys2Proof.Machine.execTimeAdjust c s
  | .timeDomainSwitch c => Sys2Proof.Machine.execTimeDomainSwitch c s
  | .domainSwitchAt => Sys2Proof.Machine.execDomainSwitchAt s
  | .timeAlarmSet c => Sys2Proof.Machine.execTimeAlarmSet c s
  | .alarmFire u => Sys2Proof.Machine.execAlarmFire u s
  | .ptpCounters c => Sys2Proof.Machine.execPtpCounters c s
  | .beaconSet c => Sys2Proof.Machine.execBeaconSet c s
  | .beaconBuild slot => Sys2Proof.Machine.execBeaconBuild slot s
  | .ptpSyncSample d p freqInc => Sys2Proof.Machine.execPtpSyncSample d p freqInc s
  | .ptpAnnounceReceive d p => Sys2Proof.Machine.execPtpAnnounceReceive d p s
  | .ptpAnnounceTimeout d p => Sys2Proof.Machine.execPtpAnnounceTimeout d p s
  | .syncLossTimeout d => Sys2Proof.Machine.execSyncLossTimeout d s
  | .ptpMasterSend d p kind => Sys2Proof.Machine.execPtpMasterSend d p kind s
  | .ptpTcForward inPort => Sys2Proof.Machine.execPtpTcForward inPort s
  | .uplinkFrameProcess => Sys2Proof.Machine.execUplinkFrameProcess s
  | .groupClose index => Sys2Proof.Machine.execGroupClose index s
  | .ageSweepVisit => Sys2Proof.Machine.execAgeSweepVisit s
  | .dlInject => Sys2Proof.Machine.execDlInject s
  | .downlinkFrameProcess => Sys2Proof.Machine.execDownlinkFrameProcess s
  | .nodeStatus c => Sys2Proof.Machine.execNodeStatus c s
  | .nodeSearch c => Sys2Proof.Machine.execNodeSearch c s
  | .nodeNext c => Sys2Proof.Machine.execNodeNext c s
  | .nodeFlushPort c => Sys2Proof.Machine.execNodeFlushPort c s
  | .nodeAdd c => Sys2Proof.Machine.execNodeAdd c s
  | .nodeSet c => Sys2Proof.Machine.execNodeSet c s
  | .nodeDelete c => Sys2Proof.Machine.execNodeDelete c s
  | .fwdStatus c => Sys2Proof.Machine.execFwdStatus c s
  | .fwdRouteAdd c => Sys2Proof.Machine.execFwdRouteAdd c s
  | .fwdRouteDel c => Sys2Proof.Machine.execFwdRouteDel c s
  | .fwdRouteRead c => Sys2Proof.Machine.execFwdRouteRead c s
  | .fwdNhSet c => Sys2Proof.Machine.execFwdNhSet c s
  | .fwdLookup c => Sys2Proof.Machine.execFwdLookup c s
  | .headExpire q => Sys2Proof.Machine.execHeadExpire q s
  | .tradePlan => Sys2Proof.Machine.execTradePlan s
  | .gateListSwitch l => Sys2Proof.Machine.execGateListSwitch l s
  | .schStatus c => Sys2Proof.Machine.execSchStatus c s
  | .schShaperSet c => Sys2Proof.Machine.execSchShaperSet c s
  | .schGateListSet c => Sys2Proof.Machine.execSchGateListSet c s
  | .schPolicerSet c => Sys2Proof.Machine.execSchPolicerSet c s
  | .schQueueSet c => Sys2Proof.Machine.execSchQueueSet c s
  | .schQueueFlush c => Sys2Proof.Machine.execSchQueueFlush c s
  | .schQueueStatus c => Sys2Proof.Machine.execSchQueueStatus c s
  | .schSelectSet c => Sys2Proof.Machine.execSchSelectSet c s
  | .ethLinkUp p speed rxInv => Sys2Proof.Machine.execEthLinkUp p speed rxInv s
  | .ethLinkDown p => Sys2Proof.Machine.execEthLinkDown p s
  | .ethFrameReceive p frame fcsOk => Sys2Proof.Machine.execEthFrameReceive p frame fcsOk s
  | .rtagRecoveryReset st => Sys2Proof.Machine.execRtagRecoveryReset st s
  | .ethTxSubmit p => Sys2Proof.Machine.execEthTxSubmit p s
  | .ethTxComplete p => Sys2Proof.Machine.execEthTxComplete p s
  | .pairLinkUp t => Sys2Proof.Machine.execPairLinkUp t s
  | .pairLinkDown => Sys2Proof.Machine.execPairLinkDown s
  | .heartbeatSend onLink => Sys2Proof.Machine.execHeartbeatSend onLink s
  | .heartbeatReceive h => Sys2Proof.Machine.execHeartbeatReceive h s
  | .peerSilent => Sys2Proof.Machine.execPeerSilent s
  | .leaseExpiry => Sys2Proof.Machine.execLeaseExpiry s
  | .mergeDigestReceive st key digest => Sys2Proof.Machine.execMergeDigestReceive st key digest s
  | .watermarkSend => Sys2Proof.Machine.execWatermarkSend s
  | .watermarkReceive w => Sys2Proof.Machine.execWatermarkReceive w s
  | .seqSolo => Sys2Proof.Machine.execSeqSolo s
  | .resumeMessageReceive w0 counters => Sys2Proof.Machine.execResumeMessageReceive w0 counters s
  | .mirrorReceive descriptor node txCtr digest => Sys2Proof.Machine.execMirrorReceive descriptor node txCtr digest s
  | .heldIngressExpire => Sys2Proof.Machine.execHeldIngressExpire s
  | .takeoverVisitEnd => Sys2Proof.Machine.execTakeoverVisitEnd s
  | .trimExchange theta => Sys2Proof.Machine.execTrimExchange theta s
  | .trimStaleTimeout => Sys2Proof.Machine.execTrimStaleTimeout s
  | .drillStart => Sys2Proof.Machine.execDrillStart s
  | .drillEnd => Sys2Proof.Machine.execDrillEnd s
  | .ethStatus c => Sys2Proof.Machine.execEthStatus c s
  | .ethPortSet c => Sys2Proof.Machine.execEthPortSet c s
  | .ethHostSet c => Sys2Proof.Machine.execEthHostSet c s
  | .ethRtagStatus c => Sys2Proof.Machine.execEthRtagStatus c s
  | .pairStatus c => Sys2Proof.Machine.execPairStatus c s
  | .pairYield c => Sys2Proof.Machine.execPairYield c s
  | .pairDrill c => Sys2Proof.Machine.execPairDrill c s
  | .cryptoOpComplete c => Sys2Proof.Machine.execCryptoOpComplete c s
  | .journalCommitDone => Sys2Proof.Machine.execJournalCommitDone s
  | .orphanSweepEnd => Sys2Proof.Machine.execOrphanSweepEnd s
  | .tamperSample loop r => Sys2Proof.Machine.execTamperSample loop r s
  | .drbgReseed => Sys2Proof.Machine.execDrbgReseed s
  | .entropyHealthFail code => Sys2Proof.Machine.execEntropyHealthFail code s
  | .secStatus c => Sys2Proof.Machine.execSecStatus c s
  | .keyGenerate c => Sys2Proof.Machine.execKeyGenerate c s
  | .keyDerive c => Sys2Proof.Machine.execKeyDerive c s
  | .keyImport c => Sys2Proof.Machine.execKeyImport c s
  | .keyExport c => Sys2Proof.Machine.execKeyExport c s
  | .keyInvalidate c => Sys2Proof.Machine.execKeyInvalidate c s
  | .keyReclaim c => Sys2Proof.Machine.execKeyReclaim c s
  | .keyInfo c => Sys2Proof.Machine.execKeyInfo c s
  | .keyAgree c => Sys2Proof.Machine.execKeyAgree c s
  | .sign c => Sys2Proof.Machine.execSign c s
  | .verify c => Sys2Proof.Machine.execVerify c s
  | .random c => Sys2Proof.Machine.execRandom c s
  | .attest c => Sys2Proof.Machine.execAttest c s
  | .publicRead c => Sys2Proof.Machine.execPublicRead c s
  | .tamperLogRead c => Sys2Proof.Machine.execTamperLogRead c s
  | .tamperClear c => Sys2Proof.Machine.execTamperClear c s
  | .tamperArm c loopA loopB => Sys2Proof.Machine.execTamperArm c loopA loopB s
  | .lifecycleSet c => Sys2Proof.Machine.execLifecycleSet c s
  | .operatorKeySet c => Sys2Proof.Machine.execOperatorKeySet c s
  | .certSet c => Sys2Proof.Machine.execCertSet c s
  | .certRead c => Sys2Proof.Machine.execCertRead c s
  | .debugSet c => Sys2Proof.Machine.execDebugSet c s
  | .imageStatus c => Sys2Proof.Machine.execImageStatus c s
  | .imageBegin c => Sys2Proof.Machine.execImageBegin c s
  | .imageChunk c => Sys2Proof.Machine.execImageChunk c s
  | .imageFinish c => Sys2Proof.Machine.execImageFinish c s
  | .imageConfirm c => Sys2Proof.Machine.execImageConfirm c s
  | .imageAbort c => Sys2Proof.Machine.execImageAbort c s
  | .imageSessionTimeout => Sys2Proof.Machine.execImageSessionTimeout s
  | .confirmWindowExpiry => Sys2Proof.Machine.execConfirmWindowExpiry s
  | .applicationImageLoaded => Sys2Proof.Machine.execApplicationImageLoaded s
  | .apcStatus c => Sys2Proof.Machine.execApcStatus c s
  | .apcCoreStart c => Sys2Proof.Machine.execApcCoreStart c s
  | .apcCoreStop c => Sys2Proof.Machine.execApcCoreStop c s
  | .apcCoreStopTimeout n => Sys2Proof.Machine.execApcCoreStopTimeout n s
  | .gustTaskSet c => Sys2Proof.Machine.execGustTaskSet c s
  | .gustTaskStatus c => Sys2Proof.Machine.execGustTaskStatus c s
  | .gustPost c => Sys2Proof.Machine.execGustPost c s
  | .apcPerfRead c => Sys2Proof.Machine.execApcPerfRead c s
  | .apcSampleRead c => Sys2Proof.Machine.execApcSampleRead c s
  | .gnextRead n => Sys2Proof.Machine.execGnextRead n s
  | .gdoneWrite n => Sys2Proof.Machine.execGdoneWrite n s
  | .gpost n task arg => Sys2Proof.Machine.execGpost n task arg s
  | .guserWrite n value => Sys2Proof.Machine.execGuserWrite n value s
  | .boundQueuePost q => Sys2Proof.Machine.execBoundQueuePost q s
  | .deferredPost q => Sys2Proof.Machine.execDeferredPost q s
  | .taskLate task => Sys2Proof.Machine.execTaskLate task s
  | .apcWatchdog n => Sys2Proof.Machine.execApcWatchdog n s
  | .coreFault n cause => Sys2Proof.Machine.execCoreFault n cause s
  | .eccError n uncorrectedDirty line => Sys2Proof.Machine.execEccError n uncorrectedDirty line s
  | .loadUpdate => Sys2Proof.Machine.execLoadUpdate s
  | .hpmCounterRead n k mode mcen scen => Sys2Proof.Machine.execHpmCounterRead n k mode mcen scen s
  | .counterOverflow n k => Sys2Proof.Machine.execCounterOverflow n k s
  | .msampleClear n value => Sys2Proof.Machine.execMsampleClear n value s
  | .sampleRecordWrite n t => Sys2Proof.Machine.execSampleRecordWrite n t s
  | .machineTimerPending n => Sys2Proof.Machine.execMachineTimerPending n s
  | .mtimecmpLoWrite who n value => Sys2Proof.Machine.execMtimecmpLoWrite who n value s
  | .mtimecmpHiWrite who n value => Sys2Proof.Machine.execMtimecmpHiWrite who n value s
  | .mtimecmpLoRead who n => Sys2Proof.Machine.execMtimecmpLoRead who n s
  | .pwrStatus c => Sys2Proof.Machine.execPwrStatus c s
  | .pwrStateSet c fails => Sys2Proof.Machine.execPwrStateSet c fails s
  | .blockVote block => Sys2Proof.Machine.execBlockVote block s
  | .prepareTimeout block => Sys2Proof.Machine.execPrepareTimeout block s
  | .powerCommit => Sys2Proof.Machine.execPowerCommit s
  | .statusInputPoll value => Sys2Proof.Machine.execStatusInputPoll value s
  | .lullAutoEntry => Sys2Proof.Machine.execLullAutoEntry s
  | .lullAutoReturn fails => Sys2Proof.Machine.execLullAutoReturn fails s
  | .rtcAlarm => Sys2Proof.Machine.execRtcAlarm s
  | .wakeStageReady refclk => Sys2Proof.Machine.execWakeStageReady refclk s
  | .wakeStageTimeout => Sys2Proof.Machine.execWakeStageTimeout s
  | .wakeBackoffEnd => Sys2Proof.Machine.execWakeBackoffEnd s
  | .rtcSet c => Sys2Proof.Machine.execRtcSet c s
  | .rtcAlarmSet c => Sys2Proof.Machine.execRtcAlarmSet c s
  | .padRelease c => Sys2Proof.Machine.execPadRelease c s
  | .lullRead c => Sys2Proof.Machine.execLullRead c s
  | .ageCheck c index => Sys2Proof.Machine.execAgeCheck c index s
  | .canaryMeasure margin failed => Sys2Proof.Machine.execCanaryMeasure margin failed s
  | .readVoutCheck mv failed => Sys2Proof.Machine.execReadVoutCheck mv failed s
  | .statusWordPoll value failed => Sys2Proof.Machine.execStatusWordPoll value failed s
  | .pmbusRetry ok => Sys2Proof.Machine.execPmbusRetry ok s
  | .ageingCheck index => Sys2Proof.Machine.execAgeingCheck index s
  | .thermalSample readings => Sys2Proof.Machine.execThermalSample readings s
  | .thermalShutdown reading => Sys2Proof.Machine.execThermalShutdown reading s
  | .thermalRestart reading => Sys2Proof.Machine.execThermalRestart reading s
  | .railSample mv => Sys2Proof.Machine.execRailSample mv s
  | .brownOut vsram => Sys2Proof.Machine.execBrownOut vsram s
  | .rwdPageStart words => Sys2Proof.Machine.execRwdPageStart words s
  | .captureGap lost => Sys2Proof.Machine.execCaptureGap lost s
  | .markOvertaken k => Sys2Proof.Machine.execMarkOvertaken k s
  | .rwdTrigger src => Sys2Proof.Machine.execRwdTrigger src s
  | .rwdPostFreeze => Sys2Proof.Machine.execRwdPostFreeze s
  | .rwdStatus c => Sys2Proof.Machine.execRwdStatus c s
  | .rwdArm c => Sys2Proof.Machine.execRwdArm c s
  | .rwdFreeze c => Sys2Proof.Machine.execRwdFreeze c s
  | .rwdMark c => Sys2Proof.Machine.execRwdMark c s
  | .rwdRead c => Sys2Proof.Machine.execRwdRead c s
  | .rwdWrite c => Sys2Proof.Machine.execRwdWrite c s
  | .rwdReplay c => Sys2Proof.Machine.execRwdReplay c s
  | .rwdReplayBegin => Sys2Proof.Machine.execRwdReplayBegin s
  | .rwdReplayEnd => Sys2Proof.Machine.execRwdReplayEnd s
  | .rwdReplayStop c => Sys2Proof.Machine.execRwdReplayStop c s
  | .rwdSetupRead c => Sys2Proof.Machine.execRwdSetupRead c s
  | .registerWrite who addr value => Sys2Proof.Machine.execRegisterWrite who addr value s
  | .leaseGuardTakeover => Sys2Proof.Machine.execLeaseGuardTakeover s
  | .pairLaneLockChange lane up => Sys2Proof.Machine.execPairLaneLockChange lane up s
  | .pauseTimeExpiry p => Sys2Proof.Machine.execPauseTimeExpiry p s
  | .rtcCrystalFallback => Sys2Proof.Machine.execRtcCrystalFallback s
  | .entropySamplesPass => Sys2Proof.Machine.execEntropySamplesPass s
  | .coreWfi n => Sys2Proof.Machine.execCoreWfi n s
  | .wakeAfterEntry => Sys2Proof.Machine.execWakeAfterEntry s
  | .vaonLoss => Sys2Proof.Machine.execVaonLoss s

end Sys2Proof.Machine
end

