-- ==== Sys2Proof/Machine/Tick.lean ====
section
/-! DEFINITION. The passing of time: one 2 ns tick of CD3, which a step takes while no command waits (DESIGN CHOICE, assumption 1). -/

namespace Sys2Proof.Machine

/-- Counter 0 of a RUNNING core over one tick, WFI excluded (Table 15.7). -/
def Core.tick (c : Core) : Core := if c.st = 2 ∧ c.wfi = false then { c with ctr := c.ctr.upd 0 fun x => (x + 1) % 2 ^ 64 } else c

/-- One tick: the model's clock and the RTC run while VAON is up, the time domains while PD11 is on, the cycle counters
while PD2 is on; a calibration section in staging is copied into place (R108). -/
def tick (s : Chip) : Chip :=
  if s.boot.wait = .vaon then s
  else
    let s := calFinish { s with now := s.now + 2, pd0 := { s.pd0 with rtc := s.pd0.rtc + 2 } }
    let s := if pdOn s 11 then { s with time := { s.time with td0 := s.time.td0.tick, td1 := s.time.td1.tick } } else s
    if pdOn s 2 then { s with apc := { s.apc with cores := s.apc.cores.mapEnts fun _ c => c.tick } } else s

end Sys2Proof.Machine
end

