-- ==== Sys2Proof/WellFormed.lean ====
section
/-! DEFINITION. The operands that a sender can form: what the types of Syntax.lean do not already say. -/

namespace Sys2Proof

/-- A command whose operands its sender can form. A block producer writes queues 0–31 and those inside the part, and a
block consumer reads queues 32 and up (R38, R155); a channel block has 32 samples (R155); a calibration fails
at a step from 1 to 5, in band B at 1, 3 or 5 (Table 4.8); a thermal sample has a
reading of each of the eight sensors, and a rail sample one for each of the eight rails (R473, R474);
a loop's baseline comes from 64 samples (R389). -/
def Instr.wf : Instr → Bool
  | .dqWordWrite q _ _ _ _ _ => decide (q.val < 32 ∨ 64 ≤ q.val)
  | .dqPacketRead q => decide (32 ≤ q.val)
  | .channelBlockOut _ samples => decide (samples.length = 32)
  | .calibrationDone b failed _ => decide (failed ≠ some 0 ∧ (b = .bandB → failed ≠ some 2 ∧ failed ≠ some 4))
  | .thermalSample readings => decide (readings.length = 8)
  | .railSample mv => decide (mv.length = 8)
  | .tamperArm _ loopA loopB => decide (loopA.length = 64 ∧ loopB.length = 64)
  | _ => true

end Sys2Proof
end

