-- ==== Sys2Proof/Safety.lean ====
section
/-! DEFINITION. The terms that claims are stated in: the parts of the device and frames over them, what it means that a
command takes an effect or completes, and the invariants of a safe run. -/

namespace Sys2Proof.Machine

/-! ## Frames -/

/-- The parts of the device, one per field of the state. -/
inductive Part where
  | now | freeCtr | dq | ubfen | ev | boot | cfg | cal | sys | time | pd0 | pwr | health | scs | cnt | eth | rf | tx
  | chn | dem | rwd | dram | fe | sch | pair | sec | img | apc
deriving DecidableEq, Repr

/-- A part is the same in two states. -/
def Part.same (s t : Chip) : Part → Prop
  | .now => t.now = s.now
  | .freeCtr => t.freeCtr = s.freeCtr
  | .dq => t.dq = s.dq
  | .ubfen => t.ubfen = s.ubfen
  | .ev => t.ev = s.ev
  | .boot => t.boot = s.boot
  | .cfg => t.cfg = s.cfg
  | .cal => t.cal = s.cal
  | .sys => t.sys = s.sys
  | .time => t.time = s.time
  | .pd0 => t.pd0 = s.pd0
  | .pwr => t.pwr = s.pwr
  | .health => t.health = s.health
  | .scs => t.scs = s.scs
  | .cnt => t.cnt = s.cnt
  | .eth => t.eth = s.eth
  | .rf => t.rf = s.rf
  | .tx => t.tx = s.tx
  | .chn => t.chn = s.chn
  | .dem => t.dem = s.dem
  | .rwd => t.rwd = s.rwd
  | .dram => t.dram = s.dram
  | .fe => t.fe = s.fe
  | .sch => t.sch = s.sch
  | .pair => t.pair = s.pair
  | .sec => t.sec = s.sec
  | .img => t.img = s.img
  | .apc => t.apc = s.apc

/-- Nothing outside the parts listed differs between `s` and `t`. -/
def OnlyChanges (ps : List Part) (s t : Chip) : Prop := ∀ p, p ∉ ps → p.same s t

/-! ## Effects -/

/-- The command answers a next state: the queue of waiting commands stays as it is, and the device is as `P` says. -/
def Does (i : Instr) (s : State) (P : Chip → Prop) : Prop :=
  ∃ t : Chip, exec i s = .next { s with toChip := t } ∧ P t

/-- The uncompleted command of the Ubfen protocol that `c` names. -/
def NamesCmd (c : CmdRef) (m : Cmd) : Prop := m.tr = c.tr.val ∧ m.tag = c.tag ∧ m.done = none

/-- The command has completed with a status and a result, padded to words (R48). -/
def Completed (c : CmdRef) (st : Nat) (res : Bytes) (t : Chip) : Prop :=
  ∃ m ∈ t.ubfen.cmds, m.tr = c.tr.val ∧ m.tag = c.tag ∧ m.accepted = true ∧ ∃ k, m.done = some (st, pad4 res, k)

/-- From `s` to `t` the command completes with a status and a result, and nothing else happens: the other commands, and
every part of the device but the protocol's own bookkeeping, are as in `s`. -/
def JustCompletes (c : CmdRef) (st : Nat) (res : Bytes) (s t : Chip) : Prop :=
  Completed c st res t ∧ (∀ m ∈ s.ubfen.cmds, ¬ NamesCmd c m → m ∈ t.ubfen.cmds) ∧
  t.ubfen.cmds.length = s.ubfen.cmds.length ∧
  t = { s with ubfen := { s.ubfen with
    cmds := t.ubfen.cmds, streams := t.ubfen.streams, doneAt := t.ubfen.doneAt } }

/-- A packet that passes every admission check of Table 2.8 on a transport (R60, R62, R63). -/
def Admissible (tr : Nat) (pkt : Bytes) (s : Chip) : Prop :=
  trEn s tr = true ∧ pkt.length = 20 + rd pkt 6 2 ∧ rd pkt 6 2 % 4 = 0 ∧ rd pkt 6 2 ≤ 8192 ∧ rd pkt 0 1 = 1 ∧
  rd pkt (pkt.length - 4) 4 = crc32c (pkt.take (pkt.length - 4)) ∧ rd pkt 1 1 % 4 = 0 ∧ rd pkt 5 1 ≤ 15 ∧
  (∀ k ∈ (s.ubfen.streams.get (streamKey tr (rd pkt 5 1))).kept, k.1 ≠ w32 (rd pkt 8 4)) ∧
  (∀ m ∈ s.ubfen.cmds, m.tr = tr → m.cls = rd pkt 5 1 → m.seq ≠ w32 (rd pkt 8 4)) ∧
  ((s.ubfen.streams.get (streamKey tr (rd pkt 5 1))).expect = none ∨
    (s.ubfen.streams.get (streamKey tr (rd pkt 5 1))).expect = some (w32 (rd pkt 8 4))) ∧
  (∀ m ∈ s.ubfen.cmds, m.tr = tr → m.done = none → m.tag.toNat ≠ rd pkt 4 1) ∧
  uncompleted tr s < trCredit s tr ∧ s.ubfen.resetWait = none ∧
  (∀ m ∈ s.ubfen.cmds, m.done = none → m.opcode ≠ 0x0006)

/-- From `s` to `t` one command is admitted, with the fields of its packet, and its stream expects the next SEQUENCE. -/
def Admitted (tr : Nat) (back pkt : Bytes) (s t : Chip) : Prop :=
  (∃ m : Cmd, t.ubfen.cmds = s.ubfen.cmds ++ [m] ∧ m.tr = tr ∧ m.opcode = rd pkt 2 2 ∧ m.tag.toNat = rd pkt 4 1 ∧
    m.cls = rd pkt 5 1 ∧ m.seq.toNat = rd pkt 8 4 ∧ m.flags.toNat = rd pkt 1 1 ∧ m.status = rd pkt 12 2 ∧
    m.outst = rd pkt 14 2 ∧ m.params = (pkt.drop 16).take (rd pkt 6 2) ∧ m.back = back ∧ m.startedAt = none ∧
    m.accepted = false ∧ m.done = none) ∧
  (t.ubfen.streams.get (streamKey tr (rd pkt 5 1))).expect = some (w32 (rd pkt 8 4 + 1))

/-- What every reset with a cause of Table 3.1 leaves (R83, Table 16.10): a new start with that cause in SYS_BOOT_STAT and
its source in SYS_WAKE_CAUSE, only PD0 on, no command, event, running value or queue item left; the stored records and
the RTC stay. -/
def Restarts (cause : Nat) (w : BootWait) (s t : Chip) : Prop :=
  t.boot.cause = cause ∧ t.boot.wait = w ∧ t.boot.start = s.now ∧ t.boot.stage = 0 ∧ t.boot.service = false ∧
  t.boot.committed = false ∧ t.pwr.domOn = 1 ∧ t.pd0.wakeSource = sourceOf cause ∧ t.pd0.rtc = s.pd0.rtc ∧
  t.pd0.tampLatch = s.pd0.tampLatch ∧ t.pd0.tampLog = s.pd0.tampLog ∧ t.ubfen = Ubfen.reset ∧ t.ev = Ev.reset ∧
  t.dq = dqReset ∧ t.cfg.run = [] ∧ t.cfg.stored = s.cfg.stored ∧ t.now = s.now ∧ t.sys.serial = s.sys.serial ∧
  (w = .wake → t.boot.step = 1 ∧ t.pwr.stage = 1 ∧ t.pwr.stageAt = s.now)

/-- From `s` to `t` one operation joins the crypto engine's queue; but for the DRBG's request count, nothing else happens. -/
def Submits (o : CryptoOp) (s t : Chip) : Prop :=
  t = { s with sec := { s.sec with ops := s.sec.ops ++ [o], drbgReqs := t.sec.drbgReqs, drbgAt := t.sec.drbgAt } }

/-- A launch without a place of its own yet passes the checks of Table 8.2 after those of its fields, and entry `e` is its
(R233 to R235). -/
def Accepts (l : Launch) (e : Nat) (s : Chip) : Prop :=
  let l := { l with no := s.tx.count, heldAt := s.now, phyCfg := demPhyCfg s }
  portBand s l.port = l.band + 1 ∧ disabledBy s l = none ∧ (l.simulcast = true → (tdGet s l.dom).st = 1) ∧
  freeEntry s l = some e ∧
  (l.asap = true → synthLocked s = true ∧
    (placeLaunch l (ns16 (asapLead s l) : Int) (txUpd (fun t => { t with count := t.count + 1 }) s)).any
      (fun l => decide (calEnd s ≤ relT s l) && regAdmits s l) = true) ∧
  (l.asap = false → calEnd s ≤ relT s l ∧ (ns16 (leadMin s) : Int) ≤ relT s l ∧ clearAt s l (relT s l) = true ∧
    regAdmits s l = true)

/-- From `s` to `t` the launch takes entry `e`, at the level that the clamp leaves it. -/
def Queued (l : Launch) (e : Nat) (s t : Chip) : Prop :=
  (∃ x, t.tx.entries.get e = some x ∧ x.src = l.src ∧ x.id = l.id ∧ x.carrier = l.carrier ∧ x.port = l.port ∧ x.freq = l.freq ∧
    x.airNs = l.airNs ∧ x.psdu = l.psdu ∧ x.cmd = l.cmd ∧ x.dom = l.dom ∧ x.no = s.tx.count ∧ x.ended = none ∧ x.phase = 0 ∧
    x.held = false ∧ (l.asap = false → x.t = l.t) ∧ (-400 ≤ l.level → x.level ≤ l.level) ∧
    (x.clamped = false → x.level = l.level)) ∧
  (∀ j, j ≠ e → t.tx.entries.get j = s.tx.entries.get j) ∧ t.tx.count = s.tx.count + 1

/-- The uncompleted command has reached its acceptance point. -/
def AcceptedCmd (c : CmdRef) (t : Chip) : Prop := ∃ m ∈ t.ubfen.cmds, NamesCmd c m ∧ m.accepted = true

/-- The `n`-byte little-endian field at byte `off` holds `v`. -/
def Field (res : Bytes) (off n v : Nat) : Prop := rd res off n = v % 256 ^ n

/-- The `n` bytes from `off` on are zero. -/
def ZeroBytes (p : Bytes) (off n : Nat) : Prop := ∀ i, i < n → rd p (off + i) 1 = 0

/-- A raise of an event source waits for the executive. -/
def Raised (src payload : Nat) (t : Chip) : Prop := ∃ r ∈ t.ev.raised, r.src = src ∧ r.payload = payload

/-- A queue is put in place; the others stay. -/
def putQueue (n : Nat) (q : Dq) (s : Chip) : Chip := { s with dq := s.dq.set n q }

/-! ## Safe runs -/

/-- Every command that waits can be formed by its sender. -/
def QueueWf (s : State) : Prop := ∀ i ∈ s.pending, i.wf = true

/-- LPDDR4X is in its canonical form. -/
def DramWf (s : State) : Prop := memWf s.dram = true

/-- The valid node entries stand in rising index, each index at most once. -/
def NodesRising (s : State) : Prop := s.fe.nodes.Pairwise fun a b => a.1 < b.1

/-- The node store and the prefix memory keep their order (R298): routes longest first, each TABLE, LEN and prefix once. -/
def FeWf (s : State) : Prop :=
  NodesRising s ∧ s.fe.routes.Pairwise (fun a b => b.len ≤ a.len ∧ a.same b = false) ∧ ∀ r ∈ s.fe.routes, r.len ≤ 128

end Sys2Proof.Machine
end

