-- ==== Sys2Proof/Certificates/Slice0/Obligations.lean ====
section
/-! DEFINITION. The statements for the provers. -/

open Sys2Proof Sys2Proof.Machine

/-- When a command waits at the front of the queue, a step is that command's effect on the state with the rest of the
queue. (95_what_each_step_holds, 02 Ubfen commands) -/
def Obligations.StepRunsFrontCommand : Prop :=
  ∀ (c : Instr) (rest : List Instr) (s : State), s.pending = c :: rest → step s = exec c { s with pending := rest }

/-- With no command waiting, a step is one tick of 2 ns, by the model's own choice (assumption 1): the clock and the RTC
advance by 2 ns while VAON is up; the time domains advance by INC while PD11 is on and stand still otherwise;
nothing passes without VAON; and no part but the clock, PD0, the time unit and the cycle counters of the cores
changes. (assumption 1, 09 R255) -/
def Obligations.IdleStepIsOneTick : Prop :=
  ∀ s : State, s.pending = [] → ∃ t : Chip, step s = .next { s with toChip := t } ∧
    (s.boot.wait = .vaon → t = s.toChip) ∧
    (s.boot.wait ≠ .vaon → t.now = s.now + 2 ∧ t.pd0 = { s.pd0 with rtc := s.pd0.rtc + 2 } ∧
      (t.time = if pdOn s.toChip 11 then { s.time with td0 := s.time.td0.tick, td1 := s.time.td1.tick } else s.time)) ∧
    OnlyChanges [.now, .pd0, .time, .apc] s.toChip t

/-- Right after power-on no command waits, so every waiting command is well formed, and LPDDR4X, which lists nothing, is
in its canonical form; so are the node store and the prefix memory, which are empty; the reset cause is 0x01, no
domain but those of PD0 is on, and service is not open. (03 R83, assumption 7) -/
def Obligations.ResetMeetsInvariants : Prop :=
  QueueWf State.reset ∧ DramWf State.reset ∧ FeWf State.reset ∧ State.reset.boot.cause = 0x01 ∧ State.reset.boot.service = false ∧
    ∀ k, k ≤ 11 → k ≠ 0 → pdOn State.reset.toChip k = false

/-- For every state whose waiting commands are well formed, whatever else the state holds: a step answers a next state,
never a fault or a refusal; the commands that wait afterwards are those that waited behind the front one, in their
order; so they are well formed again, and the machine never stops. (95_what_each_step_holds, 02 Ubfen commands) -/
def Obligations.StepNeverStopsAndKeepsQueue : Prop :=
  ∀ s : State, QueueWf s → ∃ t : State, step s = .next t ∧ t.pending = s.pending.tail ∧ QueueWf t

/-- Seven commands have operands that no sender can form: a block producer that writes one of the queues 32 to 63, a
block consumer that reads one of the queues 0 to 31, a channel block without 32 samples, a calibration that fails at
step 0 or, in band B, at step 2 or 4, a thermal or rail sample without eight readings, and a loop's baseline without
64 samples. Exactly these stop, with the fault illFormed, in every state. (01 R38, 05 R155, 04 Table 4.8, 13 R389,
16 R473, 16 R474) -/
def Obligations.IllFormedOperandsFault : Prop :=
  ∀ (i : Instr) (s : State), i.wf = false → exec i s = .fault .illFormed

/-- When the named command runs: SYS_NOP completes with ST_OK and an empty result; SYS_IDENTIFY completes with ST_OK and
a result that holds 0x9740, 0xA1, the life-cycle state, the mode, the transport and its credit, the reset cause, the
serial number and the four versions at the offsets of Table 2.15; SYS_STATUS completes with ST_OK and a result that
holds the power state, the pair state, SERVICE, the junction temperature and VCORE at the offsets of Table 2.14;
none of the three changes anything else. SYS_RESET with a legal kind and delay leaves a reset of that kind due after
that delay. STREAM_FLUSH with a legal stream lets every stream that it names take any SEQUENCE next. (02 R76, 02
R80, 02 R79, 02 Tables 2.14 and 2.15) -/
def Obligations.SystemCommandsComplete : Prop :=
  (∀ (c : CmdRef) (m : Cmd) (s : State), runnable c 0x0000 s.toChip = some m →
    Does (.sysNop c) s (JustCompletes c stOk [] s.toChip)) ∧
  (∀ (c : CmdRef) (m : Cmd) (s : State), runnable c 0x0001 s.toChip = some m →
    ∃ res : Bytes, Does (.sysIdentify c) s (JustCompletes c stOk res s.toChip) ∧
      Field res 0 2 0x9740 ∧ Field res 2 1 0xA1 ∧ Field res 3 1 s.sys.lc ∧ Field res 4 1 (modeNow s.toChip) ∧
      Field res 5 1 m.tr ∧ Field res 6 1 (trCredit s.toChip m.tr) ∧ Field res 7 1 s.boot.cause ∧
      Field res 8 8 s.sys.serial.toNat ∧ ∀ t, t < 4 → Field res (16 + 4 * t) 4 (s.sys.ver.get t).toNat) ∧
  (∀ (c : CmdRef) (m : Cmd) (s : State), runnable c 0x0002 s.toChip = some m →
    ∃ res : Bytes, Does (.sysStatus c) s (JustCompletes c stOk res s.toChip) ∧
      Field res 0 1 s.pwr.state ∧ Field res 2 1 s.pair.st ∧ Field res 3 1 (b2n s.boot.service) ∧
      Field res 4 2 (ofS 16 s.pwr.junction) ∧ Field res 6 2 s.pwr.vcore) ∧
  (∀ (c : CmdRef) (m : Cmd) (s : State) (kind ms : Nat), runnable c 0x0006 s.toChip = some m →
    rd m.params 0 1 = kind → 1 ≤ kind → kind ≤ 2 → ZeroBytes m.params 1 3 → rd m.params 4 4 = ms → ms ≤ 60000 →
    Does (.sysReset c) s fun t => t.ubfen.resetWait = some ⟨kind, m.no, s.now + ms * nsMs⟩) ∧
  (∀ (c : CmdRef) (m : Cmd) (s : State), runnable c 0x0007 s.toChip = some m →
    (rd m.params 0 1 ≤ 10 ∨ rd m.params 0 1 = 0xFF) → (rd m.params 1 1 ≤ 15 ∨ rd m.params 1 1 = 0xFF) →
    ZeroBytes m.params 2 2 →
    Does (.streamFlush c) s fun t => ∀ tr cls, tr < 11 → cls < 16 → flushNames m tr cls = true →
      (t.ubfen.streams.get (streamKey tr cls)).expect = none)

/-- When the named command runs with legal parameters: EVENT_READ with PEEK returns the oldest unread records, as many
as asked for and there are, and changes nothing; without PEEK it also marks exactly the records it returns as read.
EVENT_CONFIG sets and clears the enable bits of the sources it names, in the three registers that its bits choose.
EVENT_ACK clears exactly the PENDING bits given. EVENT_PUSH_SET takes transport, count, hold-off and level and
restarts the push SEQUENCE at 0. EVENT_INJECT outside DEPLOYED puts one record with INJECTED and the level given
through the ring's rules, behind every EV_TIME_WRAP that waits; in DEPLOYED it completes with ST_LIFECYCLE and
changes nothing. Each completes with ST_OK otherwise, and nothing else changes. (02 R71, 02 R72, 02 R73, 02 R81, 02
Table 2.14) -/
def Obligations.EventCommandsComplete : Prop :=
  (∀ (c : CmdRef) (m : Cmd) (s : State) (n : Nat), runnable c 0x0010 s.toChip = some m →
    rd m.params 0 2 = n → 1 ≤ n → n ≤ 511 → ZeroBytes m.params 3 1 → ZeroBytes m.params 6 2 →
    let l := (s.ev.ring.filter EvRec.unread).take n
    let s' := if rd m.params 2 1 = 1 then s.toChip else { s.toChip with ev := { s.ev with
      ring := s.ev.ring.map fun r => if l.any (fun x => x.seq = r.seq) then { r with unread := false } else r } }
    (rd m.params 2 1 = 0 ∨ rd m.params 2 1 = 1) →
    Does (.eventRead c) s (JustCompletes c stOk
      (wr 2 l.length ++ wr 2 (evFill s') ++ wr 2 s.ev.lost ++ zeros 2 ++ l.flatMap recBytes) s')) ∧
  (∀ (c : CmdRef) (m : Cmd) (s : State) (a b st cl : Nat), runnable c 0x0011 s.toChip = some m →
    rd m.params 0 1 = a → rd m.params 1 1 = b → rd m.params 2 1 = st → rd m.params 3 1 = cl →
    a ≤ b → b ≤ 127 → st &&& 7 = st → cl &&& 7 = cl → st &&& cl = 0 →
    Does (.eventConfig c) s (JustCompletes c stOk [] { s.toChip with ev := { s.ev with
      ringEn := setClear s.ev.ringEn (srcRange a b) (bitOf st 0) (bitOf cl 0)
      pin0En := setClear s.ev.pin0En (srcRange a b) (bitOf st 1) (bitOf cl 1)
      pin1En := setClear s.ev.pin1En (srcRange a b) (bitOf st 2) (bitOf cl 2) } })) ∧
  (∀ (c : CmdRef) (m : Cmd) (s : State), runnable c 0x0012 s.toChip = some m →
    Does (.eventAck c) s (JustCompletes c stOk []
      { s.toChip with ev := { s.ev with pend := s.ev.pend &&& ~~~ (BitVec.ofNat 128 (rd m.params 0 16)) } })) ∧
  (∀ (c : CmdRef) (m : Cmd) (s : State) (tr n hold lvl : Nat), runnable c 0x0013 s.toChip = some m →
    rd m.params 0 1 = tr → rd m.params 1 1 = n → rd m.params 2 2 = hold → rd m.params 4 1 = lvl →
    (tr = 0xFF ∨ tr ≤ 10) → 1 ≤ n → n ≤ 64 → lvl ≤ 3 → ZeroBytes m.params 5 3 →
    Does (.eventPushSet c) s (JustCompletes c stOk [] { s.toChip with ev := { s.ev with
      pushTr := tr, pushCount := n, pushHold := hold, pushLevel := lvl, pushSeq := 0 } })) ∧
  (∀ (c : CmdRef) (m : Cmd) (s : State) (src lvl : Nat), runnable c 0x0014 s.toChip = some m →
    rd m.params 0 1 = src → rd m.params 1 1 = lvl → src ≤ 127 → evReserved src = false → lvl ≤ 3 →
    ZeroBytes m.params 2 6 →
    (s.sys.lc = 2 → Does (.eventInject c) s (JustCompletes c stLifecycle [] s.toChip)) ∧
    (s.sys.lc ≠ 2 → let u := settleWraps s.toChip
      Does (.eventInject c) s (JustCompletes c stOk []
        (ringWrite (evRecord src lvl (unlockedAt u u.time.stampDom) true (nsWord u) (rd m.params 8 8) u) u)) ∧
      ((∀ r ∈ s.ev.raised, r.src ≠ 16) → u = s.toChip)))

/-- A word that a block producer writes against credit ends its packet in the filling bank when it is its last word,
with the PRI and STREAM of the packet's first word; without credit a self-timed producer's word is withheld and
nothing changes, and a clocked producer's lone word is counted as lost. The banks swap when the draining bank is
empty, nothing is under read, the filling bank holds packets, none of them open, and no flush runs; a full bank's
open packet that did not begin at the bank's first word is carried over. A block consumer takes the packet that the
reading order selects: an ABORT item of a queue without a completion item of its own gives its reference and status
there (assumption 83), a receive descriptor enters the frame engine's hold. In each case every other queue and every
other part of the device is as before. (01 R26, 01 R27, 01 R28, 01 R29, 01 R31, 01 R35, 01 R532, 07 R222) -/
def Obligations.DraughtWordsAndBanks : Prop :=
  (∀ (n : QId) (clk : Bool) (w : Word) (pri : BitVec 3) (str : Byte) (s : State), (n.val < 32 ∨ 64 ≤ n.val) →
    let q := s.dq.get n.val
    q.skip = false → q.loseRest = false →
    (q.credit ≠ 0 → q.opn = none → Does (.dqWordWrite n clk w pri str true) s fun t => t = putQueue n.val
      { q with opn := none, fill := q.fill ++ [⟨.data, pri, str, 0, [w], 0, q.nextNo⟩], fresh := q.fresh + 1, nextNo := q.nextNo + 1 } s.toChip) ∧
    (∀ p, q.credit ≠ 0 → q.opn = some p → Does (.dqWordWrite n clk w pri str true) s fun t => t = putQueue n.val
      { q with opn := none, fill := q.fill ++ [⟨.data, p.pri, p.stream, 0, p.words ++ [w], 0, q.nextNo⟩], fresh := q.fresh + 1, nextNo := q.nextNo + 1 } s.toChip) ∧
    (q.credit = 0 → Does (.dqWordWrite n false w pri str true) s fun t => t = s.toChip) ∧
    (q.credit = 0 → q.opn = none → q.lost = 0 → Does (.dqWordWrite n true w pri str true) s fun t =>
      t = putQueue n.val
      { q with lost := 1, lostPri := pri, lostStream := str } s.toChip)) ∧
  (∀ (n : QId) (s : State), let q := s.dq.get n.val
    q.drain = [] → q.under = none → q.fill ≠ [] → q.opn = none → q.flushing = false → q.lost = 0 → q.wait = [] →
    Does (.dqBankSwap n) s fun t => t.dq.get n.val = { q with drain := q.fill, fill := [] } ∧
      (∀ k, k ≠ n.val → t.dq.get k = s.dq.get k) ∧ OnlyChanges [.dq] s.toChip t) ∧
  (∀ (n : QId) (p : OpenPkt) (s : State), let q := s.dq.get n.val
    q.opn = some p → p.first = false → q.depth ≤ q.used → q.drain = [] → q.under = none → q.flushing = false → q.wait = [] →
    Does (.dqCarryOver n) s fun t =>
      t.dq.get n.val = { q with drain := q.fill, fill := [], opn := some { p with first := true } } ∧
      (∀ k, k ≠ n.val → t.dq.get k = s.dq.get k) ∧ OnlyChanges [.dq] s.toChip t) ∧
  (∀ (n : QId) (p : Pkt) (s : State), 32 ≤ n.val → let q := s.dq.get n.val
    q.flushing = false → selectPkt q.drain = some p →
    (p.kind = .mark ∨ (p.kind = .data ∧ n.val ≠ 87) → Does (.dqPacketRead n) s fun t => t = putQueue n.val
      { q with drain := q.drain.erase p, hand := q.hand ++ [p] } s.toChip) ∧
    (p.kind = .data → n.val = 87 → Does (.dqPacketRead n) s fun t =>
      t.dq = s.dq.set 87 { q with drain := q.drain.erase p } ∧ OnlyChanges [.dq, .fe] s.toChip t ∧
      ∃ d : RxDesc, t.fe.held = s.fe.held ++ [d] ∧ d.words = p.words.take 8) ∧
    (p.kind = .abort → n.val ≠ 32 → complQueue n.val = none → Does (.dqPacketRead n) s fun t => t = putQueue n.val
      { q with drain := q.drain.erase p, aborts := q.aborts ++ [(firstWord p.words, causeStatus p.cause)] } s.toChip))

/-- A software read of SYS_DQ_DATAn returns the head word of a consumer queue and removes it; on a producer queue it
returns 0x0000_03FF and removes nothing. A software write appends one word with the sideband of SYS_DQ_SIDEn to a
producer queue, and is ignored on a consumer queue. Disabling an enabled queue, or flushing one, turns its packets
into ABORT items (cause disable or flush), that of the packet under read next in line and that of the open packet
last, and starts the flush; enabling counts the unread items in one MARK item (on queue 32 the completions that its
items held back then leave, on queue 3); the end of a flush returns the credit. Nothing else changes. (01 R30, 01
R32, 01 R33, 01 R34, 01 R36, 01 R37, 01 R38, 01 Tables 1.7 to 1.10) -/
def Obligations.DraughtSoftwareSide : Prop :=
  (∀ (n : Fin 64) (who : Requester) (s : State), reaches who n.val s.toChip = true →
    let q := s.dq.get n.val
    (n.val < 32 → Does (.sysDqDataRead n who) s fun t => t.ubfen.loads.get (reqIdx who) = q.head.data ∧
      t.dq = s.dq.set n.val q.pop ∧ OnlyChanges [.dq, .ubfen] s.toChip t) ∧
    (32 ≤ n.val → Does (.sysDqDataRead n who) s fun t => t.ubfen.loads.get (reqIdx who) = 0x000003FF ∧
      OnlyChanges [.ubfen] s.toChip t) ∧
    (∀ w, n.val < 32 → Does (.sysDqDataWrite n who w) s fun t => t = s.toChip) ∧
    (∀ w, 32 ≤ n.val → q.skip = false → q.loseRest = false → q.credit ≠ 0 → q.opn = none → q.sideEnd = true →
      Does (.sysDqDataWrite n who w) s fun t => t = putQueue n.val
      { q with opn := none, fill := q.fill ++ [⟨.data, q.sidePri, q.sideStream, 0, [w], 0, q.nextNo⟩], fresh := q.fresh + 1, nextNo := q.nextNo + 1 } s.toChip) ∧
    (q.en = true → q.flushing = false → Does (.dqDisable n who) s fun t => t = putQueue n.val
      { q with en := false, flushing := true, opn := none, skip := q.skip || q.opn.isSome
               under := q.under.map (fun u => ⟨u.pkt.aborted 0b01, (u.pkt.aborted 0b01).words⟩)
               drain := q.drain.map (Pkt.aborted 0b01)
               fill := q.fill.map (Pkt.aborted 0b01) ++
                 (match q.opn with | some p => [⟨.abort, p.pri, p.stream, 0b01, [firstWord p.words], p.words.getD 3 0, q.nextNo⟩] | none => [])
               nextNo := q.nextNo + b2n q.opn.isSome } s.toChip) ∧
    (q.flushing = false → Does (.dqFlush n who) s fun t => t = putQueue n.val
      { q with flushing := true, opn := none, skip := q.skip || q.opn.isSome
               under := q.under.map (fun u => ⟨u.pkt.aborted 0b00, (u.pkt.aborted 0b00).words⟩)
               drain := q.drain.map (Pkt.aborted 0b00)
               fill := q.fill.map (Pkt.aborted 0b00) ++
                 (match q.opn with | some p => [⟨.abort, p.pri, p.stream, 0b00, [firstWord p.words], p.words.getD 3 0, q.nextNo⟩] | none => [])
               nextNo := q.nextNo + b2n q.opn.isSome } s.toChip) ∧
    (q.en = false → q.lost = 0 → q.wait = [] → Does (.dqEnable n who) s fun t =>
      let k := q.drain.length + q.fill.length + b2n q.under.isSome
      t.dq.get n.val = { q with en := true, under := none, opn := none, fill := []
                                drain := if k = 0 then [] else [⟨.mark, 0, 0, 0, [w32 k], 0, q.nextNo⟩], nextNo := q.nextNo + 1 } ∧
      (∀ j, j ≠ n.val → ¬ (n.val = 32 ∧ j = 3) → t.dq.get j = s.dq.get j) ∧
      OnlyChanges (if n.val = 32 then [.dq, .fe] else [.dq]) s.toChip t)) ∧
  (∀ (n : QId) (s : State), let q := s.dq.get n.val
    q.flushing = true → q.lost = 0 → q.wait = [] → Does (.dqFlushDone n) s fun t =>
      t.dq.get n.val = { q with flushing := false } ∧ (∀ j, j ≠ n.val → t.dq.get j = s.dq.get j) ∧
      OnlyChanges [.dq] s.toChip t)

/-- On a producer queue, writing SYS_DQ_SIDEn leaves an open packet and its PRI and STREAM as they are; a word that
software then appends, while the packet is open, keeps the PRI and STREAM of the packet's first word, whatever
SYS_DQ_SIDEn holds by then; and a word that opens a packet gives it the PRI and STREAM that SYS_DQ_SIDEn holds.
(R40) -/
def Obligations.SideChangesApplyFromNextPacket : Prop :=
  ∀ (n : Fin 64) (who : Requester) (w : Word) (s : State), 32 ≤ n.val → reaches who n.val s.toChip = true →
    let q := s.dq.get n.val
    (∀ v : Nat, ((writeDqSide n.val v s.toChip).dq.get n.val).opn = q.opn) ∧
    (q.credit ≠ 0 → q.skip = false → q.loseRest = false →
      (∀ p, q.opn = some p → Does (.sysDqDataWrite n who w) s fun t =>
        let q' := t.dq.get n.val
        (∀ p', q'.opn = some p' → p'.pri = p.pri ∧ p'.stream = p.stream) ∧
        (q'.opn = none → q'.fill = q.fill ++ [⟨.data, p.pri, p.stream, 0, p.words ++ [w], 0, q.nextNo⟩])) ∧
      (q.opn = none → Does (.sysDqDataWrite n who w) s fun t =>
        let q' := t.dq.get n.val
        (∀ p', q'.opn = some p' → p'.pri = q.sidePri ∧ p'.stream = q.sideStream) ∧
        (q'.opn = none → q'.fill = q.fill ++ [⟨.data, q.sidePri, q.sideStream, 0, [w], 0, q.nextNo⟩])))

/-- A packet that passes every check of Table 2.8 (transport enabled, length, version, CRC, kind command, class,
SEQUENCE neither repeated nor out of order, TAG free, credit left, no reset under way) is admitted: exactly one
command joins those in hand, with the transport, class, TAG, SEQUENCE, opcode, FLAGS and parameters of the packet's
fields, not started; its stream next expects SEQUENCE + 1; nothing but the protocol's part changes. So for
SPI_WRITE_PACKET of up to 16,384 bytes while PD1 is on and READY is 1; for MGMT_FRAME_COMMAND with an Ethernet frame
of EtherType 0x88B5 for the port, on its management VLAN, from a permitted host, with the identifier of Table 2.6
(padding behind the packet is dropped); and for MAILBOX_COMMAND, which takes the next packet of core n's mailbox,
transport 3 + n. (02 R47, 02 R53, 02 R55, 02 R57, 02 R60, 02 R62, 02 Table 2.1, 02 Table 2.5, 02 Table 2.6) -/
def Obligations.TransportsAdmitCommands : Prop :=
  (∀ (pkt : Bytes) (s : State), pdOn s.toChip 1 = true → s.ubfen.ready = true → pkt.length ≤ 16384 →
    Admissible 0 pkt s.toChip →
    Does (.spiWritePacket pkt) s fun t => Admitted 0 [] pkt s.toChip t ∧ OnlyChanges [.ubfen] s.toChip t) ∧
  (∀ (p : Fin 2) (dst src tag pkt pad : Bytes) (s : State),
    pdOn s.toChip 9 = true → pdOn s.toChip 1 = true → s.ubfen.ready = true →
    let frame := dst ++ src ++ tag ++ [0x88, 0xB5, 0x55, 0x42, 0x01, 0x00] ++ pkt ++ pad
    dst.length = 6 → src.length = 6 → (tag = [] ∨ ∃ a b, tag = [0x81, 0x00, a, b]) →
    dst = portMac p.val s.toChip → permittedHost p.val src s.toChip = true →
    onMgmtVlan p.val frame s.toChip = true → Admissible (1 + p.val) pkt s.toChip →
    Does (.mgmtFrameCommand p frame) s fun t =>
      Admitted (1 + p.val) (src ++ tag) pkt s.toChip t ∧ OnlyChanges [.ubfen] s.toChip t) ∧
  (∀ (n : Fin 8) (pk : Pkt) (s : State), s.ubfen.ready = true →
    let q := s.dq.get (56 + n.val)
    (∃ rest, q.hand = pk :: rest) → pk.kind = .data → 4 ≤ pk.words.length →
    Admissible (3 + n.val) (bytesOf pk.words) s.toChip →
    Does (.mailboxCommand n) s fun t => Admitted (3 + n.val) [] (bytesOf pk.words) s.toChip t ∧
      t.dq = s.dq.set (56 + n.val) { q with hand := q.hand.tail } ∧ OnlyChanges [.ubfen, .dq] s.toChip t)

/-- While the executive runs, COMMAND_START of the command next in line starts it, now, and changes nothing else when no
check refuses it; when one does, the command completes with that check's status and result, and nothing else
changes. The checks answer ST_BAD_OPCODE for an unknown opcode, ST_DENIED for a group that the transport is not
given, ST_TAMPER_HOLD in Tamper-Hold outside its set. A command that completes has its reply kept as the newest of
the 16 of its stream. REPLY_RELEASE of a stream whose oldest command has completed, with every raise before its
completion written, removes that command and sends its reply over its transport (on SPI it joins the reply queue
last; over an Ethernet port that is up its management frame joins PCP 7 last); the kept copy is the reply sent. (02
R61, 02 R64, 02 R65, 02 R66, 02 R63, 02 Table 2.1, 03 R86) -/
def Obligations.CommandsStartAndRepliesLeave : Prop :=
  (∀ (c : CmdRef) (m : Cmd) (s : State), s.ubfen.ready = true → findCmd c s.toChip = some m → startsNext m s.toChip = true →
    (startRefusal m s.toChip = none → Does (.commandStart c) s fun t =>
      t = updCmd c (fun m => { m with startedAt := some s.now }) s.toChip) ∧
    (∀ st res, startRefusal m s.toChip = some (st, res) →
      Does (.commandStart c) s (JustCompletes c st res s.toChip)) ∧
    (knownOpcode m.opcode = false → startRefusal m s.toChip = some (stBadOpcode, [])) ∧
    (knownOpcode m.opcode = true → bitOf (trGroups s.toChip m.tr) (m.opcode / 256) = false →
      startRefusal m s.toChip = some (stDenied, [])) ∧
    (knownOpcode m.opcode = true → bitOf (trGroups s.toChip m.tr) (m.opcode / 256) = true → s.boot.tamperHold = true →
      holdSet m.opcode = false → startRefusal m s.toChip = some (stTamperHold, []))) ∧
  (∀ (tr : Fin 11) (cls : Fin 16) (m : Cmd) (st : Nat) (res : Bytes) (mark : Nat) (s : State),
    s.ubfen.cmds.find? (fun e => e.tr = tr.val && e.cls = cls.val) = some m → m.done = some (st, res, mark) →
    (∀ r ∈ s.ev.raised, mark ≤ r.no) →
    Does (.replyRelease tr cls) s fun t =>
      let pkt := packet 1 m.opcode m.tag.toNat m.cls m.seq.toNat st (uncompleted m.tr s.toChip) res
      t.ubfen.cmds = s.ubfen.cmds.filter (fun e => e.no ≠ m.no) ∧
      (t.ubfen.streams.get (streamKey m.tr m.cls)).kept =
        (s.ubfen.streams.get (streamKey m.tr m.cls)).kept.map (fun k => if k.1 = m.seq then (k.1, pkt) else k) ∧
      (tr = 0 → t.ubfen.spiOut = s.ubfen.spiOut ++ [(pkt, some m.no, s.now)] ∧ OnlyChanges [.ubfen] s.toChip t) ∧
      (1 ≤ tr.val → tr.val ≤ 2 → pdOn s.toChip 9 = true → (s.eth.get (tr.val - 1)).link = true →
        let f := mgmtFrame (m.back.take 6) (portMac (tr.val - 1) s.toChip) (m.back.drop 6) pkt
        f.length + 4 ≤ cfgGet s.toChip 0x0C01 (0x104 + 0x20 * (tr.val - 1)) →
        (t.eth.get (tr.val - 1)).egress.get 7 = (s.eth.get (tr.val - 1)).egress.get 7 ++ [(f, some (.reply m.no))] ∧
        OnlyChanges [.ubfen, .eth] s.toChip t) ∧
      OnlyChanges [.ubfen, .dq, .eth, .cnt] s.toChip t) ∧
  (∀ (c : CmdRef) (m : Cmd) (st : Nat) (res : Bytes) (s : Chip), findCmd c s = some m → let t := complete c st res s
    (t.ubfen.streams.get (streamKey m.tr m.cls)).kept =
      ((m.seq, packet 1 m.opcode m.tag.toNat m.cls m.seq.toNat st (uncompleted m.tr t) (pad4 res)) ::
        (s.ubfen.streams.get (streamKey m.tr m.cls)).kept).take 16)

/-- A raise that reaches the executive sets its source's PENDING bit; none does while an EV_TIME_WRAP stands before it,
or before EV_TIME_WRAP while another stands before that. With its RING_EN bit at 1 its record is written: a CRITICAL
record takes any free slot; every other record is dropped, and counted in LOST, while no more than 16 slots are free
or while a drop has not been reported. With RING_EN at 0 the ring stays. Once more than 16 slots are free after a
drop and no EV_TIME_WRAP waits, an EV_RING_OVERFLOW record with the LOST count is written, and LOST is cleared.
EVENT0n and EVENT1n are asserted exactly while the AND of PENDING with the pin's enable register is not zero.
EVENT_PUSH_SEND, when a push is due, marks the pushed records as sent, advances the push SEQUENCE and sends a
packet. (02 R71, 02 R72, 02 R73, 09 R270, 02 Table 2.12) -/
def Obligations.EventRingRules : Prop :=
  (∀ (src : Fin 128) (r : Raise) (rest : List Raise) (s : State), s.ubfen.ready = true →
    takeRaise src.val s.ev.raised = some (r, rest) →
    (inWrapOrder src.val s.ev.raised = false → Does (.eventRecordWrite src) s fun t => t = s.toChip) ∧
    ((∀ x ∈ s.ev.raised, x.src ≠ 16) → inWrapOrder src.val s.ev.raised = true) ∧
    (inWrapOrder src.val s.ev.raised = true →
    let lvl := evLevel r.src
    let rec' : EvRec := ⟨r.src, lvl, r.unlocked, false, s.ev.seq, r.stamp, r.payload, true, s.now⟩
    Does (.eventRecordWrite src) s fun t =>
      t.ev.pend = s.ev.pend ||| srcBit src.val ∧ t.ev.raised = rest ∧ OnlyChanges [.ev] s.toChip t ∧
      (s.ev.ringEn.getLsbD src.val = false → t.ev.ring = s.ev.ring ∧ t.ev.lost = s.ev.lost) ∧
      (s.ev.ringEn.getLsbD src.val = true →
        (lvl = 3 → evFree s.toChip ≠ 0 → s.ev.ring.length < 1024 → t.ev.ring = s.ev.ring ++ [rec']) ∧
        (lvl ≠ 3 → s.ev.overflow = false → 16 < evFree s.toChip → s.ev.ring.length < 1024 → t.ev.ring = s.ev.ring ++ [rec']) ∧
        (lvl ≠ 3 → (s.ev.overflow = true ∨ evFree s.toChip ≤ 16) →
          t.ev.ring = s.ev.ring ∧ t.ev.overflow = true ∧ t.ev.lost = min 0xFFFF (s.ev.lost + 1))))) ∧
  (∀ s : State, s.ev.overflow = true → 16 < evFree s.toChip → s.ev.ring.length < 1024 → (∀ r ∈ s.ev.raised, r.src ≠ 16) →
    Does .ringOverflowRecord s fun t => t.ev.lost = 0 ∧ t.ev.overflow = false ∧ OnlyChanges [.ev] s.toChip t ∧
      ∃ r : EvRec, t.ev.ring = s.ev.ring ++ [r] ∧ r.src = 2 ∧ r.payload = s.ev.lost ∧ r.unread = true) ∧
  (∀ (k : Nat) (s : Chip), eventPin k s = true ↔ s.ev.pend &&& (if k = 0 then s.ev.pin0En else s.ev.pin1En) ≠ 0) ∧
  (∀ s : State, pushDue s.toChip = true → Does .eventPushSend s fun t =>
    t.ev.pushSeq = (s.ev.pushSeq + 1) % 2 ^ 32 ∧ t.ev.ring = markPushed s.ev.pushLevel s.ev.pushCount s.ev.ring ∧
    t.ev.pend = s.ev.pend ∧ OnlyChanges [.ev, .ubfen, .dq, .eth, .cnt] s.toChip t ∧
    (s.ev.pushTr = 0 → t.ubfen.spiOut = s.ubfen.spiOut ++
      [(pushPacket ((s.ev.ring.filter (unsent s.toChip)).take s.ev.pushCount) s.toChip, none, s.now)]))

/-- When the named command runs with legal parameters and no register of the range is in a domain that is off: REG_READ
of a range without a register whose read acts (SYS_DQ_DATAn, APC_MTIMECMPn) completes with ST_OK and the words that
the registers hold, in ascending address, and changes nothing. REG_POLL completes with the value when the first read
matches, and otherwise waits. REG_POLL_SAMPLE, once 10 µs have passed since the last read, completes with ST_OK on a
match, with ST_TIMEOUT and the value when the timeout is over, and otherwise waits on. REG_WRITE of one unmasked
entry to SYS_SCRATCHn stores the value, and completes with ST_OK, APPLIED 1 and REFUSED 0. REGISTER_WRITE by the
executive does the same without a command; to an event enable register it replaces that word of the map; to PENDING
it clears the bits given; a core changes none of these. (02 R77, 02 R78, 18 R501, 18 R503, 18 R504, 18 R506, 02
Table 2.14, 18 Table 18.4) -/
def Obligations.RegisterCommandsComplete : Prop :=
  (∀ (c : CmdRef) (m : Cmd) (a n : Nat) (s : State), runnable c 0x0003 s.toChip = some m →
    rd m.params 0 4 = a → rd m.params 4 2 = n → ZeroBytes m.params 6 2 → a % 4 = 0 → a < 0x120000 →
    1 ≤ n → n ≤ 256 → a % 0x10000 + 4 * n ≤ 0x10000 →
    (∀ i, i < n → regOff s.toChip (a + 4 * i) = false ∧ dqAt 0x0C (a + 4 * i) = none ∧ mtimeAt (a + 4 * i) = none) →
    Does (.regRead c) s (JustCompletes c stOk ((List.range n).flatMap fun i => wr 4 (regView s.toChip (a + 4 * i))) s.toChip)) ∧
  (∀ (c : CmdRef) (m : Cmd) (a : Nat) (s : State), runnable c 0x0005 s.toChip = some m →
    rd m.params 0 4 = a → a % 4 = 0 → a < 0x120000 → dqAt 0x0C a = none → mtimeAt a = none →
    1 ≤ rd m.params 12 4 → rd m.params 12 4 ≤ 10000000 → regOff s.toChip a = false →
    (m.work = 0 → regView s.toChip a &&& rd m.params 4 4 = rd m.params 8 4 →
      Does (.regPoll c) s (JustCompletes c stOk (wr 4 (regView s.toChip a)) s.toChip)) ∧
    (m.work = 0 → regView s.toChip a &&& rd m.params 4 4 ≠ rd m.params 8 4 →
      Does (.regPoll c) s fun t =>
        t = updCmd c (fun m => { m with work := regView s.toChip a % 2 ^ 32 + 2 ^ 32 * (s.now + 1) }) s.toChip) ∧
    (∀ last, m.work = last % 2 ^ 32 + 2 ^ 32 * (s.now + 1 - 10000) → 10000 ≤ s.now →
      (regView s.toChip a &&& rd m.params 4 4 = rd m.params 8 4 →
        Does (.regPollSample c) s (JustCompletes c stOk (wr 4 (regView s.toChip a)) s.toChip)) ∧
      (regView s.toChip a &&& rd m.params 4 4 ≠ rd m.params 8 4 →
        (∀ t0, m.startedAt = some t0 → t0 + rd m.params 12 4 * nsUs ≤ s.now →
          Does (.regPollSample c) s (JustCompletes c stTimeout (wr 4 (regView s.toChip a)) s.toChip)) ∧
        (∀ t0, m.startedAt = some t0 → s.now < t0 + rd m.params 12 4 * nsUs →
          Does (.regPollSample c) s fun t =>
            t = updCmd c (fun m => { m with work := regView s.toChip a % 2 ^ 32 + 2 ^ 32 * (s.now + 1) }) s.toChip)))) ∧
  (∀ (c : CmdRef) (m : Cmd) (n : Fin 4) (v : Nat) (s : State), runnable c 0x0004 s.toChip = some m →
    rd m.params 0 4 = 1 → m.params.length = 16 → rd m.params 4 4 = 0x30 + 4 * n.val → rd m.params 8 4 = 0xFFFFFFFF →
    rd m.params 12 4 = v → pdOn s.toChip 1 = true →
    Does (.regWrite c) s fun t => Completed c stOk (wr 4 1 ++ wr 4 0 ++ wr 2 0 ++ zeros 2) t ∧
      t.sys = { s.sys with scratch := s.sys.scratch.set n.val (w32 v) } ∧ OnlyChanges [.sys, .ubfen] s.toChip t) ∧
  (∀ (n : Fin 4) (v : Word) (s : State), pdOn s.toChip 1 = true →
    Does (.registerWrite .executive (BitVec.ofNat 24 (0x30 + 4 * n.val)) v) s (fun t =>
      t = { s.toChip with sys := { s.sys with scratch := s.sys.scratch.set n.val v } }) ∧
    Does (.registerWrite .executive (BitVec.ofNat 24 (0x200 + 4 * n.val)) v) s (fun t =>
      t = { s.toChip with ev := { s.ev with ringEn := putWord s.ev.ringEn n.val v.toNat } }) ∧
    Does (.registerWrite .executive (BitVec.ofNat 24 (0x230 + 4 * n.val)) v) s (fun t =>
      t = { s.toChip with ev := { s.ev with pend := s.ev.pend &&& ~~~ (putWord 0 n.val v.toNat) } }) ∧
    ∀ k : Fin 8, Does (.registerWrite (.core k) (BitVec.ofNat 24 (0x200 + 4 * n.val)) v) s fun t => t = s.toChip)

/-- With the configuration committed, a write by the executive to the RWL register APC_PERF_UEN that would change its
value leaves the value, counts one refusal in SYS_LOCK_VIOL (saturating at 255) with the register's address, and
raises EV_LOCK_VIOL with that address unless one was raised less than 1 s ago; a write of the value that the
register already holds is not counted. Before the commit the write takes effect. Nothing else changes. (00 R9, 18
R509, 18 Table 18.4, 02 Table 2.14, 03 R104) -/
def Obligations.CommittedFieldsRefuseWrites : Prop :=
  ∀ (v : Word) (s : State), regOff s.toChip 0x0F0004 = false →
    (s.boot.committed = false → Does (.registerWrite .executive 0x0F0004 v) s fun t =>
      t = cfgSet 0x0F01 6 (v.toNat % 2 ^ 11) s.toChip) ∧
    (s.boot.committed = true → v.toNat % 2 ^ 11 = apcCfg s.toChip 6 → Does (.registerWrite .executive 0x0F0004 v) s fun t => t = s.toChip) ∧
    (s.boot.committed = true → v.toNat % 2 ^ 11 ≠ apcCfg s.toChip 6 → Does (.registerWrite .executive 0x0F0004 v) s fun t =>
      t.sys.lockCount = min 255 (s.sys.lockCount + 1) ∧ t.sys.lockAddr = 0x0F0004 ∧ t.cfg = s.cfg ∧
      OnlyChanges [.sys, .ev] s.toChip t ∧
      (s.sys.lockAt = none → Raised 4 0x0F0004 t) ∧
      (∀ k, s.sys.lockAt = some k → k + nsSec ≤ s.now → Raised 4 0x0F0004 t) ∧
      (∀ k, s.sys.lockAt = some k → s.now < k + nsSec → t.ev = s.ev))

/-- RESET_BEGIN, once the delay of SYS_RESET has passed and its reply has left, restarts with cause 0x03 (warm) or 0x04
(cold); EXEC_LOCKSTEP_MISMATCH, EXEC_WATCHDOG_EXPIRY and BROWN_OUT, while PD1 is on, with 0x05, 0x06 and 0x0A, or
with the lowest of that and the causes due in the same instant; THERMAL_RESTART, after a thermal shutdown and a
second below 100 °C, with 0x0B; RESETN_ASSERT of 10 µs or more, or of 1 µs or more that the part takes, with 0x02,
and then the start waits until RESETN_RELEASE begins it; a shorter low changes nothing. Each leaves only PD0 on, no
command, event record, queue item or running configuration value, and keeps RTC, tamper log, stored records and
serial number. THERMAL_SHUTDOWN at 125 °C or more clears the device and waits with FAULTn asserted. VAON_LOSS takes
PD0's contents as well, and POWER_ON_RESET then starts with cause 0x01 and the clock at zero. (03 R83, 03 R84, 03
Table 3.1, 02 R80, 16 R473, 16 R474, 16 Table 16.10) -/
def Obligations.ResetsRestartTheDevice : Prop :=
  (∀ (w : ResetWait) (s : State), s.ubfen.resetWait = some w → w.due ≤ s.now → replyLeft w.no s.toChip = true →
    (w.kind = 1 → Does .resetBegin s (Restarts 0x03 .wake s.toChip)) ∧
    (w.kind = 2 → Does .resetBegin s fun t => Restarts 0x04 .wake s.toChip t ∧ t.pd0.prevState = 0 ∧ t.pd0.latch = 0)) ∧
  (∀ (pc : Word) (b : Bool) (s : State), pdOn s.toChip 1 = true →
    Does (.execLockstepMismatch pc) s (Restarts (lowestCause 0x05 s.toChip) .wake s.toChip) ∧
    Does .execWatchdogExpiry s (Restarts (lowestCause 0x06 s.toChip) .wake s.toChip) ∧
    Does (.brownOut b) s (Restarts (lowestCause 0x0A s.toChip) .wake s.toChip) ∧
    ∀ k, lowestCause k s.toChip ≤ k ∧ (dueCauses s.toChip = [] → lowestCause k s.toChip = k) ∧
      (∀ d ∈ dueCauses s.toChip, lowestCause k s.toChip ≤ d)) ∧
  (∀ (ns : Nat) (taken : Bool) (s : State), s.boot.wait ≠ .vaon →
    ((10000 ≤ ns ∨ (1000 ≤ ns ∧ taken = true)) → ¬ (s.boot.cause = 1 ∧ s.boot.start = s.now ∧ s.boot.stage = 0) →
      Does (.resetnAssert ns taken) s (Restarts 0x02 .resetn s.toChip)) ∧
    ((10000 ≤ ns ∨ (1000 ≤ ns ∧ taken = true)) → s.boot.cause = 1 → s.boot.start = s.now → s.boot.stage = 0 →
      Does (.resetnAssert ns taken) s (Restarts 0x01 .resetn s.toChip)) ∧
    (ns < 1000 → Does (.resetnAssert ns taken) s fun t => t = s.toChip)) ∧
  (∀ s : State, s.boot.wait = .resetn → Does .resetnRelease s fun t =>
    t.boot = { s.boot with wait := .wake, step := 1, start := s.now, stepStart := s.now } ∧
    t.pwr = { s.pwr with stage := 1, stageAt := s.now, wakeOut := true } ∧ OnlyChanges [.boot, .pwr] s.toChip t) ∧
  (∀ (k : Nat) (reading : Int) (s : State), s.boot.wait = .thermal → reading < 1000 → s.pwr.coolSince = some k →
    k + nsSec ≤ s.now → Does (.thermalRestart reading) s (Restarts 0x0B .wake s.toChip)) ∧
  (∀ (reading : Int) (s : State), 1250 ≤ reading → s.pwr.wakeOut = true → Does (.thermalShutdown reading) s fun t =>
    t.boot.wait = .thermal ∧ t.pwr.domOn = 1 ∧ t.pwr.faultn = true ∧ t.pwr.wakeOut = false ∧ t.pd0 = s.pd0 ∧
    t.ubfen = Ubfen.reset) ∧
  (∀ s : State, Does .vaonLoss s fun t => t.boot.wait = .vaon ∧ t.pwr.domOn = 1 ∧ t.pd0 = Pd0.reset ∧ t.dram = [] ∧
    t.ubfen = Ubfen.reset ∧ t.cfg.stored = s.cfg.stored) ∧
  (∀ s : State, s.boot.wait = .vaon → lcNow s.toChip ≠ 2 → Does .powerOnReset s fun t =>
    t.now = 0 ∧ t.boot = Boot.reset 0x01 0 ∧ t.pd0 = Pd0.reset ∧ t.pwr.stage = 1 ∧
    OnlyChanges [.now, .boot, .pd0, .pwr] s.toChip t)

/-- WAKE_STAGE_READY of stage 1 to 3 begins the next stage, stage 2 taking the lock of output 3 and the presence of
REFCLK with it (without REFCLK: HOLDOVER and EV_REFCLK_LOST); of stage 4 it turns PD1 and PD11 on and begins boot
step 1 proper. WAKE_STAGE_TIMEOUT, when the stage's limit has passed, turns WAKE_OUT off and backs off for 1, 2 or 4
ms after the first to third attempt; after the fourth the device is in Calm-Fault, with FAULTn asserted;
WAKE_BACKOFF_END begins the next attempt. BOOT_STEP_END of step 1, once every SCS output is locked, turns every
domain on and begins step 2; of steps 2 and 5 to 8, once the step's condition holds, sets STAGE and begins the next
step; step 2 also sets READY and counts the MRAM words its reads found bad; of step 9 it opens service;
SOLO_TIMEOUT_EXPIRY of step 5 sets SOLO and makes the unit solo. TAMPER_CLEAR with the log's count, signed by the
operator key, clears the latch, and with bit 0 the log; with a signature that does not verify it completes with
ST_SIG_INVALID. (03 R85, 03 Table 3.3, 03 R89, 16 R462, 16 R463, 16 R465, 13 R393, 03 R92) -/
def Obligations.BootProceedsInStages : Prop :=
  (∀ (r : Bool) (s : State), s.boot.wait = .wake →
    (∀ k, s.pwr.stage = k → 1 ≤ k → k ≤ 3 → Does (.wakeStageReady r) s fun t =>
      t.pwr = { s.pwr with stage := k + 1, stageAt := s.now } ∧
      t.scs = (if k = 2 then { s.scs with lock := setFld s.scs.lock 3 1 1, refOk := r, holdover := !r } else s.scs) ∧
      (k = 2 ∧ r = false → Raised 22 0 t) ∧ (k ≠ 2 ∨ r = true → t.ev = s.ev) ∧ OnlyChanges [.pwr, .scs, .ev] s.toChip t) ∧
    (s.pwr.stage = 4 → Does (.wakeStageReady r) s fun t =>
      t.pwr = { s.pwr with stage := 0, faultn := false, domOn := s.pwr.domOn ||| 0x802 } ∧ t.boot = { s.boot with wait := .none } ∧
      t.time.td0.epoch = (s.pd0.epoch0 + 1) % 2 ^ 32 ∧ t.time.td0.st = 0 ∧ t.time.td0.inc = incNominal ∧
      t.time.td1.epoch = (s.pd0.epoch1 + 1) % 2 ^ 32 ∧ OnlyChanges [.pwr, .boot, .pd0, .time, .ev] s.toChip t)) ∧
  (∀ s : State, s.boot.wait = .wake → 1 ≤ s.pwr.stage → s.pwr.stageAt + stageLimit s.pwr.stage ≤ s.now →
    (s.pd0.attempts < 4 → Does .wakeStageTimeout s fun t =>
      t.pwr.stage = 0 ∧ t.pwr.wakeOut = false ∧ t.pwr.backoff = some (s.now + 2 ^ (s.pd0.attempts - 1) * nsMs) ∧
      t.pd0 = { s.pd0 with wakeStage := s.pwr.stage } ∧ t.scs = Scs.reset ∧ OnlyChanges [.pwr, .pd0, .scs] s.toChip t) ∧
    (4 ≤ s.pd0.attempts → Does .wakeStageTimeout s fun t =>
      t.boot.wait = .calm ∧ t.pwr.faultn = true ∧ t.pd0.calmFault = true ∧ t.pd0.failStage = s.pwr.stage)) ∧
  (∀ (k : Nat) (s : State), s.boot.wait = .wake → s.pwr.backoff = some k → k ≤ s.now → Does .wakeBackoffEnd s fun t =>
    t.pd0 = { s.pd0 with attempts := s.pd0.attempts + 1 } ∧
    t.pwr = { s.pwr with stage := 1, stageAt := s.now, wakeOut := true, backoff := none } ∧
    OnlyChanges [.pd0, .pwr] s.toChip t) ∧
  (∀ (env : BootEnv) (s : State), s.boot.wait = .none →
    (s.boot.step = 1 → s.scs.lock % 16 = 15 → s.pd0.tampLatch = false → Does (.bootStepEnd env) s fun t =>
      t.boot = { s.boot with stage := 1, step := 2, stepStart := s.now } ∧ t.pwr = { s.pwr with domOn := 0xFFF } ∧
      Raised 1 (pack [(0, 8, 1), (32, 32, (s.now - s.boot.start) / nsUs)]) t ∧ OnlyChanges [.boot, .pwr, .ev, .sys] s.toChip t) ∧
    (s.boot.step = 1 → s.scs.lock % 16 ≠ 15 → Does (.bootStepEnd env) s fun t => t = s.toChip) ∧
    (s.boot.step = 2 → s.pd0.tampLatch = false → Does (.bootStepEnd env) s fun t =>
      t.ubfen.ready = true ∧ t.boot.stage = 2 ∧ t.boot.step = 3 ∧ t.boot.stepStart = s.now ∧
      t.sys.mramCorr = satAdd 65535 s.sys.mramCorr env.mramCorr.toNat ∧ t.sys.mramUncorr = satAdd 65535 s.sys.mramUncorr env.mramBad.length) ∧
    (s.boot.step = 5 → s.pair.settled = true → Does (.bootStepEnd env) s fun t =>
      5 ≤ t.boot.stage ∧ 6 ≤ t.boot.step ∧ t.boot.stepStart = s.now ∧ OnlyChanges [.boot, .ev] s.toChip t) ∧
    (s.boot.step = 7 → (stampTd s.toChip).st = 1 → Does (.bootStepEnd env) s fun t => t.boot.stage = 7 ∧ t.boot.step = 8) ∧
    (s.boot.step = 8 → (∀ b, b < 2 → (band s.toChip b).cal = none) → Does (.bootStepEnd env) s fun t =>
      t.boot = { s.boot with stage := 8, step := 9, stepStart := s.now } ∧
      Raised 1 (pack [(0, 8, 8), (32, 32, (s.now - s.boot.start) / nsUs)]) t ∧ OnlyChanges [.boot, .ev] s.toChip t) ∧
    (s.boot.step = 9 → Does (.bootStepEnd env) s fun t => t.boot.service = true ∧ t.boot.stage = 9 ∧ t.boot.step = 0 ∧
      Raised 1 (pack [(0, 8, 9), (32, 32, (s.now - s.boot.start) / nsUs)]) t) ∧
    (s.boot.step = 6 → (∃ p, p < 2 ∧ ethCfg s.toChip p 2 = 1 ∧ (s.eth.get p).link = true) → Does (.bootStepEnd env) s fun t =>
      t.boot = { s.boot with stage := 6, step := 7, stepStart := s.now } ∧
      Raised 1 (pack [(0, 8, 6), (32, 32, (s.now - s.boot.start) / nsUs)]) t ∧ OnlyChanges [.boot, .ev] s.toChip t)) ∧
  (∀ s : State, s.boot.wait = .none → s.boot.step = 5 → s.pair.settled = false →
    s.boot.serdesAt + bootCfg s.toChip 3 * nsMs ≤ s.now → Does .soloTimeoutExpiry s fun t =>
      t.boot.solo = true ∧ 5 ≤ t.boot.stage ∧ 6 ≤ t.boot.step ∧ t.pair.st = (if s.pair.st = 5 then 5 else 4) ∧
      Raised 97 1 t ∧ (s.pair.peerKnown = false → t.pair.owner = true) ∧ OnlyChanges [.boot, .pair, .cnt, .ev] s.toChip t) ∧
  (∀ (c : CmdRef) (m : Cmd) (p sig k : Bytes) (ctr : Nat) (s : State), runnable c 0x0B11 s.toChip = some m →
    underWay c s.toChip = false → lcNow s.toChip ≤ 3 →
    let said := p ++ (serialBytes s.toChip ++ wr 4 ctr ++ zeros 4)
    m.params = said ++ sig → p.length = 8 → sig.length = 132 → opKey s.toChip = some k → ctr < 2 ^ 32 →
    later 32 ctr (signedCtr s.toChip) = true →
    (rd p 0 1 = 0 ∨ rd p 0 1 = 1) → ZeroBytes p 1 3 → rd p 4 4 = s.pd0.tampCount →
    s.boot.tamperHold = false → (tampSet s.toChip).enA = false → (tampSet s.toChip).enB = false →
    Does (.tamperClear c) s fun t =>
      if Config.p521Verify k (fitB 64 (Config.sha512 (wr 2 0x0B11 ++ said))) sig = true then
        t.pd0.tampLatch = false ∧ (rd p 0 1 = 1 → t.pd0.tampLog = [] ∧ t.pd0.tampCount = 0) ∧
        (rd p 0 1 = 0 → t.pd0.tampLog = s.pd0.tampLog) ∧ signedCtr t = ctr ∧ Completed c stOk (wr 4 t.pd0.tampCount) t ∧
        Raised 103 0 t ∧ OnlyChanges [.pd0, .ev, .ubfen, .sec] s.toChip t
      else Completed c stSigInvalid [3] t ∧ Raised 110 0x0B11 t ∧ OnlyChanges [.ev, .ubfen] s.toChip t)

/-- For every field of the start-up record and of the update record and every 32-bit value: a CFG_WRITE whose record
holds that one entry, with the header, HCRC and CHECK of Tables 3.6 and 3.7 and neither STORE nor REPLACE, sets the
running value of the field to the value brought into its range, and leaves every other running value as it is. It
completes with ST_OK and an empty report when the value was legal, and with ST_CLAMPED and a report of one entry
(type, ID, requested, applied, reason) when it was not; EV_CFG_REPORT is raised; stored copies stay; nothing but
configuration, events and the protocol changes. (03 R96, 03 R97, 03 R101, 03 R102, 03 Table 3.6, 03 Table 3.7, 03
Table 3.8) -/
def Obligations.ConfigurationWriteClampsAndReports : Prop :=
  ∀ (c : CmdRef) (m : Cmd) (type gen v : Nat) (f : FDef) (s : State), runnable c 0x0F01 s.toChip = some m →
    (type = 0x0001 ∨ type = 0x0002) → f ∈ fieldsOf type → v < 2 ^ 32 → gen < 2 ^ 32 →
    let head := wr 2 type ++ [1, 1] ++ wr 4 gen ++ zeros 4
    let e := wr 2 f.id ++ [0, 0] ++ wr 4 v
    m.params = head ++ wr 4 (crc32c head) ++ (wr 2 f.id ++ [0, byte (entryCheck gen e)] ++ wr 4 v) →
    let x := (f.legal.fix v).1
    let reason := (f.legal.fix v).2
    let no := (s.cfg.reportNo + 1) % 65536
    let reps : List RepEntry := if reason = 0 then [] else [⟨type, f.id, v, x, reason⟩]
    let status := if reason = 0 then stOk else stClamped
    Does (.cfgWrite c) s fun t =>
      cfgGet t type f.id = x ∧
      (∀ k, k ≠ fkey type f.id → lookupIn t.cfg.run k = lookupIn s.cfg.run k) ∧
      t.cfg.reports = (⟨no, reps.length, status, reps⟩ :: s.cfg.reports).take 8 ∧ t.cfg.reportNo = no ∧
      t.cfg.stored = s.cfg.stored ∧ t.cfg.gens = s.cfg.gens ∧ t.cfg.atBoot = s.cfg.atBoot ∧
      Completed c status (wr 2 no ++ wr 2 reps.length ++ zeros 4 ++ reps.flatMap repBytes) t ∧
      Raised 126 (pack [(0, 16, no), (16, 16, reps.length)]) t ∧ OnlyChanges [.cfg, .ev, .ubfen] s.toChip t

/-- With legal parameters: CFG_COMMIT before the commit sets COMMITTED and reports, and a boot that waits for it goes on
with step 5; after it, it changes no setting. CFG_REPORT_READ returns the report that its number names, 0xFFFF the
newest, and changes nothing; ST_NOT_FOUND without one. CFG_READ returns the running values of a known type as a
record, ST_NOT_FOUND of an unknown type. CFG_ERASE removes the stored copy of the type, or with 0xFFFF every one,
and no GENERATION and no running value. CAL_WRITE of a section other than 0x08, outside SCRAPPED with no band of the
section in use, stores the section with one more GENERATION, its source as given only under a signature that
verifies, and puts it in use (0x06 in the delays too), and raises EV_CAL_STORED. CAL_EXPORT submits one operation of
the identity key to the crypto engine. In each case nothing else changes. (03 R95, 03 R101, 03 R102, 03 R105, 03
R109, 03 R110, 03 Table 3.11, 03 R108) -/
def Obligations.ConfigurationCommandsComplete : Prop :=
  (∀ (c : CmdRef) (m : Cmd) (s : State), runnable c 0x0F02 s.toChip = some m →
    (rd m.params 0 1 = 0 ∨ rd m.params 0 1 = 1) → ZeroBytes m.params 1 3 →
    (s.boot.committed = true → Does (.cfgCommit c) s fun t => t.cfg.run = s.cfg.run ∧ t.cfg.stored = s.cfg.stored ∧
      Completed c stOk (wr 2 ((s.cfg.reportNo + 1) % 65536) ++ zeros 6) t ∧ OnlyChanges [.cfg, .ev, .ubfen] s.toChip t) ∧
    (s.boot.committed = false → s.boot.wait ≠ .commit → rd m.params 0 1 = 0 → Does (.cfgCommit c) s fun t =>
      t.boot = { s.boot with committed := true } ∧ t.cfg.reportNo = (s.cfg.reportNo + 1) % 65536 ∧
      (∃ res, Completed c stOk res t ∨ Completed c stClamped res t) ∧ t.cfg.stored = s.cfg.stored ∧
      OnlyChanges [.boot, .cfg, .dq, .ev, .ubfen] s.toChip t) ∧
    (s.boot.committed = false → s.boot.wait = .commit → rd m.params 0 1 = 0 → Does (.cfgCommit c) s fun t =>
      t.boot.committed = true ∧ t.boot.wait = .none ∧ t.boot.cfgHold = false ∧ 5 ≤ t.boot.step)) ∧
  (∀ (c : CmdRef) (m : Cmd) (s : State), runnable c 0x0F03 s.toChip = some m →
    (∀ r : Report, s.cfg.reports.find? (fun r => decide (rd m.params 0 2 = 0xFFFF ∨ r.no = rd m.params 0 2)) = some r →
      let es := (r.entries.drop (rd m.params 2 2)).take 511
      Does (.cfgReportRead c) s (JustCompletes c stOk (wr 2 r.no ++ wr 2 r.total ++ wr 2 es.length ++
        wr 1 (b2n (decide (1024 < r.total))) ++ zeros 1 ++ wr 4 r.status ++ zeros 4 ++ es.flatMap repBytes) s.toChip)) ∧
    (s.cfg.reports = [] → Does (.cfgReportRead c) s (JustCompletes c stNotFound [] s.toChip))) ∧
  (∀ (c : CmdRef) (m : Cmd) (ty : Nat) (s : State), runnable c 0x0F04 s.toChip = some m → rd m.params 0 2 = ty →
    ZeroBytes m.params 2 2 →
    (knownType ty = true → ∃ res, Does (.cfgRead c) s (JustCompletes c stOk res s.toChip) ∧ Field res 0 2 ty ∧
      Field res 3 1 (fieldsOf ty).length ∧ Field res 4 4 (s.cfg.gens.get ty) ∧ Field res 12 4 (crc32c (res.take 12))) ∧
    (knownType ty = false → Does (.cfgRead c) s (JustCompletes c stNotFound [] s.toChip))) ∧
  (∀ (c : CmdRef) (m : Cmd) (ty : Nat) (s : State), runnable c 0x0F05 s.toChip = some m → rd m.params 0 2 = ty →
    ZeroBytes m.params 2 2 →
    (ty = 0xFFFF → Does (.cfgErase c) s (JustCompletes c stOk []
      { s.toChip with cfg := { s.cfg with stored := Tab.const none } })) ∧
    (ty ≠ 0xFFFF → knownType ty = true → Does (.cfgErase c) s (JustCompletes c stOk []
      { s.toChip with cfg := { s.cfg with stored := s.cfg.stored.set ty none } })) ∧
    (ty ≠ 0xFFFF → knownType ty = false → Does (.cfgErase c) s (JustCompletes c stNotFound [] s.toChip))) ∧
  (∀ (c : CmdRef) (m : Cmd) (k l : Nat) (s : State), runnable c 0x0F11 s.toChip = some m → rd m.params 0 1 = k → k < 8 →
    rd m.params 2 2 = l → l % 4 = 0 → l ≤ 4096 → 16 + l ≤ m.params.length → lcNow s.toChip ≠ 4 →
    (∀ b ∈ sectionBands k, bandUsed s.toChip b = false) →
    Does (.calWrite c) s fun t =>
      calSec t k = ⟨if calSigned s.toChip m.params l = true then rd m.params 1 1 else 1,
        ((calSec s.toChip k).gen + 1) % 2 ^ 32, (m.params.drop 16).take l, true⟩ ∧
      (∀ j, j ≠ k → calSec t j = calSec s.toChip j ∧ calBody t j = calBody s.toChip j) ∧ calBody t k = (m.params.drop 16).take l ∧
      Completed c stOk [] t ∧ Raised 127 k t ∧ (k ≠ 6 → t.tx = s.tx) ∧ OnlyChanges [.cal, .tx, .ev, .ubfen] s.toChip t) ∧
  (∀ (c : CmdRef) (m : Cmd) (key : Key) (s : State), runnable c 0x0F10 s.toChip = some m → underWay c s.toChip = false →
    rd m.params 0 1 ≤ 8 → ZeroBytes m.params 1 3 → keyUse s.toChip 0x08 0 = .inr key → s.sec.drbgOn = true →
    Does (.calExport c) s fun t => t.sec.ops = s.sec.ops ++ [⟨c, true, [key.handle]⟩] ∧ t.sec.keys = s.sec.keys ∧
      OnlyChanges [.sec] s.toChip t)

/-- With legal parameters: IMAGE_STATUS returns Table 14.7's words of the type and changes nothing. IMAGE_BEGIN with no
session and no trial completes with the first check of Table 14.3 that fails, and EV_IMAGE_REJECTED, or opens a
session for the header, with the slot that does not run emptied. IMAGE_CHUNK at the next offset adds its bytes to
the session, and ends the session with reason 7 when a segment that it completes does not open (ST_TAMPERED, with
nothing changed, when the vault is zeroised). IMAGE_FINISH of a whole body whose digest matches fills the slot and
puts it on trial, and answers reason 8 when it does not match. IMAGE_CONFIRM of the type on trial puts the trial
slot in force and raises the anti-rollback counter. IMAGE_ABORT and a session 60 s old end the session.
CONFIRM_WINDOW_EXPIRY restarts with cause 0x09. APPLICATION_IMAGE_LOADED places a body that opens at the start of
LPDDR4X. (14 R408, 14 R409, 14 R410, 14 R411, 14 R412, 14 R413, 14 Table 14.3, 14 Table 14.7, 15 R424) -/
def Obligations.ImageCommandsComplete : Prop :=
  (∀ (c : CmdRef) (m : Cmd) (ty : Nat) (s : State), runnable c 0x0E00 s.toChip = some m → rd m.params 0 1 = ty → ty ≤ 3 →
    ZeroBytes m.params 1 3 → ∃ res, Does (.imageStatus c) s (JustCompletes c stOk res s.toChip) ∧
      Field res 0 4 (imgStat s.toChip ty) ∧ Field res 4 4 (runVersion s.toChip ty) ∧ Field res 8 4 (otherVersion s.toChip ty) ∧
      Field res 12 4 (arbOf s.toChip ty) ∧
      (∀ g, s.img.session = some g → g.typ = ty → Field res 16 4 g.body.length) ∧ (s.img.session = none → Field res 16 4 0)) ∧
  (∀ (c : CmdRef) (m : Cmd) (s : State), runnable c 0x0E01 s.toChip = some m → m.params.length = 384 → lcNow s.toChip ≠ 4 →
    let ty := rd m.params 5 1
    let b := !((s.img.running.get ty).getD (slotState s.toChip ty).inB)
    ((s.img.session ≠ none ∨ inTrial s.toChip = true) → Does (.imageBegin c) s fun t =>
      Completed c stBusy [] t ∧ Raised 123 (pack [(0, 8, ty), (16, 16, stBusy)]) t ∧ OnlyChanges [.ev, .ubfen] s.toChip t) ∧
    (s.img.session = none → inTrial s.toChip = false → Does (.imageBegin c) s fun t =>
      match beginRefusal s.toChip m.params with
      | some (st, res) => Completed c st res t ∧ Raised 123 (pack [(0, 8, ty), (16, 16, st)]) t ∧ OnlyChanges [.ev, .ubfen] s.toChip t
      | none => Completed c stOk (wr 1 (b2n b) ++ zeros 3 ++ wr 4 (hSealed m.params)) t ∧
          t.img.session = some ⟨ty, m.tr, m.params, b, [], s.now⟩ ∧ imgSlot t ty b = ⟨[], [], true, false⟩ ∧
          OnlyChanges [.img, .ubfen] s.toChip t)) ∧
  (∀ (c : CmdRef) (m : Cmd) (g : ImgSession) (data : Bytes) (s : State), runnable c 0x0E02 s.toChip = some m →
    s.img.session = some g → m.params = wr 4 g.body.length ++ wr 2 data.length ++ zeros 2 ++ data →
    g.body.length < 2 ^ 32 → 1 ≤ data.length → data.length ≤ 8184 → g.body.length + data.length ≤ hSealed g.header →
    Does (.imageChunk c) s fun t =>
      let body := g.body ++ data
      if ((List.range (segsDone (hSealed g.header) body.length)).filter
          fun i => segsDone (hSealed g.header) g.body.length ≤ i).all (segOk s.toChip g.header body) = true then
        (s.sec.vault ≠ 2 → t.img = { s.img with session := some { g with body := body, at_ := s.now } } ∧
          Completed c stOk (wr 4 body.length) t ∧ OnlyChanges [.img, .ubfen] s.toChip t)
      else if s.sec.vault = 2 then JustCompletes c stTampered [] s.toChip t
      else t.img = { s.img with session := none } ∧ Completed c stImageRejected [7, 0, 0, 0] t ∧ OnlyChanges [.img, .ubfen] s.toChip t) ∧
  (∀ (c : CmdRef) (m : Cmd) (g : ImgSession) (s : State), runnable c 0x0E03 s.toChip = some m → rd m.params 0 1 = 0 →
    ZeroBytes m.params 1 3 → s.img.session = some g → g.body.length = hSealed g.header →
    Does (.imageFinish c) s fun t =>
      if fitB 64 (Config.sha512 g.body) = (g.header.drop 184).take 64 then
        t.img.session = none ∧ imgSlot t g.typ g.toB = ⟨g.header, g.body, false, false⟩ ∧ (slotState t g.typ).trial = true ∧
          (slotState t g.typ).inB = !g.toB ∧ (slotState t g.typ).tries = cfgGet s.toChip 0x0002 2 ∧ Completed c stOk [] t ∧
          OnlyChanges [.img, .ubfen] s.toChip t
      else t.img = s.img ∧ Completed c stImageRejected [8, 0, 0, 0] t ∧ OnlyChanges [.ubfen] s.toChip t) ∧
  (∀ (c : CmdRef) (m : Cmd) (ty : Nat) (s : State), runnable c 0x0E04 s.toChip = some m → rd m.params 0 1 = ty → ty ≤ 3 →
    ZeroBytes m.params 1 3 →
    (s.img.trialOf ≠ some ty → Does (.imageConfirm c) s (JustCompletes c stNotFound [] s.toChip)) ∧
    (s.img.trialOf = some ty → Does (.imageConfirm c) s fun t =>
      let arb := max (arbOf s.toChip ty) (rd (imgSlot s.toChip ty (!(slotState s.toChip ty).inB)).header 16 4)
      (slotState t ty).inB = !(slotState s.toChip ty).inB ∧ (slotState t ty).trial = false ∧ t.img.trialOf = none ∧
      arbOf t ty = arb ∧ Completed c stOk (wr 4 arb) t ∧ OnlyChanges [.img, .cfg, .ubfen] s.toChip t)) ∧
  (∀ (c : CmdRef) (m : Cmd) (s : State), runnable c 0x0E05 s.toChip = some m → ZeroBytes m.params 0 4 →
    (∀ g, s.img.session = some g → Does (.imageAbort c) s (JustCompletes c stOk (wr 4 g.body.length) (closeSession s.toChip))) ∧
    (s.img.session = none → Does (.imageAbort c) s (JustCompletes c stNotFound [] s.toChip))) ∧
  (∀ (g : ImgSession) (s : State), s.img.session = some g → g.at_ + 60 * nsSec ≤ s.now →
    Does .imageSessionTimeout s fun t => t.img = { s.img with session := none } ∧
      Raised 123 (pack [(0, 8, g.typ), (16, 16, stTimeout)]) t ∧ OnlyChanges [.img, .ev] s.toChip t) ∧
  (∀ s : State, s.img.trialOf ≠ none → s.boot.loaded = true → s.img.confirmDue ≤ s.now →
    Does .confirmWindowExpiry s (Restarts (lowestCause 0x09 s.toChip) .wake s.toChip) ∧
    (s.ubfen.resetWait = none → lowestCause 0x09 s.toChip = 0x09)) ∧
  (∀ (sl : ImgSlot) (s : State), s.img.appLoad = 1 → pdOn s.toChip 10 = true → bitOf s.pd0.latch 10 = false →
    s.sys.dramTrained = true → appImage s.toChip = some sl → Does .applicationImageLoaded s fun t =>
      match openBody s.toChip sl.header sl.body with
      | some text => t.dram = memWriteBytes s.dram 0 text ∧ t.img = { s.img with appLoad := 2 } ∧ t.apc.imageLoaded = true ∧
          t.pwr = { s.pwr with dramLost := false }
      | none => t.dram = s.dram ∧ t.img.appLoad ≠ 2 ∧ t.apc = s.apc)

/-- With legal parameters: PWR_STATUS returns the words of Tables 16.8 to 16.10 and changes nothing. RTC_SET returns the
old seconds and sets the RTC to a whole second. RTC_ALARM_SET sets alarm time and enable. PAD_RELEASE opens the
latches of the named domains that are on, and no other. LULL_READ returns whole records, oldest first, as many as
asked for that fit, and frees exactly them. AGE_CHECK stores the index and the check's date, and with a valid ageing
section and a re-plan due raises the guard, never lowers it, to a fifth of the index, at most 200 mV; AGEING_CHECK
does the same when the last check is 24 h old. Nothing else changes. (16 R459, 16 R466, 16 R471, 16 R472, 16 R477,
16 Table 16.8, 16 Table 16.9, 16 Table 16.10, 16 Table 16.12) -/
def Obligations.PowerAndRtcCommandsComplete : Prop :=
  (∀ (c : CmdRef) (m : Cmd) (s : State), runnable c 0x0100 s.toChip = some m → ZeroBytes m.params 0 4 →
    ∃ res, Does (.pwrStatus c) s (JustCompletes c stOk res s.toChip) ∧ Field res 0 4 (pwrStat s.toChip) ∧
      Field res 4 4 (pwrAvs s.toChip) ∧ Field res 8 4 (pwrAge s.toChip) ∧ Field res 12 4 (pwrTherm s.toChip) ∧
      Field res 16 4 (pwrLull s.toChip) ∧ (∀ r, r < 8 → Field res (20 + 4 * r) 4 (pwrRail s.toChip r)) ∧
      Field res 52 4 (wakeCause s.toChip)) ∧
  (∀ (c : CmdRef) (m : Cmd) (n : Nat) (s : State), runnable c 0x0102 s.toChip = some m → rd m.params 0 6 = n → ZeroBytes m.params 6 2 →
    Does (.rtcSet c) s (JustCompletes c stOk (wr 6 (s.pd0.rtc / nsSec) ++ zeros 2) { s.toChip with pd0 := { s.pd0 with
      rtc := n * nsSec, alarmDone := s.pd0.alarmDone && decide (s.pd0.alarmSec ≤ n) } })) ∧
  (∀ (c : CmdRef) (m : Cmd) (n : Nat) (e : Nat) (s : State), runnable c 0x0103 s.toChip = some m → rd m.params 0 6 = n →
    rd m.params 6 1 = e → (e = 0 ∨ e = 1) → ZeroBytes m.params 7 1 →
    Does (.rtcAlarmSet c) s (JustCompletes c stOk [] { s.toChip with pd0 := { s.pd0 with
      alarmSec := n, alarmEn := decide (e = 1), alarmDone := decide (n * nsSec ≤ s.pd0.rtc) } })) ∧
  (∀ (c : CmdRef) (m : Cmd) (d : Nat) (s : State), runnable c 0x0104 s.toChip = some m → rd m.params 0 2 = d → d < 2 ^ 12 →
    ZeroBytes m.params 2 2 → s.pd0.latch < 2 ^ 12 →
    Does (.padRelease c) s fun t => (∀ k, bitOf t.pd0.latch k = (bitOf s.pd0.latch k && !(bitOf d k && pdOn s.toChip k))) ∧
      Completed c stOk (wr 2 t.pd0.latch ++ zeros 2) t ∧ t.pd0 = { s.pd0 with latch := t.pd0.latch } ∧ OnlyChanges [.pd0, .ubfen] s.toChip t) ∧
  (∀ (c : CmdRef) (m : Cmd) (n : Nat) (s : State), runnable c 0x0105 s.toChip = some m → rd m.params 0 2 = n → 1 ≤ n → n ≤ 255 →
    ZeroBytes m.params 2 2 → Does (.lullRead c) s fun t => ∃ k, k ≤ n ∧ k ≤ s.pwr.lull.length ∧ t.pwr.lull = s.pwr.lull.drop k ∧
      t.pwr = { s.pwr with lull := t.pwr.lull } ∧ ((s.pwr.lull.take k).flatMap lullBytes).length ≤ 8184 ∧
      Completed c stOk (wr 2 k ++ wr 2 (s.pwr.lull.length - k) ++ wr 4 s.pwr.lullLost ++ (s.pwr.lull.take k).flatMap lullBytes) t ∧
      OnlyChanges [.pwr, .ubfen] s.toChip t) ∧
  (∀ (index : Nat) (s : State),
    let valid := !s.cal.nominal.contains 8
    let plan := valid && replanDue s.toChip
    let P := fun (t : Chip) => t.pwr = { s.pwr with index := if valid then min 0xFFFF index else 0, ageValid := valid } ∧ t.health.checked = some (rtcSec s.toChip) ∧
      (plan = true → t.health.guard = min (max s.health.guard ((min 0xFFFF index + 4) / 5)) 200 ∧ t.health.planned = some (rtcSec s.toChip)) ∧
      (plan = false → t.health.guard = s.health.guard ∧ t.health.planned = s.health.planned) ∧
      Raised 15 (pack [(0, 16, if valid then min 0xFFFF index else 0), (16, 1, b2n plan)]) t
    (∀ (c : CmdRef) (m : Cmd), runnable c 0x0106 s.toChip = some m → ZeroBytes m.params 0 4 → Does (.ageCheck c index) s fun t => P t ∧
      Completed c stOk (wr 2 t.pwr.index ++ wr 1 t.health.guard ++ wr 1 (b2n plan)) t ∧ OnlyChanges [.pwr, .health, .ev, .ubfen] s.toChip t) ∧
    (s.health.checked = none → 4 ≤ s.boot.stage → Does (.ageingCheck index) s fun t => P t ∧ OnlyChanges [.pwr, .health, .ev] s.toChip t) ∧
    (∀ k, s.health.checked = some k → k + 86400 ≤ rtcSec s.toChip → 4 ≤ s.boot.stage →
      Does (.ageingCheck index) s fun t => P t ∧ OnlyChanges [.pwr, .health, .ev] s.toChip t) ∧
    (∀ k, s.health.checked = some k → k ≤ rtcSec s.toChip → rtcSec s.toChip < k + 86400 →
      Does (.ageingCheck index) s fun t => t = s.toChip))

/-- While PD1 is on, of a sample that is due (canaries, sensors and STATUS_INPUT every 1 ms, rails every 10 us,
STATUS_WORD every 10 ms, READ_VOUT 200 us after its command): CANARY_MEASURE stores the margin, and with the loop
running and PMBus well raises VCORE by 5 mV up to the ceiling when the margin is below target plus guard, lowers it
by 5 mV down to the floor when the margin has been above its upper target plus guard for 100 ms, and otherwise keeps
it; a VOUT_COMMAND that fails keeps VCORE. READ_VOUT_CHECK clears the pending check, and STATUS_WORD_POLL of 0, like
it, the row of failures; the third failure in a row sets PMBUS_FAULT; PMBUS_RETRY that succeeds clears it.
THERMAL_SAMPLE stores the highest reading as the junction temperature, and raises EV_THERMAL when it first exceeds
115 °C. RAIL_SAMPLE stores every rail with LOW and HIGH by Table 16.6. STATUS_INPUT_POLL with LULL_AUTO stores a
change of bit 5 with its instant. RTC_CRYSTAL_FALLBACK, a second after power-on, puts the RTC on its RC oscillator.
(16 R467, 16 R468, 16 R469, 16 R473, 16 R474, 16 R457, 16 R522, 16 Table 16.6) -/
def Obligations.MonitorsAndVoltageLoop : Prop :=
  (∀ (margin : Int) (s : State), pdOn s.toChip 1 = true → s.pwr.due.get 0 ≤ s.now → s.pwr.loopOn = true → s.pwr.pmbusFault = false →
    let g := s.health.guard
    let v := s.pwr.vcore
    Does (.canaryMeasure margin false) s (fun t => t.pwr.margin = margin ∧ OnlyChanges [.pwr, .ev] s.toChip t ∧
      (margin < (pwrCfg s.toChip 9 + g : Nat) → t.pwr.vcore = min (v + 5) (pwrCfg s.toChip 0xC)) ∧
      ((pwrCfg s.toChip 9 + g : Nat) ≤ margin → margin ≤ (pwrCfg s.toChip 0xA + g : Nat) → t.pwr.vcore = v) ∧
      ((pwrCfg s.toChip 9 + g : Nat) ≤ margin → (pwrCfg s.toChip 0xA + g : Nat) < margin →
        t.pwr.vcore = (if 99 ≤ s.pwr.above then max (v - 5) (pwrCfg s.toChip 0xB) else v))) ∧
    Does (.canaryMeasure margin true) s (fun t => t.pwr.margin = margin ∧ t.pwr.vcore = v ∧ OnlyChanges [.pwr, .ev] s.toChip t)) ∧
  (∀ (k mv : Nat) (s : State), s.pwr.voutCheck = some k → s.pwr.due.get 1 ≤ s.now →
    Does (.readVoutCheck mv false) s (fun t => t = { s.toChip with pwr := { s.pwr with voutCheck := none, fails := 0 } }) ∧
    Does (.readVoutCheck mv true) s (fun t => t.pwr = { s.pwr with
        voutCheck := none, fails := s.pwr.fails + 1, pmbusFault := s.pwr.pmbusFault || decide (s.pwr.fails = 2) } ∧
      (s.pwr.fails = 2 → Raised 12 0xFFFF t) ∧ OnlyChanges [.pwr, .ev] s.toChip t)) ∧
  (∀ (w : BitVec 16) (s : State), pdOn s.toChip 1 = true → s.pwr.due.get 2 ≤ s.now → s.pwr.loopOn = true → s.pwr.pmbusFault = false →
    Does (.statusWordPoll w false) s fun t => t.pwr = { s.pwr with fails := 0, due := s.pwr.due.set 2 (s.now + 10000000) } ∧ (w = 0 → t.ev = s.ev) ∧
      (w ≠ 0 → limFree 12 0 nsSec s.toChip = true → Raised 12 w.toNat t) ∧ OnlyChanges [.pwr, .ev] s.toChip t) ∧
  (∀ s : State, s.pwr.pmbusFault = true → limFree 12 1 (100 * nsMs) s.toChip = true →
    Does (.pmbusRetry true) s (fun t => t.pwr = { s.pwr with pmbusFault := false, fails := 0 } ∧ OnlyChanges [.pwr, .ev] s.toChip t) ∧
    Does (.pmbusRetry false) s (fun t => OnlyChanges [.ev] s.toChip t)) ∧
  (∀ (r : Int) (rs : List Int) (s : State), rs.length = 7 → pdOn s.toChip 1 = true → s.pwr.due.get 3 ≤ s.now → Does (.thermalSample (r :: rs)) s fun t =>
    t.pwr.junction ∈ r :: rs ∧ (∀ x ∈ r :: rs, x ≤ t.pwr.junction) ∧ t.pwr.hot = decide (1150 < t.pwr.junction) ∧
    (1150 < t.pwr.junction → s.pwr.hot = false → Raised 13 (pack [(0, 16, ofS 16 t.pwr.junction), (16, 8, 1)]) t) ∧
    OnlyChanges [.pwr, .ev] s.toChip t) ∧
  (∀ (mv : List Nat) (s : State), pdOn s.toChip 1 = true → s.pwr.due.get 4 ≤ s.now → mv.length = 8 → Does (.railSample mv) s fun t =>
    (∀ r x, mv[r]? = some x → t.pwr.rails.get r = ⟨x, decide (x < (railWindow s.toChip r x).1), decide ((railWindow s.toChip r x).2 < x)⟩) ∧
    OnlyChanges [.pwr, .ev] s.toChip t) ∧
  (∀ (v : Byte) (s : State), pdOn s.toChip 1 = true → s.pwr.due.get 5 ≤ s.now → pwrCfg s.toChip 2 ≠ 0 →
    (v.getLsbD 5 ≠ s.pwr.uv → Does (.statusInputPoll v) s fun t =>
      t = { s.toChip with pwr := { s.pwr with uv := v.getLsbD 5, uvSince := s.now, due := s.pwr.due.set 5 (s.now + 1000000) } }) ∧
    (v.getLsbD 5 = s.pwr.uv → Does (.statusInputPoll v) s fun t => t = { s.toChip with pwr := { s.pwr with due := s.pwr.due.set 5 (s.now + 1000000) } })) ∧
  (∀ s : State, nsSec ≤ s.now → Does .rtcCrystalFallback s fun t => t = { s.toChip with pd0 := { s.pd0 with rtcRc := true } })

/-- PWR_STATE_SET of the set in force completes and changes nothing. One that takes domains, cores or ports down begins
prepare: PHASE 1, a transition to the set with the domains that are on and not in it, no vote yet; LULL_AUTO_ENTRY
does so for Lull by force. A BLOCK_VOTE of a drained block counts; the last one makes the transition voted, and
completes the command of a target other than Calm. A block that refuses at once, or in PREPARE_TIMEOUT has not
drained within its limit, ends the attempt when it is not forced: back to steady, EV_SLEEP_REFUSED, ST_SLEEP_REFUSED
with block and reason. POWER_COMMIT to Calm leaves PD0 alone, pads latched and WAKE_OUT low. RTC_ALARM starts the
device from Calm with cause 0x07, from Calm-Fault with 0x08, is held during an entry to Calm, and raises
EV_RTC_ALARM while awake; WAKE_AFTER_ENTRY starts it for the held alarm with cause 0x07. (16 R450, 16 R451, 16 R454,
16 R455, 16 R456, 16 R457, 16 R462, 16 R463, 16 Table 16.2, 16 Table 16.3) -/
def Obligations.PowerTransitionsPrepareAndVote : Prop :=
  (∀ (c : CmdRef) (m : Cmd) (f : List (Fin 12 × Bool)) (s : State), runnable c 0x0101 s.toChip = some m → s.pwr.trans = none →
    let p := m.params
    let w := powerSet p
    rd p 0 1 ≤ 3 → rd p 1 1 ≤ 3 → (rd p 0 1 = 1 → bitOf (rd p 3 1) 6 = true → ∀ n, n < 8 → (coreOf s.toChip n).st ≤ 1) →
    rd p 3 1 < 128 → rd p 4 1 ≤ 3 → ZeroBytes p 5 3 → (rd p 0 1 = 3 → calmAlarmBad p s.toChip = false) → ZeroBytes p 14 2 →
    (w = powerNow s.toChip → Does (.pwrStateSet c f) s (JustCompletes c stOk (wr 1 s.pwr.state ++ zeros 7) s.toChip)) ∧
    (goesDown w s.toChip ≠ (0, 0, 0) → Does (.pwrStateSet c f) s fun t =>
      t.pwr.trans = some ⟨w.state, bitOf (rd p 1 1) 0, s.pwr.domOn &&& notN 12 w.on, w.on, w.cores, w.ports, w.band, w.retain,
        some c, m.no, [], s.now, false⟩ ∧
      t.pwr.phase = 1 ∧ t.pwr.state = s.pwr.state ∧ t.pwr.domOn = s.pwr.domOn)) ∧
  (∀ s : State, pdOn s.toChip 1 = true → pwrCfg s.toChip 2 = 1 → s.pwr.uv = true → s.pwr.uvSince + pwrCfg s.toChip 3 * nsMs ≤ s.now →
    s.pwr.trans = none → s.pwr.state < 2 → 4 ≤ s.boot.stage → s.pwr.domOn = 0xFFF → pwrCfg s.toChip 5 ≤ 1 →
    Does .lullAutoEntry s fun t => (∃ tr, t.pwr.trans = some tr ∧ tr.target = 2 ∧ tr.force = true ∧ tr.cmd = none ∧ tr.yes = []) ∧
      t.pwr.phase = 1 ∧ t.pwr.autoLull = true ∧ t.pwr.before = some (s.pwr.state, s.pwr.domOn, s.pwr.coresOff, s.pwr.portsOff)) ∧
  (∀ (b : Fin 18) (tr : Trans) (s : State), s.pwr.trans = some tr → tr.voted = false → b.val ∉ tr.yes → b.val ∈ votersOf tr →
    (refuses tr s.toChip b.val = none → drained tr s.toChip b.val = true →
      ((∃ x, x ∈ votersOf tr ∧ x ≠ b.val ∧ x ∉ tr.yes) → Does (.blockVote b) s fun t =>
        t = { s.toChip with pwr := { s.pwr with trans := some { tr with yes := b.val :: tr.yes } } }) ∧
      (∀ c m, (∀ x, x ∈ votersOf tr → x ≠ b.val → x ∈ tr.yes) → tr.cmd = some c → findCmd c s.toChip = some m → tr.target ≠ 3 →
        Does (.blockVote b) s fun t => t.pwr.trans = some { tr with yes := b.val :: tr.yes, voted := true } ∧
          Completed c stOk (wr 1 s.pwr.state ++ zeros 3 ++ wr 4 ((s.now - tr.startedAt) / nsUs)) t ∧ OnlyChanges [.pwr, .ubfen] s.toChip t)) ∧
    (∀ r c m, refuses tr s.toChip b.val = some r → (∀ x, x < b.val → refuses tr s.toChip x = none) → tr.force = false →
      tr.cmd = some c → findCmd c s.toChip = some m → Does (.blockVote b) s fun t =>
        t.pwr.trans = none ∧ t.pwr.phase = 0 ∧ t.pwr.state = s.pwr.state ∧ t.pwr.domOn = s.pwr.domOn ∧ Raised 7 b.val t ∧
        Completed c stSleepRefused (wr 1 b.val ++ wr 1 r ++ zeros 2 ++ wr 4 ((s.now - tr.startedAt) / nsUs)) t ∧
        OnlyChanges [.pwr, .pd0, .apc, .pair, .ev, .ubfen] s.toChip t) ∧
    (∀ lim r c m, voteLimit s.toChip b.val = some (lim, r) → drained tr s.toChip b.val = false → tr.startedAt + lim ≤ s.now →
      (∀ x, refuses tr s.toChip x = none) → tr.force = false → tr.cmd = some c → findCmd c s.toChip = some m →
      Does (.prepareTimeout b) s fun t => t.pwr.trans = none ∧ t.pwr.phase = 0 ∧ Raised 7 b.val t ∧
        Completed c stSleepRefused (wr 1 b.val ++ wr 1 r ++ zeros 2 ++ wr 4 ((s.now - tr.startedAt) / nsUs)) t)) ∧
  (∀ (tr : Trans) (s : State), s.pwr.trans = some tr → tr.voted = true → tr.target = 3 → replyLeft tr.cmdNo s.toChip = true →
    Does .powerCommit s fun t => t.boot.wait = .calm ∧ t.pwr.domOn = 1 ∧ t.pd0.latch = 0xFFE ∧ t.pd0.prevState = s.pwr.state ∧
      t.pwr.wakeOut = false ∧ t.pwr.wakeLow = s.now ∧ t.ubfen = Ubfen.reset ∧ t.pd0.rtc = s.pd0.rtc) ∧
  (∀ s : State, s.pd0.alarmEn = true → s.pd0.alarmDone = false → s.pd0.alarmSec * nsSec ≤ s.pd0.rtc →
    (s.boot.wait = .calm → s.pwr.faultn = false → Does .rtcAlarm s (Restarts 0x07 .wake s.toChip)) ∧
    (s.boot.wait = .calm → s.pwr.faultn = true → Does .rtcAlarm s (Restarts 0x08 .wake s.toChip)) ∧
    (s.boot.wait ≠ .calm → (∃ tr, s.pwr.trans = some tr ∧ tr.target = 3) → Does .rtcAlarm s fun t =>
      t = { s.toChip with pd0 := { s.pd0 with alarmDone := true, alarmHeld := true } }) ∧
    (s.boot.wait ≠ .calm → s.pwr.trans = none → pdOn s.toChip 1 = true → Does .rtcAlarm s fun t =>
      t.pd0 = { s.pd0 with alarmDone := true } ∧ Raised 29 0 t ∧ OnlyChanges [.pd0, .ev] s.toChip t)) ∧
  (∀ s : State, s.boot.wait = .calm → s.pd0.alarmHeld = true → s.pwr.wakeLow + nsMs ≤ s.now →
    Does .wakeAfterEntry s fun t => Restarts 0x07 .wake s.toChip t ∧ t.pd0.inEntry = true)

/-- POWER_COMMIT of a voted transition to Steady, Breeze or Lull, whose reply has left, enters it: PWR_STAT shows the
target state in steady phase, no transition is left, PREV_STATE holds the state before, and EV_PWR_STATE names both
states. LULL_AUTO_RETURN, once VIN_UV_WARNING has been clear for LULL_RETURN_HOLD after an automatic entry and
nothing has to go down for it, enters the set held before Lull, with EV_PWR_STATE. (16 R450, 16 R457, 16 R460, 16
Table 16.2, 16 Table 16.8) -/
def Obligations.PowerSetIsEntered : Prop :=
  (∀ (tr : Trans) (s : State), s.pwr.trans = some tr → tr.voted = true → tr.target < 3 →
    (tr.cmd = none ∨ replyLeft tr.cmdNo s.toChip = true) → Does .powerCommit s fun t =>
      t.pwr.state = tr.target ∧ t.pwr.phase = 0 ∧ t.pwr.trans = none ∧ t.pd0.prevState = s.pwr.state ∧
      Raised 10 (pack [(0, 8, s.pwr.state), (8, 8, tr.target)]) t) ∧
  (∀ (st on cores ports : Nat) (f : List (Fin 12 × Bool)) (s : State), s.pwr.before = some (st, on, cores, ports) →
    s.pwr.autoLull = true → s.pwr.state = 2 → s.pwr.trans = none → s.pwr.uv = false →
    s.pwr.uvSince + pwrCfg s.toChip 4 * nsSec ≤ s.now → goesDown ⟨st, on, cores, ports, 0, false⟩ s.toChip = (0, 0, 0) →
    Does (.lullAutoReturn f) s fun t => t.pwr.state = st ∧ t.pwr.phase = 0 ∧ t.pwr.autoLull = false ∧ t.pwr.before = none ∧
      Raised 10 (pack [(0, 8, 2), (8, 8, st)]) t)

/-- While a core runs: gnext ends its open activation, and without a stop or hold takes the oldest activation of the
task that R430 selects: the core's activation is that task and argument from now on, the value read names the task,
the ring loses exactly that activation, and the task was last on this core; with no candidate it reads 0. gdone ends
the activation. WFI without one makes the core IDLE, and with one leaves it RUNNING. gpost reads 2 for a disabled
task, 1 and a back-pressure count for a full ring, and else 0 with the activation last in the ring. guser raises
EV_APC_USER. A packet in a bound queue posts its task or waits as unposted while the ring is full, and posts when
space returns. GUST_TASK_SET sets a task's row, and drops the activations of one that it disables; GUST_TASK_STATUS
returns its rows; GUST_POST posts. TASK_LATE changes nothing. Other cores and tasks stay as they are. (15 R428, 15
R429, 15 R430, 15 R432, 15 R433, 15 R437, 15 Table 15.4, 15 Table 15.7) -/
def Obligations.GustPostsAndDispatches : Prop :=
  (∀ (n : Fin 8) (s : State), coreLive s.toChip n.val = true →
    let idle := coreUpd n.val (fun c => { c with st := 2, wfi := false, latch := none, csr := 0 }) (endAct n.val s.toChip)
    ((coreOf idle n.val).stop = none → (coreOf idle n.val).hold = false →
      (∀ (t : Nat) (k : Task) (a : BitVec 64 × Nat) (rest : List (BitVec 64 × Nat)), pickTask idle n.val = some (t, k) → k.ring = a :: rest →
        Does (.gnextRead n) s fun x => (coreOf x n.val).act = some ⟨t, a.1, s.now⟩ ∧ (coreOf x n.val).csr = BitVec.ofNat 64 (2 ^ 63 + t) ∧
          (coreOf x n.val).st = 2 ∧ (task x t).ring = rest ∧ (task x t).last = some n.val ∧ (∀ j, j ≠ t → task x j = task s.toChip j) ∧
          (∀ j, j ≠ n.val → coreOf x j = coreOf s.toChip j) ∧ OnlyChanges [.apc] s.toChip x) ∧
      (pickTask idle n.val = none → Does (.gnextRead n) s fun x => x = idle ∧ (coreOf x n.val).csr = 0 ∧ (coreOf x n.val).act = none)) ∧
    ((coreOf s.toChip n.val).stop = none → Does (.gdoneWrite n) s fun x => (coreOf x n.val).act = none ∧ (coreOf x n.val).st = 2 ∧
      (∀ j, j ≠ n.val → coreOf x j = coreOf s.toChip j) ∧ OnlyChanges [.apc] s.toChip x) ∧
    ((coreOf s.toChip n.val).stop = none → (coreOf s.toChip n.val).act = none →
      Does (.coreWfi n) s fun x => x = coreUpd n.val (fun c => { c with st := 3 }) s.toChip) ∧
    ((coreOf s.toChip n.val).stop = none → (coreOf s.toChip n.val).act ≠ none →
      Does (.coreWfi n) s fun x => x = coreUpd n.val (fun c => { c with wfi := true }) s.toChip) ∧
    (∀ (tk : Fin 4096) (arg : BitVec 64),
      ((task s.toChip tk.val).en = false → Does (.gpost n tk arg) s fun x => (coreOf x n.val).csr = 2 ∧ x.apc.tasks = s.apc.tasks ∧
        OnlyChanges [.apc] s.toChip x) ∧
      ((task s.toChip tk.val).en = true → (task s.toChip tk.val).depth ≤ (task s.toChip tk.val).ring.length →
        Does (.gpost n tk arg) s fun x => (coreOf x n.val).csr = 1 ∧
          task x tk.val = { task s.toChip tk.val with backpressed := satAdd 0xFFFF (task s.toChip tk.val).backpressed 1 } ∧
          OnlyChanges [.apc, .ev] s.toChip x) ∧
      ((task s.toChip tk.val).en = true → (task s.toChip tk.val).ring.length < (task s.toChip tk.val).depth →
        Does (.gpost n tk arg) s fun x => (coreOf x n.val).csr = 0 ∧
          task x tk.val = { task s.toChip tk.val with ring := (task s.toChip tk.val).ring ++ [(arg, s.now)] } ∧ OnlyChanges [.apc] s.toChip x)) ∧
    (∀ v : BitVec 64, (∀ i, i < 100 → lookupIn s.ev.limits (limKey 119 (100 * n.val + i)) = none) →
      Does (.guserWrite n v) s fun x => Raised 119 v.toNat x ∧ OnlyChanges [.apc, .ev] s.toChip x)) ∧
  (∀ (q : Fin 24) (t : Nat) (k : Task) (s : State), boundTask s.toChip q.val = some (t, k) → k.en = true → pdOn s.toChip 2 = true →
    task s.toChip t = k →
    (0 < (s.dq.get q.val).fresh → k.ring.length < k.depth → s.apc.unposted.get q.val = 0 → Does (.boundQueuePost q) s fun x =>
      (task x t).ring = k.ring ++ [(BitVec.ofNat 64 q.val, s.now)] ∧ (x.dq.get q.val).fresh = (s.dq.get q.val).fresh - 1 ∧
      OnlyChanges [.apc, .dq] s.toChip x) ∧
    (0 < (s.dq.get q.val).fresh → k.depth ≤ k.ring.length → Does (.boundQueuePost q) s fun x =>
      (task x t).ring = k.ring ∧ x.apc.unposted.get q.val = s.apc.unposted.get q.val + 1 ∧ OnlyChanges [.apc, .dq, .ev] s.toChip x) ∧
    (s.apc.unposted.get q.val ≠ 0 → k.ring.length < k.depth → Does (.deferredPost q) s fun x =>
      (task x t).ring = k.ring ++ [(BitVec.ofNat 64 q.val, s.now)] ∧ x.apc.unposted.get q.val = s.apc.unposted.get q.val - 1 ∧
      OnlyChanges [.apc] s.toChip x)) ∧
  (∀ (c : CmdRef) (m : Cmd) (t fl pr al bi de : Nat) (s : State), runnable c 0x0C03 s.toChip = some m →
    m.params = wr 2 t ++ wr 1 fl ++ wr 1 pr ++ wr 1 al ++ wr 1 bi ++ wr 2 de ++ m.params.drop 8 → t ≤ 4095 → fl ≤ 3 → pr ≤ 7 →
    1 ≤ al → al ≤ 255 → (bi ≤ 23 ∨ bi = 0xFF) → 1 ≤ de → de ≤ 256 → (bitOf fl 0 = true → depthOthers s.toChip t + de ≤ 65536) →
    (bitOf fl 0 = true → (task s.toChip t).ring.length ≤ de) → (bi ≠ 0xFF → ∀ e ∈ s.apc.tasks.ents, e.1 ≠ t → e.2.bind ≠ bi) →
    Does (.gustTaskSet c) s fun x => task x t = { task s.toChip t with
        en := bitOf fl 0, prio := pr, allow := al, multi := bitOf fl 1, depth := de, bind := bi, entry := arg64 m.params 8, last := none
        ring := if bitOf fl 0 then (task s.toChip t).ring else [] } ∧
      (∀ j, j ≠ t → task x j = task s.toChip j) ∧
      Completed c stOk (wr 4 (if bitOf fl 0 then 0 else (task s.toChip t).ring.length)) x ∧ OnlyChanges [.apc, .dq, .ubfen] s.toChip x) ∧
  (∀ (c : CmdRef) (m : Cmd) (t k : Nat) (s : State), runnable c 0x0C04 s.toChip = some m → rd m.params 0 2 = t → rd m.params 2 2 = k →
    1 ≤ k → k ≤ 500 → t + k ≤ 4096 → rd m.params 4 1 = 0 → ZeroBytes m.params 5 3 →
    Does (.gustTaskStatus c) s (JustCompletes c stOk ((List.range k).flatMap fun i =>
      let x := task s.toChip (t + i)
      wr 2 x.ring.length ++ wr 1 (openOn s.toChip (t + i)) ++ wr 1 (x.last.getD 0xFF) ++ wr 4 x.taken ++ wr 4 x.maxWait ++
        wr 2 x.backpressed ++ wr 2 x.abandoned) s.toChip)) ∧
  (∀ (c : CmdRef) (m : Cmd) (t : Nat) (s : State), runnable c 0x0C05 s.toChip = some m → rd m.params 0 2 = t → t ≤ 4095 →
    ZeroBytes m.params 2 6 →
    ((task s.toChip t).en = false → Does (.gustPost c) s (JustCompletes c stNotFound [] s.toChip)) ∧
    ((task s.toChip t).en = true → (task s.toChip t).ring.length < (task s.toChip t).depth →
      Does (.gustPost c) s (JustCompletes c stOk [] (post t (arg64 m.params 8) s.toChip)))) ∧
  (∀ (t : Fin 4096) (s : State), Does (.taskLate t) s fun x => x = s.toChip)

/-- With legal parameters: APC_STATUS, APC_PERF_READ and APC_SAMPLE_READ without CLEAR return registers, counters and
samples and change nothing. APC_CORE_START of a held core runs it from the entry address, of a running one answers
ST_BUSY. APC_CORE_STOP of a held core completes, of a running one waits; with FORCE the core faults with cause 4;
APC_CORE_STOP_TIMEOUT after 1 s completes with ST_TIMEOUT. CORE_FAULT, a watchdog with the action fault, and an
uncorrected ECC_ERROR put a running core in FAULT with EV_APC_CORE_FAULT and its activation abandoned; a corrected
one only raises EV_APC_ECC. LOAD_UPDATE of a new second stores each core's load. The platform interrupts are those
of Table 15.2. HPM_COUNTER_READ, where the mode may read, returns the counter and latches a chained one;
COUNTER_OVERFLOW clears it and carries into a chained counter or sets OVF. MSAMPLE_CLEAR empties the buffer;
SAMPLE_RECORD_WRITE adds a record while there is room and counts LOST when full. MACHINE_TIMER_PENDING sets MTIP
when due; a low word of mtimecmp is held, a high word takes effect with it. (15 R425, 15 R434, 15 R435, 15 R436, 15
R437, 15 R439, 15 R441, 15 R444, 15 R445, 18 R502, 15 R421, 15 R442) -/
def Obligations.ClusterCoresCountersAndTimer : Prop :=
  (∀ (c : CmdRef) (m : Cmd) (s : State), runnable c 0x0C00 s.toChip = some m → ZeroBytes m.params 0 4 →
    Does (.apcStatus c) s (JustCompletes c stOk (wr 4 (clusterStat s.toChip) ++ wr 4 (apcCfg s.toChip 6) ++ wr 4 (gustStat s.toChip) ++
      (List.range 8).flatMap (fun p => wr 4 (gustPri s.toChip p)) ++ (List.range 8).flatMap (fun n => wr 4 (coreStat s.toChip n) ++
        wr 4 (coreOf s.toChip n).taken ++ wr 4 (sampleStat s.toChip n))) s.toChip)) ∧
  (∀ (c : CmdRef) (m : Cmd) (n : Nat) (s : State), runnable c 0x0C06 s.toChip = some m → rd m.params 0 1 = n → n ≤ 7 →
    ZeroBytes m.params 1 3 → Does (.apcPerfRead c) s (JustCompletes c stOk
      ((List.range 11).flatMap (fun i => wr 8 (counterVal s.toChip n i)) ++
        (List.range 8).flatMap (fun i => wr 8 ((coreOf s.toChip n).ev.get (3 + i)))) s.toChip)) ∧
  (∀ (s : Chip) (n : Nat), platformIrq s n = (if gustPending s n = true then 2 ^ 16 else 0) +
    (if (coreOf s n).wd = true ∧ apcCfg s 5 = 1 then 2 ^ 17 else 0) +
    (if ∃ k, k < 11 ∧ 3 ≤ k ∧ bitOf ((coreOf s n).ev.get k) 12 = true ∧ bitOf ((coreOf s n).ev.get k) 13 = true then 2 ^ 18 else 0) +
    (if holdsWhole (s.dq.get (24 + n)) = true then 2 ^ 19 else 0)) ∧
  (∀ (c : CmdRef) (m : Cmd) (n i k : Nat) (s : State), runnable c 0x0C07 s.toChip = some m → rd m.params 0 1 = n → n ≤ 7 →
    rd m.params 1 1 = 0 → rd m.params 2 2 = i → rd m.params 4 2 = k → ZeroBytes m.params 6 2 → 1 ≤ k → k ≤ 510 → i + k ≤ 1024 →
    let x := coreOf s.toChip n
    let l := (x.samples.drop i).take k
    Does (.apcSampleRead c) s (JustCompletes c stOk (wr 2 l.length ++ wr 2 x.samples.length ++ wr 4 x.lost ++ l.flatten) s.toChip)) ∧
  (∀ (c : CmdRef) (m : Cmd) (n : Nat) (s : State), runnable c 0x0C01 s.toChip = some m → rd m.params 0 1 = n → n ≤ 7 →
    ZeroBytes m.params 1 7 → inDram s.toChip (rd m.params 8 8) = true →
    (((coreOf s.toChip n).st = 1 ∨ (coreOf s.toChip n).st = 4) → Does (.apcCoreStart c) s fun t =>
      (coreOf t n).st = 2 ∧ (coreOf t n).entry = arg64 m.params 8 ∧ (coreOf t n).a1 = arg64 m.params 16 ∧ (coreOf t n).act = none ∧
      (∀ j, j ≠ n → coreOf t j = coreOf s.toChip j) ∧ Completed c stOk [] t ∧ OnlyChanges [.apc, .dq, .ubfen] s.toChip t) ∧
    ((coreOf s.toChip n).st ≠ 1 → (coreOf s.toChip n).st ≠ 4 → Does (.apcCoreStart c) s (JustCompletes c stBusy [] s.toChip))) ∧
  (∀ (c : CmdRef) (m : Cmd) (n : Nat) (s : State), runnable c 0x0C02 s.toChip = some m → rd m.params 0 1 = n → n ≤ 7 → ZeroBytes m.params 2 2 →
    (rd m.params 1 1 = 0 → (coreOf s.toChip n).st = 1 → Does (.apcCoreStop c) s (JustCompletes c stOk (zeros 4) s.toChip)) ∧
    (rd m.params 1 1 = 0 → (coreOf s.toChip n).st = 2 → (coreOf s.toChip n).stop = none → Does (.apcCoreStop c) s fun t =>
      t = coreUpd n (fun k => { k with stop := some (c, s.now) }) s.toChip) ∧
    (rd m.params 1 1 = 1 → coreLive s.toChip n = true → Does (.apcCoreStop c) s fun t => (coreOf t n).st = 4 ∧ (coreOf t n).act = none ∧
      Raised 112 (pack [(0, 3, n), (8, 8, 4)]) t ∧ Completed c stOk (wr 1 (b2n (coreOf s.toChip n).act.isSome) ++ zeros 3) t)) ∧
  (∀ (n : Fin 8) (s : State),
    (∀ c k m, (coreOf s.toChip n.val).stop = some (c, k) → findCmd c s.toChip = some m → k + nsSec ≤ s.now → Does (.apcCoreStopTimeout n) s
      (JustCompletes c stTimeout [] (coreUpd n.val (fun k => { k with stop := none }) s.toChip))) ∧
    (coreLive s.toChip n.val = true →
      (∀ cause : Fin 5, cause.val = 1 ∨ cause.val = 2 → Does (.coreFault n cause) s fun t => (coreOf t n.val).st = 4 ∧ (coreOf t n.val).act = none ∧
        Raised 112 (pack [(0, 3, n.val), (8, 8, cause.val)]) t ∧ (∀ j, j ≠ n.val → coreOf t j = coreOf s.toChip j)) ∧
      (∀ a, (coreOf s.toChip n.val).act = some a → (coreOf s.toChip n.val).wd = false → apcCfg s.toChip 4 ≠ 0 →
        a.at_ + apcCfg s.toChip 4 * nsMs ≤ s.now → Does (.apcWatchdog n) s fun t => Raised 113 n.val t ∧
          (apcCfg s.toChip 5 = 2 → (coreOf t n.val).st = 4 ∧ (coreOf t n.val).act = none ∧ Raised 112 (pack [(0, 3, n.val), (8, 8, 3)]) t) ∧
          (apcCfg s.toChip 5 ≠ 2 → coreOf t n.val = { coreOf s.toChip n.val with wd := true } ∧ OnlyChanges [.apc, .ev] s.toChip t)) ∧
      (∀ line : BitVec 24, Does (.eccError n true line) s (fun t => (coreOf t n.val).st = 4 ∧ Raised 118 (pack [(0, 1, 1), (8, 24, line.toNat)]) t) ∧
        Does (.eccError n false line) s fun t => t.apc = s.apc ∧ OnlyChanges [.ev] s.toChip t) ∧
      (∀ (k : Fin 11) (p : Fin 3) (e f : Bool), ¬ (p = 2 ∨ (p = 1 ∧ e = true) ∨ (e = true ∧ f = true ∧ bitOf (apcCfg s.toChip 6) k.val = true)) →
        Does (.hpmCounterRead n k p e f) s fun t => t = coreUpd n.val (fun c => { c with st := 2, wfi := false }) s.toChip) ∧
      (∀ k : Fin 11, ((coreOf s.toChip n.val).latch = none ∨ ∃ x, (coreOf s.toChip n.val).latch = some (k.val + 1, x)) →
        Does (.hpmCounterRead n k 2 false false) s fun t => (coreOf t n.val).csr = BitVec.ofNat 64 (counterVal s.toChip n.val k.val) ∧
          (chained (coreOf s.toChip n.val) (k.val + 1) = true →
            (coreOf t n.val).latch = some (k.val + 1, (coreOf s.toChip n.val).ctr.get (k.val + 1))) ∧
          (coreOf t n.val).ctr = (coreOf s.toChip n.val).ctr ∧ OnlyChanges [.apc] s.toChip t) ∧
      (∀ (k : Fin 11) (x : Nat), (coreOf s.toChip n.val).latch = some (k.val, x) → Does (.hpmCounterRead n k 2 false false) s fun t =>
        (coreOf t n.val).csr = BitVec.ofNat 64 x ∧ OnlyChanges [.apc] s.toChip t) ∧
      (∀ k : Fin 11, 3 ≤ k.val →
        (chained (coreOf s.toChip n.val) (k.val + 1) = true → (coreOf s.toChip n.val).ctr.get (k.val + 1) < 0xFFFFFFFF →
          Does (.counterOverflow n k) s fun t => (coreOf t n.val).ctr.get k.val = 0 ∧
            (coreOf t n.val).ctr.get (k.val + 1) = (coreOf s.toChip n.val).ctr.get (k.val + 1) + 1 ∧ OnlyChanges [.apc] s.toChip t) ∧
        (chained (coreOf s.toChip n.val) (k.val + 1) = false → Does (.counterOverflow n k) s fun t => (coreOf t n.val).ctr.get k.val = 0 ∧
          (coreOf t n.val).ev.get k.val = setFld ((coreOf s.toChip n.val).ev.get k.val) 13 1 1 ∧ OnlyChanges [.apc, .ev] s.toChip t)) ∧
      (∀ v : BitVec 64, Does (.msampleClear n v) s fun t => (coreOf t n.val).samples = [] ∧ (coreOf t n.val).lost = 0 ∧
        (coreOf t n.val).sEn = bitOf v.toNat 48 ∧ (coreOf t n.val).sEvent = fld v.toNat 0 8 ∧ OnlyChanges [.apc] s.toChip t) ∧
      (∀ g : SampleTag, (coreOf s.toChip n.val).sEn = true →
        ((coreOf s.toChip n.val).samples.length < 1023 → Does (.sampleRecordWrite n g) s fun t =>
          (coreOf t n.val).samples = (coreOf s.toChip n.val).samples ++ [sampleRec (coreOf s.toChip n.val) g] ∧ OnlyChanges [.apc] s.toChip t) ∧
        ((coreOf s.toChip n.val).samples.length = 1023 → Does (.sampleRecordWrite n g) s fun t =>
          (coreOf t n.val).samples = (coreOf s.toChip n.val).samples ++ [sampleRec (coreOf s.toChip n.val) g] ∧ Raised 117 n.val t) ∧
        (1024 ≤ (coreOf s.toChip n.val).samples.length → Does (.sampleRecordWrite n g) s fun t =>
          (coreOf t n.val).samples = (coreOf s.toChip n.val).samples ∧ (coreOf t n.val).lost = min 0xFFFF ((coreOf s.toChip n.val).lost + 1) ∧
          OnlyChanges [.apc] s.toChip t))) ∧
    (pdOn s.toChip 2 = true → (stampTd s.toChip).sec ≠ s.apc.loadSec → Does .loadUpdate s fun t => (coreOf t n.val).load = loadOf s.toChip (coreOf s.toChip n.val) ∧
      (coreOf t n.val).busy = 0 ∧ OnlyChanges [.apc, .ev] s.toChip t) ∧
    (pdOn s.toChip 2 = true → (coreOf s.toChip n.val).mtimecmp.toNat ≤ (stampTd s.toChip).ns % 2 ^ 64 →
      Does (.machineTimerPending n) s fun t => t = coreUpd n.val (fun c => { c with mtip := true }) s.toChip) ∧
    (∀ (who : Requester) (v : Word), mtimeReach who s.toChip = true →
      Does (.mtimecmpLoWrite who n v) s (fun t => t.apc.held.get (mtimeKey who n.val) = some v ∧ t.apc.cores = s.apc.cores ∧
        OnlyChanges [.apc] s.toChip t) ∧
      (∀ lo, s.apc.held.get (mtimeKey who n.val) = some lo → Does (.mtimecmpHiWrite who n v) s fun t =>
        (coreOf t n.val).mtimecmp = v ++ lo ∧ t.apc.held.get (mtimeKey who n.val) = none ∧
        (coreOf t n.val).mtip = decide ((v ++ lo).toNat ≤ (stampTd s.toChip).ns % 2 ^ 64) ∧ OnlyChanges [.apc] s.toChip t) ∧
      (s.apc.held.get (mtimeKey who n.val) = none → Does (.mtimecmpHiWrite who n v) s fun t =>
        (coreOf t n.val).mtimecmp = v ++ (coreOf s.toChip n.val).mtimecmp.extractLsb' 0 32 ∧ OnlyChanges [.apc] s.toChip t) ∧
      Does (.mtimecmpLoRead who n) s fun t => t.ubfen.loads.get (reqIdx who) = (coreOf s.toChip n.val).mtimecmp.extractLsb' 0 32 ∧
        t.apc.latch.get (mtimeKey who n.val) = some ((coreOf s.toChip n.val).mtimecmp.extractLsb' 32 32) ∧ OnlyChanges [.apc, .ubfen] s.toChip t))

/-- With legal parameters: TIME_READ and TIME_STATUS return Table 9.9's values and change nothing. TIME_SET to an
absolute time, unless the domain is LOCKED and the step is over JUMP_THRESH and not forced, sets T exactly, advances
EPOCH and its mirror in PD0 by one, counts the step and raises EV_TIME_STEP's epoch record; in that case it
completes with ST_TIME_JUMP_REFUSED and T stays (with no launch in the queue). TIME_ADJUST of a domain without servo
sets INC and base to the value brought into range, or with TEMP INC alone until its end, and answers ST_CLAMPED when
it was out of range; SET_STATE locks a domain. TIME_DOMAIN_SWITCH waits for AT; DOMAIN_SWITCH_AT then, moving the
stamps of receptions in progress by the difference, makes the target the stamping domain. TIME_ALARM_SET sets its
unit; ALARM_FIRE raises EV_TIME_ALARM and moves AT on or disables it. The other domain, and everything else, stays
as it is. (09 R255, 09 R258, 09 R259, 09 R261, 09 R262, 09 R263, 09 R264, 09 R266, 09 R275, 09 R278, 09 Table 9.9) -/
def Obligations.TimeCommandsComplete : Prop :=
  (∀ (c : CmdRef) (m : Cmd) (s : State), runnable c 0x0200 s.toChip = some m → ZeroBytes m.params 0 4 →
    ∃ res, Does (.timeRead c) s (JustCompletes c stOk res s.toChip) ∧ ∀ d, d < 2 →
      Field res (20 * d) 6 (tdGet s.toChip d).sec ∧ Field res (20 * d + 6) 4 (tdGet s.toChip d).nsPart ∧
      Field res (20 * d + 10) 2 (tdGet s.toChip d).frac16 ∧ Field res (20 * d + 12) 1 (tdGet s.toChip d).st ∧
      Field res (20 * d + 16) 4 (tdGet s.toChip d).epoch) ∧
  (∀ (c : CmdRef) (m : Cmd) (d : Nat) (s : State), runnable c 0x0201 s.toChip = some m → rd m.params 0 1 = d → d ≤ 1 →
    ZeroBytes m.params 1 3 → ∃ res, Does (.timeStatus c) s (JustCompletes c stOk res s.toChip) ∧ Field res 0 1 (tdGet s.toChip d).st ∧
      Field res 1 1 (portState s.toChip d 0) ∧ Field res 2 1 (portState s.toChip d 1) ∧ Field res 20 8 (tdGet s.toChip d).inc ∧
      Field res 28 4 (tdGet s.toChip d).epoch) ∧
  (∀ (c : CmdRef) (m : Cmd) (d sec ns fl : Nat) (s : State), runnable c 0x0202 s.toChip = some m → rd m.params 0 1 = d → d ≤ 1 →
    rd m.params 1 1 = fl → (fl = 0 ∨ fl = 2) → ZeroBytes m.params 2 2 → rd m.params 4 6 = sec → rd m.params 10 4 = ns → ns < nsSec →
    ZeroBytes m.params 14 2 → launches s.toChip = [] →
    let old := (tdGet s.toChip d).t
    let new : Nat := (sec * nsSec + ns) * 2 ^ 32
    let step : Int := (new : Int) - (old : Int)
    let e := ((tdGet s.toChip d).epoch + 1) % 2 ^ 32
    let allowed := (tdGet s.toChip d).st ≠ 1 ∨ fl = 2 ∨ step.natAbs ≤ cfgGet s.toChip 0x0201 (tdId d 15) * 2 ^ 32
    (allowed → Does (.timeSet c) s fun t => (tdGet t d).t = new ∧ (tdGet t d).epoch = e ∧ (tdGet t d).steps = min 65535 ((tdGet s.toChip d).steps + 1) ∧
      (tdGet t d).inc = (tdGet s.toChip d).inc ∧ tdGet t (1 - d) = tdGet s.toChip (1 - d) ∧ (if d = 0 then t.pd0.epoch0 else t.pd0.epoch1) = e ∧
      Raised 28 (pack [(0, 1, d), (32, 32, e)]) t ∧
      (s.time.stampDom = d → pdOn s.toChip 2 = true → ∀ n, n < 8 → (coreOf t n).mtip = decide ((coreOf t n).mtimecmp.toNat ≤ (stampTd t).ns % 2 ^ 64)) ∧
      Completed c stOk (wr 8 (ofS 64 (stepNs step)) ++ wr 4 e ++ wr 8 (ofS 64 (stepNs step))) t ∧ OnlyChanges [.time, .pd0, .ev, .ubfen, .apc] s.toChip t) ∧
    (¬ allowed → Does (.timeSet c) s fun t => t.time = s.time ∧ OnlyChanges [.ev, .ubfen] s.toChip t ∧
      Completed c stTimeJumpRefused (zeros 8 ++ wr 4 (tdGet s.toChip d).epoch ++ wr 8 (ofS 64 (stepNs step))) t)) ∧
  (∀ (c : CmdRef) (m : Cmd) (d inc : Nat) (s : State), runnable c 0x0203 s.toChip = some m → rd m.params 0 1 = d → d ≤ 1 →
    ZeroBytes m.params 3 1 → rd m.params 4 8 = inc → servoEn s.toChip d = false →
    let v := clampN incMin incMax inc
    (rd m.params 1 1 = 0 → rd m.params 2 1 = 0 → inc ≠ 0 → Does (.timeAdjust c) s fun t =>
      tdGet t d = { tdGet s.toChip d with inc := v, base := v, tempEnd := none } ∧ tdGet t (1 - d) = tdGet s.toChip (1 - d) ∧
      Completed c (if v = inc then stOk else stClamped) (wr 8 v ++ wr 1 (b2n (decide (v ≠ inc))) ++ zeros 3) t ∧ OnlyChanges [.time, .ubfen] s.toChip t) ∧
    (∀ dur, rd m.params 12 4 = dur → 1 ≤ dur → dur ≤ 10000000 → rd m.params 1 1 = 1 → rd m.params 2 1 = 0 → inc ≠ 0 → Does (.timeAdjust c) s fun t =>
      tdGet t d = { tdGet s.toChip d with inc := v, tempEnd := some (s.now + dur * nsUs) } ∧ tdGet t (1 - d) = tdGet s.toChip (1 - d) ∧
      Completed c (if v = inc then stOk else stClamped) (wr 8 v ++ wr 1 (b2n (decide (v ≠ inc))) ++ zeros 3) t ∧ OnlyChanges [.time, .ubfen] s.toChip t) ∧
    (rd m.params 1 1 = 2 → rd m.params 2 1 = 1 → inc = 0 → (tdGet s.toChip d).st ≠ 1 → Does (.timeAdjust c) s fun t =>
      (tdGet t d).st = 1 ∧ (tdGet t d).inc = (tdGet s.toChip d).inc ∧ Raised 19 (pack [(0, 1, d)]) t ∧
      OnlyChanges [.time, .ev, .ubfen] s.toChip t)) ∧
  (∀ (c : CmdRef) (m : Cmd) (d : Nat) (s : State), runnable c 0x0204 s.toChip = some m → rd m.params 0 1 = d → d ≤ 1 → rd m.params 1 1 ≤ 1 →
    ZeroBytes m.params 2 2 → rd m.params 10 4 < nsSec → ZeroBytes m.params 14 2 → s.time.switch = none →
    (((tdGet s.toChip d).st = 1 ∨ rd m.params 1 1 = 1) → Does (.timeDomainSwitch c) s fun t =>
      t = { s.toChip with time := { s.time with switch := some ⟨d, rd m.params 4 6 * nsSec + rd m.params 10 4, m.tr, m.tag⟩ } }) ∧
    ((tdGet s.toChip d).st ≠ 1 → rd m.params 1 1 = 0 → Does (.timeDomainSwitch c) s (JustCompletes c stTimeUnlocked [] s.toChip))) ∧
  (∀ (w : SwitchWait) (c : CmdRef) (m : Cmd) (s : State), s.time.switch = some w → w.at_ ≤ (tdGet s.toChip w.target).ns → w.tr = c.tr.val →
    w.tag = c.tag → findCmd c s.toChip = some m → Does .domainSwitchAt s fun t =>
      t.time.stampDom = w.target ∧ t.time.switch = none ∧ t.time.td0 = s.time.td0 ∧ t.time.td1 = s.time.td1 ∧ Raised 21 w.target t ∧
      t.time.delta = ((tdGet s.toChip w.target).t : Int) - (stampTd s.toChip).t ∧
      t.dem = s.dem.shift (fun ch => bitOf s.chn.replayRun (ch / 64)) (t.time.delta / 2 ^ 16) ∧
      (∃ res, Completed c stOk res t) ∧ OnlyChanges [.time, .dem, .chn, .ev, .ubfen, .apc] s.toChip t) ∧
  (∀ (δ : Int) (r : DetRec) (m : Dem), m.recs = [r] → r.frac < 2 ^ 16 → ∃ r', (m.shift (fun _ => false) δ).recs = [r'] ∧ r'.ch = r.ch ∧
    ((r'.ns.toNat * 2 ^ 16 + r'.frac : Nat) : Int) = ((r.ns.toNat * 2 ^ 16 + r.frac : Nat) + δ) % 2 ^ 48) ∧
  (∀ (c : CmdRef) (m : Cmd) (u : Nat) (s : State), runnable c 0x0205 s.toChip = some m → rd m.params 0 1 = u → u ≤ 15 → rd m.params 1 1 ≤ 3 →
    ZeroBytes m.params 2 2 → rd m.params 10 4 < nsSec → ZeroBytes m.params 14 2 →
    (rd m.params 16 8 = 0 ∨ (1000 ≤ rd m.params 16 8 ∧ rd m.params 16 8 ≤ 1000 * nsSec)) →
    let a : Alarm := ⟨bitOf (rd m.params 1 1) 0, rd m.params 1 1 / 2, rd m.params 4 6 * nsSec + rd m.params 10 4, rd m.params 16 8⟩
    Does (.timeAlarmSet c) s (JustCompletes c stOk [] { s.toChip with time := { s.time with alarms := s.time.alarms.set u a } })) ∧
  (∀ (u : Fin 16) (s : State), let a := s.time.alarms.get u.val
    pdOn s.toChip 11 = true → a.en = true → a.at_ ≤ (tdGet s.toChip a.dom).ns → Does (.alarmFire u) s fun t =>
      Raised 27 u.val t ∧ OnlyChanges [.time, .ev] s.toChip t ∧ (∀ v, v ≠ u.val → t.time.alarms.get v = s.time.alarms.get v) ∧
      (a.period = 0 → t.time.alarms.get u.val = { a with en := false }) ∧
      (a.period ≠ 0 → ∃ k, (t.time.alarms.get u.val).at_ = a.at_ + k * a.period ∧ (tdGet s.toChip a.dom).ns < (t.time.alarms.get u.val).at_ ∧
        (t.time.alarms.get u.val).at_ ≤ (tdGet s.toChip a.dom).ns + a.period))

/-- NS_WORD_WRAP raises EV_TIME_WRAP once per wrap. RTC_REALIGN at the 60th second boundary of a LOCKED stamping domain
sets the RTC to it. TEMP_INC_END brings back the base increment. PTP_COUNTERS returns a port's counters and changes
nothing. PTP_ANNOUNCE_RECEIVE takes the Announce that a port received unless it is the instance's own or its
stepsRemoved is 255 or more: the port then follows it, and the best of the masters heard and the own data set is the
grandmaster, a new one raising EV_PTP_GM_CHANGE. PTP_ANNOUNCE_TIMEOUT raises EV_PTP_ANNOUNCE_LOST and forgets the
port's master; with no other one heard the own clock is grandmaster and a LOCKED domain with a servo goes to
HOLDOVER; SYNC_LOSS_TIMEOUT does the last as well. PTP_SYNC_SAMPLE takes offset and delay from a Sync of the
selected master, with the port's delays and the mean of both directions (E2E) or the link delay (P2P), and without
the servo changes no T and no INC. PTP_MASTER_SEND, when its interval has passed, puts the message of its kind
behind the port's frames of priority 7. PTP_TC_FORWARD sends the message on from the other port with its
correctionField advanced by the residence time between the media, and for a Sync in P2P by the ingress link's delay.
The message layouts, the data set comparison and the delay arithmetic are those of IEEE 1588, the model's reading
(assumption 106). (09 R257, 09 R262, 09 R264, 09 R265, 09 R268, 09 R270, 09 R271, 09 R272, 09 Table 9.9) -/
def Obligations.PtpAndTimeKeeping : Prop :=
  (∀ s : State, pdOn s.toChip 11 = true → (stampTd s.toChip).ns / 2 ^ 32 % 2 ^ 32 ≠ s.time.wraps → Does .nsWordWrap s fun t =>
    t.time = { s.time with wraps := (stampTd s.toChip).ns / 2 ^ 32 % 2 ^ 32 } ∧
    Raised 16 (pack [(0, 32, (stampTd s.toChip).ns / 2 ^ 32 % 2 ^ 32), (32, 1, s.time.stampDom)]) t ∧ OnlyChanges [.time, .ev] s.toChip t) ∧
  (∀ s : State, pdOn s.toChip 11 = true → (stampTd s.toChip).st = 1 → (stampTd s.toChip).sec % 60 = 0 → (stampTd s.toChip).nsPart < 30518 →
    Does .rtcRealign s fun t => t.pd0.rtc = (stampTd s.toChip).ns ∧ OnlyChanges [.pd0] s.toChip t) ∧
  (∀ (d : Fin 2) (e : Nat) (s : State), (tdGet s.toChip d.val).tempEnd = some e → e ≤ s.now → Does (.tempIncEnd d) s fun t =>
    tdGet t d.val = { tdGet s.toChip d.val with inc := (tdGet s.toChip d.val).base, tempEnd := none } ∧
    tdGet t (1 - d.val) = tdGet s.toChip (1 - d.val) ∧ OnlyChanges [.time] s.toChip t) ∧
  (∀ (c : CmdRef) (m : Cmd) (p : Nat) (s : State), runnable c 0x0206 s.toChip = some m → rd m.params 0 1 = p → p ≤ 1 → ZeroBytes m.params 1 3 →
    Does (.ptpCounters c) s (JustCompletes c stOk ((List.range 8).flatMap fun i => wr 4 (s.time.ptp.get (8 * p + i))) s.toChip)) ∧
  (∀ (d p : Fin 2) (a : Announce) (s : State), let v := (tdGet s.toChip d.val).servo
    v.heard.get p.val = some a →
    (a.sender = Config.clockId d.val ∨ 255 ≤ a.steps → Does (.ptpAnnounceReceive d p) s fun t =>
      (tdGet t d.val).servo = { v with heard := v.heard.set p.val none } ∧ OnlyChanges [.time] s.toChip t) ∧
    (∀ q b, a.sender ≠ Config.clockId d.val → a.steps < 255 → bestForeign { v with foreign := v.foreign.set p.val (some a) } = some (q, b) →
      Does (.ptpAnnounceReceive d p) s fun t => let v' := (tdGet t d.val).servo
        v'.heard.get p.val = none ∧ v'.announce.get p.val = some s.now ∧ v'.foreign = v.foreign.set p.val (some a) ∧
        ((ownSet s.toChip d.val).better b = true → v'.gm = some (Config.clockId d.val) ∧ v'.stepsRemoved = 0) ∧
        ((ownSet s.toChip d.val).better b = false → v'.gm = some b.gm ∧ v'.gmPort = q ∧ v'.stepsRemoved = b.steps + 1 ∧
          (v.gm ≠ some b.gm → Raised 24 b.gm.toNat t)) ∧ OnlyChanges [.time, .boot, .ev] s.toChip t)) ∧
  (∀ (d p : Fin 2) (s : State), let v := (tdGet s.toChip d.val).servo
    ptpLink s.toChip d.val p.val = true → ((v.announce.get p.val).isSome = true ∨ v.gm ≠ some (Config.clockId d.val)) →
    (v.announce.get p.val).getD (s.eth.get p.val).upAt +
      cfgGet s.toChip 0x0201 (tdId d.val 8) * logInterval (cfgGetI s.toChip 0x0201 (tdId d.val 7)) ≤ s.now →
    (v.foreign.get (1 - p.val) = none → Does (.ptpAnnounceTimeout d p) s fun t => let v' := (tdGet t d.val).servo
      Raised 25 p.val t ∧ v'.announce.get p.val = none ∧ v'.foreign.get p.val = none ∧ v'.gm = some (Config.clockId d.val) ∧
      (tdGet t d.val).st = (if servoEn s.toChip d.val = true ∧ (tdGet s.toChip d.val).st = 1 then 2 else (tdGet s.toChip d.val).st) ∧
      OnlyChanges [.time, .ev] s.toChip t) ∧
    (∀ b, v.foreign.get (1 - p.val) = some b → Does (.ptpAnnounceTimeout d p) s fun t => let v' := (tdGet t d.val).servo
      Raised 25 p.val t ∧ v'.announce.get p.val = none ∧ v'.foreign.get p.val = none ∧
      v'.gm = some (if (ownSet s.toChip d.val).better b = true then Config.clockId d.val else b.gm) ∧
      (tdGet t d.val).st = (tdGet s.toChip d.val).st ∧ OnlyChanges [.time, .ev] s.toChip t)) ∧
  (∀ (d : Fin 2) (s : State), servoEn s.toChip d.val = true → (tdGet s.toChip d.val).st = 1 →
    (tdGet s.toChip d.val).servo.lastSync + 4 * logInterval (cfgGetI s.toChip 0x0201 (tdId d.val 6)) ≤ s.now →
    Does (.syncLossTimeout d) s fun t => tdGet t d.val = { tdGet s.toChip d.val with st := 2 } ∧ Raised 20 d.val t ∧
      OnlyChanges [.time, .ev] s.toChip t) ∧
  (∀ (d p : Fin 2) (f : Nat) (x : SyncIn) (o : Int) (s : State), let v := (tdGet s.toChip d.val).servo
    ptpLink s.toChip d.val p.val = true → v.gmPort = p.val → v.gm ≠ none → v.gm ≠ some (Config.clockId d.val) →
    v.sync = some x → x.port = p.val → x.origin = some o → servoEn s.toChip d.val = false →
    Does (.ptpSyncSample d p f) s fun t => let v' := (tdGet t d.val).servo
      let there := x.stamp - cfgGetI s.toChip 0x0201 (0x200 + 0x10 * p.val + 1) * 65536 / 10 - (o + x.corr)
      let delay := if cfgGet s.toChip 0x0201 (tdId d.val 3) = 1 then v.linkDelay.get p.val else (v.ms.map fun m => (there + m) / 2).getD 0
      v'.offset = (there - delay - cfgGetI s.toChip 0x0201 (0x200 + 0x10 * p.val + 2) * 65536 / 10) / 65536 ∧ v'.delay = delay / 65536 ∧
      v'.freq = f ∧ v'.lastSync = s.now ∧ v'.sync = none ∧ (tdGet t d.val).t = (tdGet s.toChip d.val).t ∧
      (tdGet t d.val).inc = (tdGet s.toChip d.val).inc ∧ OnlyChanges [.time] s.toChip t) ∧
  (∀ (d p : Fin 2) (k : PtpSend) (s : State), let v := (tdGet s.toChip d.val).servo
    let n := 4 * p.val + sendNo k
    let f := ptpFrame s.toChip d.val p.val (sendMsg s.toChip d.val p.val k (v.seqs.get n))
    ptpLink s.toChip d.val p.val = true → (∀ t, v.sentAt.get n = some t → t + logInterval (sendLog s.toChip d.val k) ≤ s.now) →
    (k = .delay → cfgGet s.toChip 0x0201 (tdId d.val 3) = 1 ∨ portState s.toChip d.val p.val = 9) →
    (k ≠ .delay → portState s.toChip d.val p.val = 6) → f.length + 4 ≤ ethCfg s.toChip p.val 4 →
    Does (.ptpMasterSend d p k) s fun t => let v' := (tdGet t d.val).servo
      (t.eth.get p.val).egress.get 7 = (s.eth.get p.val).egress.get 7 ++ [(f ++ zeros (60 - f.length), none)] ∧
      (t.eth.get (1 - p.val)) = s.eth.get (1 - p.val) ∧ v'.sentAt.get n = some s.now ∧ v'.seqs.get n = (v.seqs.get n + 1) % 65536 ∧
      t.time.ptp.get (8 * p.val + 3) = (if k = .delay then satAdd 0xFFFFFFFF (s.time.ptp.get (8 * p.val + 3)) 1 else s.time.ptp.get (8 * p.val + 3)) ∧
      OnlyChanges [.time, .eth] s.toChip t) ∧
  (∀ (p : Fin 2) (f : Bytes) (stamp : Int) (rest : List (Bytes × Int)) (tr : Nat) (s : State), s.time.tcIn.get p.val = (f, stamp) :: rest →
    tcActive s.toChip = true → ptpTransport f = some tr → Does (.ptpTcForward p) s fun t =>
      let dom := cfgGet s.toChip 0x0201 3
      let m := f.drop (msgOff f tr)
      let c := msgCorr m + (miiStamp s.toChip dom + portDelay s.toChip (1 - p.val) 0 - (stamp - portDelay s.toChip p.val 1)) +
        (if cfgGet s.toChip 0x0201 (tdId dom 3) = 1 ∧ msgType m = 0 then (tdGet s.toChip dom).servo.linkDelay.get p.val else 0)
      t.time.tcOut = some (1 - p.val, c) ∧ t.time.tcIn.get p.val = rest ∧
      (t.eth.get (1 - p.val)).sent = (s.eth.get (1 - p.val)).sent ++ [putFrameCorr c f tr] ∧ OnlyChanges [.time, .cnt, .eth] s.toChip t)

/-- With legal parameters: SEC_STATUS, KEY_INFO, PUBLIC_READ, TAMPER_LOG_READ and CERT_READ return what the vault, the
log and the locked region hold and change nothing (KEY_INFO of no key: ST_NOT_FOUND; PUBLIC_READ of a zeroised
vault: ST_TAMPERED). RANDOM returns LENGTH bytes and takes one DRBG request; without the DRBG it completes with
ST_BUSY. DRBG_RESEED after 65,536 requests or 60 s starts a new count. ENTROPY_HEALTH_FAIL stops the DRBG and raises
EV_ENTROPY_FAIL; ENTROPY_SAMPLES_PASS starts it again. TAMPER_SAMPLE of an enabled loop, 250 us after its last, is
classified; a third sample in a row of one class latches and logs the alarm, and after unseal in service zeroises
the vault (with the raise of EV_TAMPER and EV_ZEROISE); a good sample clears the run. (13 R371, 13 R380, 13 R381, 13
R389, 13 R390, 13 R391, 13 R397, 13 R399, 13 Table 13.4, 13 Table 13.11, 13 Table 13.12) -/
def Obligations.SecurityReadsAndEntropy : Prop :=
  (∀ (c : CmdRef) (m : Cmd) (s : State), runnable c 0x0B00 s.toChip = some m → ZeroBytes m.params 0 4 →
    ∃ res, Does (.secStatus c) s (JustCompletes c stOk res s.toChip) ∧ res.length = 32 ∧ rd res 0 1 % 8 = lcNow s.toChip % 8 ∧
      rd res 0 1 / 8 % 8 = s.sec.vault % 8 ∧ rd res 1 1 % 2 = b2n s.pd0.tampLatch ∧ Field res 4 4 s.sec.gen ∧
      Field res 8 4 (spanSum s.sec.keys) ∧ Field res 20 4 (signedCtr s.toChip)) ∧
  (∀ (c : CmdRef) (m : Cmd) (h : Nat) (s : State), runnable c 0x0B07 s.toChip = some m → underWay c s.toChip = false → 1 ≤ lcNow s.toChip →
    lcNow s.toChip ≤ 3 → rd m.params 0 4 = h → h < 2 ^ 18 →
    (∀ k, findKey s.toChip h = some k → ∃ res, Does (.keyInfo c) s (JustCompletes c stOk res s.toChip) ∧ res.length = 16 ∧ Field res 0 4 h ∧
      rd res 4 1 % 16 = k.typ % 16 ∧ rd res 4 1 / 16 % 4 = k.attr % 4 ∧ rd res 5 1 % 8 = k.level % 8 ∧ Field res 8 4 k.parent) ∧
    (findKey s.toChip h = none → Does (.keyInfo c) s (JustCompletes c stNotFound [] s.toChip))) ∧
  (∀ (c : CmdRef) (m : Cmd) (h : Nat) (s : State), runnable c 0x0B0D s.toChip = some m → rd m.params 0 4 = h → h < 2 ^ 18 →
    (s.sec.vault ≠ 1 → Does (.publicRead c) s (JustCompletes c stTampered [] s.toChip)) ∧
    (∀ k, s.sec.vault = 1 → findKey s.toChip h = some k → orphaned 5 s.toChip h = false → k.typ = 4 → k.mat.length = 133 →
      Does (.publicRead c) s (JustCompletes c stOk k.mat s.toChip))) ∧
  (∀ (c : CmdRef) (m : Cmd) (n : Nat) (s : State), runnable c 0x0B10 s.toChip = some m → rd m.params 0 1 = n → n ≤ 31 → ZeroBytes m.params 1 3 →
    Does (.tamperLogRead c) s (JustCompletes c stOk (wr 1 (s.pd0.tampLog.drop n).length ++ wr 1 (b2n s.pd0.tampOver) ++ zeros 2 ++
      wr 4 s.pd0.tampCount ++ (s.pd0.tampLog.drop n).flatten) s.toChip)) ∧
  (∀ (c : CmdRef) (m : Cmd) (s : State), runnable c 0x0B23 s.toChip = some m → ZeroBytes m.params 0 4 →
    Does (.certRead c) s (JustCompletes c stOk (wr 2 (s.sec.locked.cert.get []).length ++ zeros 2 ++ s.sec.locked.cert.get []) s.toChip)) ∧
  (∀ (c : CmdRef) (m : Cmd) (n : Nat) (s : State), runnable c 0x0B0B s.toChip = some m → rd m.params 0 2 = n → 4 ≤ n → n ≤ 4096 → n % 4 = 0 →
    ZeroBytes m.params 2 2 → (s.sec.drbgOn = false → Does (.random c) s (JustCompletes c stBusy [] s.toChip)) ∧
    (s.sec.drbgOn = true → Does (.random c) s fun t => (∃ b, b.length = n ∧ Completed c stOk b t) ∧
      t.sec = { s.sec with drbgReqs := t.sec.drbgReqs, drbgAt := t.sec.drbgAt } ∧
      t.sec.drbgReqs = (if 65536 ≤ s.sec.drbgReqs then 1 else s.sec.drbgReqs + 1) ∧ OnlyChanges [.sec, .ubfen, .freeCtr] s.toChip t)) ∧
  (∀ s : State, s.sec.drbgOn = true → (65536 ≤ s.sec.drbgReqs ∨ s.sec.drbgAt + 60 * nsSec ≤ s.now) → Does .drbgReseed s fun t =>
    t = { s.toChip with sec := { s.sec with drbgReqs := 0, drbgAt := s.now } }) ∧
  (∀ (k : Fin 4) (s : State), pdOn s.toChip 1 = true → k.val ≠ 0 → Does (.entropyHealthFail k) s fun t => t.sec = { s.sec with drbgOn := false, failCode := k.val } ∧
    Raised 108 k.val t ∧ OnlyChanges [.sec, .ev] s.toChip t) ∧
  (∀ s : State, pdOn s.toChip 1 = true → s.sec.drbgOn = false → Does .entropySamplesPass s fun t =>
    t = { s.toChip with sec := { s.sec with drbgOn := true, failCode := 0, drbgReqs := 0, drbgAt := s.now } }) ∧
  (∀ (l : Fin 2) (r : Nat) (s : State), s.boot.wait ≠ .vaon → (s.sec.loops.get l.val).next ≤ s.now →
    let set := tampSet s.toChip
    let base := if l.val = 1 then set.baseB else set.baseA
    let cl := loopClass r base set.delta
    let row := if cl = 0 then 0 else if (s.sec.loops.get l.val).cond = cl then (s.sec.loops.get l.val).row + 1 else 1
    (if l.val = 1 then set.enB else set.enA) = true →
    (row ≠ 3 → Does (.tamperSample l r) s fun t => t = { s.toChip with sec := { s.sec with loops := s.sec.loops.set l.val ⟨min 0xFFFF r, cl, row, s.now + 250000⟩ } }) ∧
    (row = 3 → Does (.tamperSample l r) s fun t => t.sec.loops.get l.val = ⟨min 0xFFFF r, cl, 3, s.now + 250000⟩ ∧ t.pd0.tampLatch = true ∧
      t.pd0.tampCount = satAdd 0xFFFFFFFF s.pd0.tampCount 1 ∧ t.pd0.tampOver = (s.pd0.tampOver || decide (32 ≤ s.pd0.tampLog.length)) ∧
      (∃ e : Bytes, e.length = 16 ∧ Field e 0 4 (s.pd0.rtc / nsSec) ∧
        t.pd0.tampLog = (if 32 ≤ s.pd0.tampLog.length then s.pd0.tampLog.take 31 else s.pd0.tampLog) ++ [e]) ∧
      OnlyChanges [.sec, .pd0, .ev, .boot, .img, .ubfen, .freeCtr] s.toChip t ∧
      (s.boot.tamperHold = false → s.boot.step ≠ 3 → s.boot.step ≠ 4 → 4 ≤ s.boot.stage → s.sec.vault = 1 → t.sec.vault = 2 ∧
        t.sec.root = none ∧ t.sec.drbgOn = false ∧ t.sec.ops = [] ∧ (∀ k ∈ t.sec.keys, ∀ b ∈ k.mat, b = 0) ∧
        t.sec.keys.map Key.handle = s.sec.keys.map Key.handle ∧ t.sec.locked = s.sec.locked ∧ (∃ p, p ≤ 2000 ∧ Raised 101 p t) ∧
        (pdOn s.toChip 1 = true → Raised 100 (pack [(0, 1, l.val), (1, 2, cl - 1)]) t))))

/-- In a state of Table 13.7 that needs no trailer, with legal parameters: TAMPER_ARM stores its settings and, as each
enabled loop's base, the mean of its 64 samples; a loop enabled outside 1-50 kOhm is refused with nothing changed.
LIFECYCLE_SET moves RETURNED to PROVISION, and BLANK, PROVISION or RETURNED to SCRAPPED, where root, keys and helper
data are gone; any other move is ST_LIFECYCLE. PROVISION to DEPLOYED needs a trailer for this die with a later
counter, signed by the operator key: it stores the counter, clears the debug enable and enters DEPLOYED; with a bad
signature it completes with ST_SIG_INVALID, reason 3, and raises EV_SIG_FAIL. OPERATOR_KEY_SET stores a point of
P-521 and refuses another. CERT_SET stores its octets. DEBUG_SET stores the enable and answers the one in effect.
Every transition raises EV_LIFECYCLE. The rest of the locked region stays. (13 R370, 13 R383, 13 R384, 13 R385, 13
R386, 13 R387, 13 R389, 13 R399, 13 R400, 13 Table 13.6, 13 Table 13.7) -/
def Obligations.LockedRegionWrites : Prop :=
  (∀ (c : CmdRef) (m : Cmd) (la lb : List Nat) (d : Nat) (s : State), la.length = 64 → lb.length = 64 → runnable c 0x0B12 s.toChip = some m → underWay c s.toChip = false →
    (lcNow s.toChip = 1 ∨ lcNow s.toChip = 3) → rd m.params 0 1 ≤ 7 → rd m.params 1 1 = d → 1 ≤ d → d ≤ 50 → ZeroBytes m.params 2 2 →
    let f := rd m.params 0 1
    let a := la.foldl (· + ·) 0 / 64
    let b := lb.foldl (· + ·) 0 / 64
    let ok := (bitOf f 0 = true → 100 ≤ a ∧ a ≤ 5000) ∧ (bitOf f 1 = true → 100 ≤ b ∧ b ≤ 5000)
    let x := if bitOf f 0 = true then a else 0
    let y := if bitOf f 1 = true then b else 0
    (ok → Does (.tamperArm c la lb) s fun t => tampSet t = ⟨bitOf f 0, bitOf f 1, bitOf f 2, d, x, y⟩ ∧ Completed c stOk (wr 2 x ++ wr 2 y) t ∧
      (∀ n, n < 2 → t.sec.loops.get n = { s.sec.loops.get n with cond := 0, row := 0 }) ∧ t.sec.locked = { s.sec.locked with tamper := t.sec.locked.tamper } ∧
      t.sec = { s.sec with loops := t.sec.loops, locked := t.sec.locked } ∧ OnlyChanges [.sec, .ubfen] s.toChip t) ∧
    (¬ ok → Does (.tamperArm c la lb) s (JustCompletes c stBadParam (badOff 0) s.toChip))) ∧
  (∀ (c : CmdRef) (m : Cmd) (s : State), runnable c 0x0B20 s.toChip = some m → underWay c s.toChip = false → ZeroBytes m.params 1 3 →
    let a := lcNow s.toChip
    let b := rd m.params 0 1
    (a = 3 → b = 1 → Does (.lifecycleSet c) s fun t => lcNow t = 1 ∧ t.sys.lc = 1 ∧ Completed c stOk [3, 1, 0, 0] t ∧ t.sec.keys = s.sec.keys ∧
      Raised 107 0x103 t ∧ OnlyChanges [.sec, .sys, .ev, .ubfen] s.toChip t) ∧
    (a = 0 ∨ a = 1 ∨ a = 3 → b = 4 → Does (.lifecycleSet c) s fun t => lcNow t = 4 ∧ t.sys.lc = 4 ∧ Completed c stOk [byte a, 4, 0, 0] t ∧
      t.sec.vault = 0 ∧ t.sec.root = none ∧ t.sec.keys = [] ∧ t.sec.locked.helper.get none = none ∧ Raised 107 (a + 0x400) t ∧
      OnlyChanges [.sec, .sys, .ev, .ubfen] s.toChip t) ∧
    (lcMove a b = none → Does (.lifecycleSet c) s (JustCompletes c stLifecycle [] s.toChip))) ∧
  (∀ (c : CmdRef) (m : Cmd) (k : Bytes) (s : State), runnable c 0x0B20 s.toChip = some m → underWay c s.toChip = false → lcNow s.toChip = 1 →
    s.sys.debugRoot = false → m.params.length = 152 → rd m.params 0 1 = 2 → ZeroBytes m.params 1 3 →
    (m.params.drop 4).take 8 = wr 8 s.sys.serial.toNat → later 32 (rd m.params 12 4) (signedCtr s.toChip) = true → opKey s.toChip = some k →
    Does (.lifecycleSet c) s fun t =>
      (Config.p521Verify k (fitB 64 (Config.sha512 (wr 2 0x0B20 ++ m.params.take 4 ++ (m.params.drop 4).take 16))) ((m.params.drop 20).take 132) = true →
        lcNow t = 2 ∧ t.sys.lc = 2 ∧ signedCtr t = rd m.params 12 4 ∧ t.sec.locked.debugEn.get true = false ∧ opKey t = opKey s.toChip ∧
        Completed c stOk [1, 2, 0, 0] t ∧ Raised 107 0x201 t ∧ OnlyChanges [.sec, .sys, .ev, .ubfen] s.toChip t) ∧
      (Config.p521Verify k (fitB 64 (Config.sha512 (wr 2 0x0B20 ++ m.params.take 4 ++ (m.params.drop 4).take 16))) ((m.params.drop 20).take 132) = false →
        t.sec = s.sec ∧ t.sys = s.sys ∧ Completed c stSigInvalid [3] t ∧ Raised 110 0x0B20 t ∧ OnlyChanges [.ev, .ubfen] s.toChip t)) ∧
  (∀ (c : CmdRef) (m : Cmd) (s : State), runnable c 0x0B21 s.toChip = some m → underWay c s.toChip = false → lcNow s.toChip = 1 →
    133 ≤ m.params.length → ZeroBytes m.params 133 3 → Does (.operatorKeySet c) s fun t =>
      (Config.p521On (m.params.take 133) = true → opKey t = some (m.params.take 133) ∧ Completed c stOk [] t ∧
        t.sec.locked = { s.sec.locked with opKey := t.sec.locked.opKey } ∧ (∀ e ∈ s.sec.keys, e.handle ≠ 0x34 → e ∈ t.sec.keys) ∧
        (s.sec.vault = 1 → ∃ e ∈ t.sec.keys, e.handle = 0x34 ∧ e.typ = 4 ∧ e.attr = 1 ∧ e.mat = m.params.take 133) ∧
        OnlyChanges [.sec, .ubfen] s.toChip t) ∧
      (Config.p521On (m.params.take 133) = false → JustCompletes c stBadParam (badOff 0) s.toChip t)) ∧
  (∀ (c : CmdRef) (m : Cmd) (n : Nat) (s : State), runnable c 0x0B22 s.toChip = some m → underWay c s.toChip = false → lcNow s.toChip = 1 →
    rd m.params 0 2 = n → 1 ≤ n → n ≤ 4096 → 4 + n ≤ m.params.length → ZeroBytes m.params 2 2 → Does (.certSet c) s fun t =>
      t.sec.locked.cert.get [] = (m.params.drop 4).take n ∧ t.sec.locked = { s.sec.locked with cert := t.sec.locked.cert } ∧
      t.sec = { s.sec with locked := t.sec.locked } ∧ Completed c stOk [] t ∧ OnlyChanges [.sec, .ubfen] s.toChip t) ∧
  (∀ (c : CmdRef) (m : Cmd) (s : State), runnable c 0x0B24 s.toChip = some m → underWay c s.toChip = false →
    (lcNow s.toChip = 0 ∨ lcNow s.toChip = 1 ∨ lcNow s.toChip = 3) → rd m.params 0 1 ≤ 1 → ZeroBytes m.params 1 3 → Does (.debugSet c) s fun t =>
      t.sec.locked.debugEn.get false = decide (rd m.params 0 1 = 1) ∧ t.sec.locked = { s.sec.locked with debugEn := t.sec.locked.debugEn } ∧
      t.sec = { s.sec with locked := t.sec.locked } ∧ t.sys.debugRoot = s.sys.debugRoot ∧
      Completed c stOk (wr 1 (b2n s.sys.debugRoot) ++ zeros 3) t ∧ OnlyChanges [.sec, .ubfen] s.toChip t)

/-- In PROVISION, DEPLOYED or RETURNED, with the vault unsealed, legal parameters, a usable key of the right attribute,
a parent above level 4, room for a persistent key, and the DRBG where it is needed: KEY_GENERATE, KEY_DERIVE,
KEY_IMPORT, KEY_EXPORT, KEY_AGREE, SIGN, VERIFY and ATTEST append one operation to the engine's queue, with its
P-521 share and the keys it uses, and nothing else changes but the DRBG's count. (KEY_AGREE with a point off P-521
completes with ST_BAD_PARAM at offset 8 instead.) A key of another attribute answers ST_ATTR_DENIED, counted; a
zeroised vault ST_TAMPERED. (13 R372, 13 R373, 13 R374, 13 R375, 13 R378, 13 R379, 13 R386, 13 R399, 13 Table 13.3,
13 Table 13.7) -/
def Obligations.KeyOperationsAreSubmitted : Prop :=
  (∀ (c : CmdRef) (m : Cmd) (l : Nat) (s : State), runnable c 0x0B01 s.toChip = some m → underWay c s.toChip = false → 1 ≤ lcNow s.toChip →
    lcNow s.toChip ≤ 3 → rd m.params 0 1 ≤ 3 → rd m.params 1 1 ≤ 3 → rd m.params 2 1 ≤ 7 → ZeroBytes m.params 3 1 → rd m.params 4 4 < 2 ^ 18 →
    let o := keyOpts (rd m.params 0 1) (rd m.params 1 1) (rd m.params 2 1)
    o.fits = true → childLevel s.toChip (rd m.params 4 4) = .inr l → (l = 2 → o.persist = true) →
    (o.persist = true → persistSpan s.toChip + o.span ≤ 2048) → s.sec.drbgOn = true →
    Does (.keyGenerate c) s (Submits ⟨c, decide (o.typ = 3), [rd m.params 4 4]⟩ s.toChip)) ∧
  (∀ (c : CmdRef) (m : Cmd) (k : Key) (s : State), runnable c 0x0B02 s.toChip = some m → underWay c s.toChip = false → 1 ≤ lcNow s.toChip →
    lcNow s.toChip ≤ 3 → rd m.params 0 1 ≤ 3 → rd m.params 1 1 ≤ 3 → rd m.params 2 1 ≤ 7 → 1 ≤ rd m.params 3 1 → rd m.params 3 1 ≤ 64 →
    rd m.params 4 4 < 2 ^ 18 →
    let o := keyOpts (rd m.params 0 1) (rd m.params 1 1) (rd m.params 2 1)
    o.fits = true → keyUse s.toChip (rd m.params 4 4) 3 = .inr k → k.level < 4 → (k.level = 1 → o.persist = true) →
    (o.persist = true → persistSpan s.toChip + o.span ≤ 2048) →
    Does (.keyDerive c) s (Submits ⟨c, false, [k.handle]⟩ s.toChip)) ∧
  (∀ (c : CmdRef) (m : Cmd) (k : Key) (s : State), runnable c 0x0B03 s.toChip = some m → underWay c s.toChip = false → 1 ≤ lcNow s.toChip →
    lcNow s.toChip ≤ 3 → rd m.params 0 4 < 2 ^ 18 →
    let o := blobOpts (m.params.drop 4)
    o.typ ≤ 4 → o.fits = true → m.params.length = 48 + 16 * keySpan o.typ → keyUse s.toChip (rd m.params 0 4) 2 = .inr k → k.level < 4 →
    (k.level = 1 → o.persist = true) → (o.persist = true → persistSpan s.toChip + o.span ≤ 2048) →
    Does (.keyImport c) s (Submits ⟨c, false, [k.handle]⟩ s.toChip)) ∧
  (∀ (c : CmdRef) (m : Cmd) (w k : Key) (s : State), runnable c 0x0B04 s.toChip = some m → underWay c s.toChip = false → 1 ≤ lcNow s.toChip →
    lcNow s.toChip ≤ 3 → rd m.params 0 4 < 2 ^ 18 → rd m.params 4 4 < 2 ^ 18 → keyUse s.toChip (rd m.params 0 4) 2 = .inr w →
    findKey s.toChip (rd m.params 4 4) = some k → orphaned 5 s.toChip k.handle = false → s.sec.drbgOn = true →
    (k.exprt = true → Does (.keyExport c) s (Submits ⟨c, false, [w.handle, k.handle]⟩ s.toChip)) ∧
    (k.exprt = false → Does (.keyExport c) s fun t => t.sec = { s.sec with attrDenied := satAdd 0xFFFFFFFF s.sec.attrDenied 1 } ∧
      Completed c stAttrDenied [] t ∧ OnlyChanges [.sec, .ubfen] s.toChip t)) ∧
  (∀ (c : CmdRef) (m : Cmd) (k : Key) (s : State), runnable c 0x0B08 s.toChip = some m → underWay c s.toChip = false → 1 ≤ lcNow s.toChip →
    lcNow s.toChip ≤ 3 → rd m.params 0 4 < 2 ^ 18 → rd m.params 4 1 ≤ 3 → rd m.params 5 1 ≤ 3 → rd m.params 6 1 ≤ 7 → ZeroBytes m.params 7 1 →
    ZeroBytes m.params 141 3 →
    let o := keyOpts (rd m.params 4 1) (rd m.params 5 1) (rd m.params 6 1)
    o.fits = true → keyUse s.toChip (rd m.params 0 4) 3 = .inr k → k.typ = 3 → k.level < 4 → (k.level = 1 → o.persist = true) →
    (o.persist = true → persistSpan s.toChip + o.span ≤ 2048) → Does (.keyAgree c) s fun t =>
      (Config.p521On ((m.params.drop 8).take 133) = true → Submits ⟨c, true, [k.handle]⟩ s.toChip t) ∧
      (Config.p521On ((m.params.drop 8).take 133) = false → JustCompletes c stBadParam (badOff 8) s.toChip t)) ∧
  (∀ (c : CmdRef) (m : Cmd) (k : Key) (s : State), runnable c 0x0B09 s.toChip = some m → underWay c s.toChip = false → 1 ≤ lcNow s.toChip →
    lcNow s.toChip ≤ 3 → rd m.params 0 4 < 2 ^ 18 → keyUse s.toChip (rd m.params 0 4) 0 = .inr k → k.typ = 3 → s.sec.drbgOn = true →
    Does (.sign c) s (Submits ⟨c, true, [k.handle]⟩ s.toChip)) ∧
  (∀ (c : CmdRef) (m : Cmd) (k : Key) (s : State), runnable c 0x0B0A s.toChip = some m → underWay c s.toChip = false → 1 ≤ lcNow s.toChip →
    lcNow s.toChip ≤ 3 → rd m.params 0 4 < 2 ^ 18 → keyUse s.toChip (rd m.params 0 4) 1 = .inr k → k.typ = 4 →
    Does (.verify c) s (Submits ⟨c, true, [k.handle]⟩ s.toChip)) ∧
  (∀ (c : CmdRef) (m : Cmd) (k : Key) (s : State), runnable c 0x0B0C s.toChip = some m → underWay c s.toChip = false → 1 ≤ lcNow s.toChip →
    lcNow s.toChip ≤ 3 → keyUse s.toChip 0x08 0 = .inr k → s.sec.drbgOn = true → Does (.attest c) s (Submits ⟨c, true, [k.handle]⟩ s.toChip)) ∧
  (∀ (c : CmdRef) (m : Cmd) (k : Key) (s : State), runnable c 0x0B09 s.toChip = some m → underWay c s.toChip = false → 1 ≤ lcNow s.toChip →
    lcNow s.toChip ≤ 3 → rd m.params 0 4 < 2 ^ 18 →
    (s.sec.vault ≠ 1 → Does (.sign c) s (JustCompletes c stTampered [] s.toChip)) ∧
    (s.sec.vault = 1 → findKey s.toChip (rd m.params 0 4) = some k → orphaned 5 s.toChip (rd m.params 0 4) = false → k.attr ≠ 0 →
      Does (.sign c) s fun t => t.sec = { s.sec with attrDenied := satAdd 0xFFFFFFFF s.sec.attrDenied 1 } ∧ Completed c stAttrDenied [] t ∧
        OnlyChanges [.sec, .ubfen] s.toChip t))

/-- CRYPTO_OP_COMPLETE of an operation that runs takes it out of the engine: SIGN answers 132 bytes, VERIFY the verdict,
and a key created without PERSIST takes free handles (twins an even one) below its parent and the command answers
the first. JOURNAL_COMMIT_DONE of a creation makes the keys exist, writes the record of the next generation into the
other slot, and completes the command. KEY_INVALIDATE of a usable key of level 3 or 4 orphans it and its twin at
once, starts a sweep, stops the creations below them that wait for their commit, and, unless it or a descendant
persists, completes with the count of descendants; of level 1 or 2 it is ST_LIFECYCLE. ORPHAN_SWEEP_END marks the
key and all below it, their material zeroised, and raises EV_KEY_ORPHANED. KEY_RECLAIM removes exactly the unusable
keys. (13 R372, 13 R374, 13 R375, 13 R379, 13 R380, 13 R381, 13 R382, 13 R395, 13 R399, 13 Table 13.13) -/
def Obligations.KeyOperationsEndAndKeysOrphan : Prop :=
  (∀ (c : CmdRef) (m : Cmd) (k : Key) (s : State), findCmd c s.toChip = some m → opRuns c s.toChip = true → m.opcode = 0x0B09 →
    keyUse s.toChip (rd m.params 0 4) 0 = .inr k → Does (.cryptoOpComplete c) s fun t => (∃ g, g.length = 132 ∧ Completed c stOk g t) ∧
      t.sec = { s.sec with ops := s.sec.ops.filter fun o => o.cmd ≠ c } ∧ OnlyChanges [.sec, .freeCtr, .ubfen] s.toChip t) ∧
  (∀ (c : CmdRef) (m : Cmd) (k : Key) (s : State), findCmd c s.toChip = some m → opRuns c s.toChip = true → m.opcode = 0x0B0A →
    keyUse s.toChip (rd m.params 0 4) 1 = .inr k → Does (.cryptoOpComplete c) s (JustCompletes c stOk
      (wr 4 (b2n (Config.p521Verify k.mat ((m.params.drop 4).take 64) ((m.params.drop 68).take 132))))
      { s.toChip with sec := { s.sec with ops := s.sec.ops.filter fun o => o.cmd ≠ c } })) ∧
  (∀ (c : CmdRef) (m : Cmd) (l : Nat) (s : State), findCmd c s.toChip = some m → opRuns c s.toChip = true → m.opcode = 0x0B01 →
    let o := keyOpts (rd m.params 0 1) (rd m.params 1 1) (rd m.params 2 1)
    childLevel s.toChip (rd m.params 4 4) = .inr l → o.persist = false →
    (freeRun (2 * (heldKeys s.toChip).length + 4) (heldKeys s.toChip) o.span o.twin 64).isSome = true → Does (.cryptoOpComplete c) s fun t =>
      ∃ h ks, t.sec.keys = s.sec.keys ++ ks ∧ Completed c stOk (wr 4 h) t ∧ (∃ k ∈ ks, k.handle = h) ∧
        (∀ k ∈ ks, k.typ = o.typ ∧ k.level = l ∧ k.parent = rd m.params 4 4 ∧ k.exprt = o.exprt ∧ k.persist = false ∧ k.st = 0 ∧ h ≤ k.handle ∧
          k.handle < h + o.span) ∧
        (o.twin = true → h % 2 = 0 ∧ (∃ k ∈ ks, k.handle = h ∧ k.attr = 1) ∧ ∃ k ∈ ks, k.handle = h + 1 ∧ k.attr = 0) ∧
        (o.twin = false → ∀ k ∈ ks, k.attr = o.attr) ∧ 64 ≤ h ∧ h + o.span ≤ 0x40000 ∧
        (∀ k ∈ heldKeys s.toChip, k.handle + keySpan k.typ ≤ h ∨ h + o.span ≤ k.handle) ∧
        t.sec = { s.sec with ops := s.sec.ops.filter (fun o => o.cmd ≠ c), keys := t.sec.keys } ∧
        OnlyChanges [.sec, .freeCtr, .ubfen] s.toChip t) ∧
  (∀ (c : CmdRef) (m : Cmd) (k : Key) (ks : List Key) (rest : List JCommit) (s : State), s.sec.commits = ⟨some c, .create (k :: ks)⟩ :: rest →
    findCmd c s.toChip = some m → Does .journalCommitDone s fun t => t.sec.keys = s.sec.keys ++ k :: ks ∧ t.sec.commits = rest ∧
      t.sec.inB = !s.sec.inB ∧ t.sec.gen = (s.sec.gen + 1) % 2 ^ 32 ∧ Completed c stOk (wr 4 k.handle) t ∧
      (∃ r, t.sec.slots.get (jBase s.toChip + (if s.sec.inB = true then 0 else 1)) = some r ∧ r.gen = t.sec.gen ∧ r.ok = true ∧ r.keys = jKeys t ∧
        Field r.image 0 4 0x4A520001 ∧ Field r.image 4 4 r.gen ∧ Field r.image 12 4 s.sec.bootCount ∧
        r.image.drop (r.image.length - 4) = wr 4 0xC3C3A5A5) ∧
      t.sec.slots.get (jBase s.toChip + (if s.sec.inB = true then 1 else 0)) = s.sec.slots.get (jBase s.toChip + (if s.sec.inB = true then 1 else 0)) ∧
      OnlyChanges [.sec, .ubfen] s.toChip t) ∧
  (∀ (c : CmdRef) (m : Cmd) (k : Key) (s : State), runnable c 0x0B05 s.toChip = some m → underWay c s.toChip = false → 1 ≤ lcNow s.toChip →
    lcNow s.toChip ≤ 3 → rd m.params 0 4 < 2 ^ 18 → s.sec.vault = 1 → findKey s.toChip (rd m.params 0 4) = some k →
    (k.level ≤ 2 → Does (.keyInvalidate c) s (JustCompletes c stLifecycle [] s.toChip)) ∧
    (2 < k.level → orphaned 5 s.toChip k.handle = false → Does (.keyInvalidate c) s fun t =>
      (∀ e ∈ s.sec.keys, e.handle ∈ twinOf k → { e with st := 1 } ∈ t.sec.keys) ∧ (∀ e ∈ s.sec.keys, e.handle ∉ twinOf k → e ∈ t.sec.keys) ∧
      t.sec.keys.length = s.sec.keys.length ∧ t.sec.sweeps = s.sec.sweeps ++ [(k.handle, (descendants s.toChip k.handle).length)] ∧
      (let kept := s.sec.commits.filter fun j => !createsUnder (orphaned 5 t) j
       let per := k.persist || (descendants s.toChip k.handle).any fun e => e.persist
       (per = false → t.sec.commits = kept ∧ Completed c stOk (wr 4 (descendants s.toChip k.handle).length) t) ∧
       (per = true → t.sec.commits = kept ++ [⟨some c, .remove k.handle (descendants s.toChip k.handle).length⟩])) ∧
      OnlyChanges [.sec, .ubfen] s.toChip t)) ∧
  (∀ (h n : Nat) (rest : List (Nat × Nat)) (s : State), s.sec.sweeps = (h, n) :: rest → Does .orphanSweepEnd s fun t =>
    t.sec = { s.sec with sweeps := rest, keys := t.sec.keys } ∧ Raised 106 (pack [(0, 18, h), (32, 32, n)]) t ∧
    t.sec.keys.map Key.handle = s.sec.keys.map Key.handle ∧
    (∀ e ∈ s.sec.keys, orphaned 5 s.toChip e.handle = true → below 5 s.toChip h e.handle = true →
      { e with st := 1, mat := zeros e.mat.length } ∈ t.sec.keys) ∧ OnlyChanges [.sec, .ev] s.toChip t) ∧
  (∀ (c : CmdRef) (m : Cmd) (s : State), runnable c 0x0B06 s.toChip = some m → underWay c s.toChip = false → 1 ≤ lcNow s.toChip →
    lcNow s.toChip ≤ 3 → ZeroBytes m.params 0 4 → Does (.keyReclaim c) s fun t =>
      (∀ k, k ∈ t.sec.keys ↔ k ∈ s.sec.keys ∧ orphaned 5 s.toChip k.handle = false) ∧
      Completed c stOk (wr 4 (spanSum (s.sec.keys.filter fun k => orphaned 5 s.toChip k.handle))) t ∧
      t.sec = { s.sec with keys := t.sec.keys, exhausted := t.sec.exhausted } ∧ OnlyChanges [.sec, .ubfen] s.toChip t)

/-- ADC_CLIP_REPORT raises EV_ADC_CLIP, limited per converter. SCS_LOCK_LOSS clears the output's LOCK bit alone, counts
to 255 and raises EV_SCS_LOCK_LOST; SCS_RELOCKED sets it, raises EV_SCS_LOCKED after a fault, and may set RWD_SKEW
(log 113); SCS_RELOCK unlocks every output, and the last lock completes it with the time in microseconds.
REFCLK_LOSS starts holdover, REFCLK_RESTORE the steering back, STEERING_END ends both. LNA_BYPASS_START above 1 in
10,000 clipped samples bypasses the band, raises EV_LNA_BYPASS and the gain of its channels from their first block
after the change; LNA_BYPASS_END after its times undoes it. PIN_FAULT_DETECT latches the pin and raises
EV_PIN_FAULT; with no launch it lowers what the pin drives. PIN_REARM clears exactly the faulted pins named whose
comparisons hold. RFFE_WRITE issues its bytes in order; RFFE_READ returns the data, or ST_TIMEOUT with EV_RFFE_FAULT
after three parity failures; a stopped bus answers ST_ABORTED_DISABLED. (04 R114, 04 R116, 04 R117, 04 R118, 04
R129, 04 R132, 04 R139, 04 R145, 04 R146, 04 R149, 04 Table 4.4, 04 Table 4.14) -/
def Obligations.ClocksPinsBypassAndRffe : Prop :=
  (∀ (k : Fin 3) (w : Word) (s : State), pdOn s.toChip (if k.val = 1 then 4 else 3) = true → w ≠ 0 → limFree 41 k.val nsSec s.toChip = true →
    Does (.adcClipReport k w) s fun t => Raised 41 (pack [(0, 2, k.val), (32, 32, w.toNat)]) t ∧ limFree 41 k.val nsSec t = false ∧
      OnlyChanges [.ev] s.toChip t) ∧
  (∀ (o : Fin 4) (s : State), bitOf s.scs.lock o.val = true → (o.val = 2 → launches s.toChip = []) → Does (.scsLockLoss o) s fun t =>
    (∀ j, j < 4 → bitOf t.scs.lock j = (bitOf s.scs.lock j && decide (j ≠ o.val))) ∧ t.scs.losses = satAdd 255 s.scs.losses 1 ∧
    bitOf t.scs.faults o.val = true ∧ t.scs.refOk = s.scs.refOk ∧ Raised 30 o.val t ∧ OnlyChanges [.scs, .ev] s.toChip t) ∧
  (∀ (o : Fin 4) (s : State), pdOn s.toChip 11 = true → bitOf s.scs.lock o.val = false →
    (s.rf.relock = none → Does (.scsRelocked o) s fun t =>
      (∀ j, j < 4 → bitOf t.scs.lock j = (bitOf s.scs.lock j || decide (j = o.val))) ∧ bitOf t.scs.faults o.val = false ∧
      (bitOf s.scs.faults o.val = true → Raised 31 o.val t) ∧ (2 ≤ o.val → OnlyChanges [.scs, .ev] s.toChip t) ∧
      t.rwd = { s.rwd with skew := t.rwd.skew } ∧ OnlyChanges [.scs, .ev, .rwd, .freeCtr] s.toChip t) ∧
    (∀ c m b, s.rf.relock = some (c, b) → findCmd c s.toChip = some m → (∀ j, j < 4 → j ≠ o.val → bitOf s.scs.lock j = true) →
      Does (.scsRelocked o) s fun t => t.scs.lock % 16 = 15 ∧ t.rf.relock = none ∧ Completed c stOk (wr 4 ((s.now - b) / nsUs)) t ∧
        t.rwd = { s.rwd with skew := t.rwd.skew } ∧ OnlyChanges [.scs, .ev, .rf, .ubfen, .rwd, .freeCtr] s.toChip t)) ∧
  (∀ (c : CmdRef) (m : Cmd) (s : State), runnable c 0x0307 s.toChip = some m → ZeroBytes m.params 0 4 →
    (s.rf.relock = none → launches s.toChip = [] → Does (.scsRelock c) s fun t => t.scs = { s.scs with lock := 0 } ∧
      t.rf = { s.rf with relock := some (c, s.now) } ∧ OnlyChanges [.scs, .rf] s.toChip t) ∧
    (∀ d b, s.rf.relock = some (d, b) → d ≠ c → Does (.scsRelock c) s (JustCompletes c stBusy [] s.toChip))) ∧
  (∀ s : State, s.scs.refOk = true → Does .refclkLoss s fun t => t.scs = { s.scs with refOk := false, holdover := true, steering := false } ∧
    Raised 22 0 t ∧ OnlyChanges [.scs, .ev] s.toChip t) ∧
  (∀ s : State, pdOn s.toChip 11 = true → s.scs.refOk = false → Does .refclkRestore s fun t =>
    t = { s.toChip with scs := { s.scs with refOk := true, steering := s.scs.holdover } }) ∧
  (∀ s : State, s.scs.steering = true → Does .steeringEnd s fun t => t.scs = { s.scs with holdover := false, steering := false } ∧
    Raised 23 0 t ∧ OnlyChanges [.scs, .ev] s.toChip t) ∧
  (∀ (bd : Band) (k n : Nat) (lv : Int) (s : State), let b := bandIdx bd
    s.boot.service = true → pdOn s.toChip (bandPd b) = true → bandRx s.toChip b = true → n < k * 10000 → (band s.toChip b).bypass = false → feCfg s.toChip (8 + b) ≠ 0 →
    (b = 0 → pinBad s.toChip 5 = false) → Does (.lnaBypassStart bd k n lv) s fun t =>
      (band t b).bypass = true ∧ (band t b).bypassAt = s.now ∧ (band t b).state = (band s.toChip b).state ∧
      (∀ i, i < 64 → let h := s.chn.chans.get (64 * b + i)
        t.chn.chans.get (64 * b + i) = if bitOf (chCfg s.toChip (64 * b + i)) 0 = true then { h with byp := h.byp ++ [(s.now, true)] }
          else { h with gain := min 60 (h.gain + chnCfg s.toChip 0xE) }) ∧
      Raised 52 (pack [(0, 1, b), (16, 16, ofS 16 lv)]) t ∧ OnlyChanges [.rf, .ev, .chn, .tx] s.toChip t) ∧
  (∀ (bd : Band) (s : State), let b := bandIdx bd
    (band s.toChip b).bypass = true → (band s.toChip b).bypassAt + feCfg s.toChip 0xA * nsMs ≤ s.now → (band s.toChip b).clipAt + 10 * nsMs ≤ s.now →
    Does (.lnaBypassEnd bd) s fun t => (band t b).bypass = false ∧
      (∀ i, i < 64 → let h := s.chn.chans.get (64 * b + i)
        t.chn.chans.get (64 * b + i) = if bitOf (chCfg s.toChip (64 * b + i)) 0 = true ∧ bandRx s.toChip b = true
          then { h with byp := h.byp ++ [(s.now, false)] } else { h with gain := h.gain - chnCfg s.toChip 0xE }) ∧
      OnlyChanges [.rf, .chn, .tx] s.toChip t) ∧
  (∀ (k : Fin 10) (high : Bool) (s : State), pinBad s.toChip k.val = false → (∀ e ∈ launches s.toChip, e.2.ended.isSome = true) →
    Does (.pinFaultDetect k high) s fun t => (∀ j, j < 10 → bitOf t.rf.pinFault j = (bitOf s.rf.pinFault j || decide (j = k.val))) ∧
      bitOf t.rf.pinSupply k.val = high ∧ (k.val ≤ 3 → bitOf t.rf.paEn k.val = false) ∧ (k.val = 4 → t.rf.biasOn = false ∧ t.rf.biasPorts = []) ∧
      (k.val = 5 → (band t 0).bypass = false) ∧ Raised 36 (pack [(0, 8, k.val), (8, 1, b2n high)]) t ∧ OnlyChanges [.rf, .ev, .chn, .tx] s.toChip t) ∧
  (∀ (c : CmdRef) (m : Cmd) (bad : BitVec 10) (s : State), runnable c 0x0306 s.toChip = some m → rd m.params 1 1 ≤ 3 → ZeroBytes m.params 2 2 →
    Does (.pinRearm c bad) s fun t =>
      (∀ j, j < 10 → bitOf t.rf.pinFault j = (bitOf s.rf.pinFault j && !(bitOf (rd m.params 0 2) j && !bad.getLsbD j))) ∧
      Completed c stOk (wr 2 (t.rf.pinFault &&& rd m.params 0 2) ++ zeros 2) t ∧
      t.rf = { s.rf with pinFault := t.rf.pinFault, pinSupply := t.rf.pinSupply } ∧ OnlyChanges [.rf, .ev, .ubfen] s.toChip t) ∧
  (∀ (c : CmdRef) (m : Cmd) (bus usid reg n : Nat) (s : State), runnable c 0x0303 s.toChip = some m → rd m.params 0 1 = bus → bus ≤ 1 →
    rd m.params 1 1 = usid → usid ≤ 15 → rd m.params 2 1 = reg → rd m.params 3 1 = n → 1 ≤ n → n ≤ 16 →
    (rffeDown s.toChip bus = false → pdOn s.toChip 5 = true → Does (.rffeWrite c) s (JustCompletes c stOk [] { s.toChip with rf := { s.rf with
      rffe := s.rf.rffe ++ (List.range n).map fun i => (bus, usid, (reg + i) % 256, rd m.params (4 + i) 1) } })) ∧
    (rffeDown s.toChip bus = true ∨ pdOn s.toChip 5 = false → Does (.rffeWrite c) s (JustCompletes c stAbortedDisabled [] s.toChip))) ∧
  (∀ (c : CmdRef) (m : Cmd) (bus usid n f : Nat) (data : Bytes) (s : State), runnable c 0x0304 s.toChip = some m → rd m.params 0 1 = bus → bus ≤ 1 →
    rd m.params 1 1 = usid → 1 ≤ usid → usid ≤ 15 → rd m.params 3 1 = n → 1 ≤ n → n ≤ 16 → data.length = n → rffeDown s.toChip bus = false →
    pdOn s.toChip 5 = true → (f ≤ 2 → Does (.rffeRead c data f) s (JustCompletes c stOk data s.toChip)) ∧
    (3 ≤ f → Does (.rffeRead c data f) s fun t => Completed c stTimeout [] t ∧ Raised 35 (pack [(0, 1, bus), (8, 4, usid)]) t ∧
      OnlyChanges [.ev, .ubfen] s.toChip t))

/-- On a band whose domain is on and that neither drains, calibrates nor moves for a command: RADIO_STATE_SET to RX of a
calibrated receiving band completes at once and ends the mute; of another calibrated band it starts the move, and
BAND_TRANSITION_DONE completes it; of an uncalibrated band it enters CAL with WAIT, once the amplifier pins are low.
To SLEEP, or to OFF with no launch, it notes the drain, BAND_DRAIN_DONE completes it with the previous base, raises
EV_BAND_DISABLED and mutes the band. RADIO_CAL with no busy context enters CAL, or with a launch before 12.15 ms
waits (WAIT) or completes with ST_BUSY; RADIO_CAL_RESTART starts a waiting one. CALIBRATION_DONE returns the band to
its base (one that failed in boot step 8 and again now to OFF), sets or clears CAL_VALID, raises EV_CAL_DONE or
EV_CAL_FAIL and completes the command with the step and both times. CARRIER_PARK parks a READY carrier.
BACKGROUND_TRACK stores its three values. (04 R119, 04 R120, 04 R121, 04 R122, 04 R123, 04 R124, 04 R125, 04 R126,
04 R149, 04 Table 4.5, 04 Table 4.6) -/
def Obligations.BandStatesAndCalibration : Prop :=
  (∀ (c : CmdRef) (m : Cmd) (b : Nat) (s : State), runnable c 0x0302 s.toChip = some m → rd m.params 0 1 = b → b ≤ 1 → ZeroBytes m.params 2 2 →
    pdOn s.toChip (bandPd b) = true → (band s.toChip b).drain = none → (band s.toChip b).cal = none → (band s.toChip b).rxCmd = none →
    (rd m.params 1 1 = 2 → (band s.toChip b).calValid = true → within 2 3 (band s.toChip b).state = true → (band s.toChip b).target = none →
      Does (.radioStateSet c) s fun t => band t b = { band s.toChip b with base := 2, prevBase := (band s.toChip b).base, mute := false } ∧
        band t (1 - b) = band s.toChip (1 - b) ∧ Completed c stOk (wr 1 (band s.toChip b).base ++ zeros 3) t ∧ OnlyChanges [.rf, .ubfen] s.toChip t) ∧
    (rd m.params 1 1 = 2 → (band s.toChip b).calValid = true → (band s.toChip b).state < 2 → Does (.radioStateSet c) s fun t =>
      band t b = { band s.toChip b with base := 2, prevBase := (band s.toChip b).base, rxCmd := some c
                                        target := some ((band s.toChip b).target.getD 2) } ∧
      band t (1 - b) = band s.toChip (1 - b) ∧ OnlyChanges [.rf] s.toChip t) ∧
    (rd m.params 1 1 = 2 → (band s.toChip b).calValid = false → bandBusy s.toChip b = [] → calBlocked s.toChip = false →
      (s.rf.paEn = 0 → s.rf.biasOn = false → Does (.radioStateSet c) s fun t =>
        (band t b).state = 4 ∧ (band t b).base = 2 ∧ (band t b).rxCmd = some c ∧ (band t b).cal = some ⟨2, false, true, none, [], true, s.now, s.now⟩ ∧
        band t (1 - b) = band s.toChip (1 - b) ∧ Raised 34 (pack [(0, 1, b), (8, 8, 4)]) t ∧ OnlyChanges [.rf, .ev, .chn] s.toChip t) ∧
      (s.rf.paEn ≠ 0 ∨ s.rf.biasOn = true → Does (.radioStateSet c) s fun t =>
        band t b = { band s.toChip b with base := 2, prevBase := (band s.toChip b).base, rxCmd := some c
                                          cal := some ⟨0, false, true, none, [], true, s.now, 0⟩ } ∧
        band t (1 - b) = band s.toChip (1 - b) ∧ OnlyChanges [.rf] s.toChip t)) ∧
    (∀ st, rd m.params 1 1 = st → st ≤ 1 → (∀ r ∈ s.dem.recs, r.ch / 64 ≠ b) → (st = 0 → launches s.toChip = []) → Does (.radioStateSet c) s fun t =>
      band t b = { band s.toChip b with base := st, prevBase := (band s.toChip b).base, drain := some (st, c) } ∧
      (st = 0 → ∀ k, k < 4 → (s.rf.carriers.get k).band = b → (t.rf.carriers.get k).st = 0) ∧
      (∃ m' ∈ t.ubfen.cmds, NamesCmd c m' ∧ m'.accepted = true) ∧ OnlyChanges [.rf, .dem, .ubfen] s.toChip t)) ∧
  (∀ (bd : Band) (st : Nat) (c : CmdRef) (m : Cmd) (s : State), let b := bandIdx bd
    (band s.toChip b).drain = some (st, c) → bandBusy s.toChip b = [] → findCmd c s.toChip = some m → Does (.bandDrainDone bd) s fun t =>
      (band t b).drain = none ∧ (band t b).mute = true ∧ (st = 0 → (band s.toChip b).state ≠ 0 → (band s.toChip b).state ≠ 4 → (band t b).target = some 0) ∧
      Completed c stOk (wr 1 (band s.toChip b).prevBase ++ zeros 3) t ∧ Raised 51 b t ∧ OnlyChanges [.rf, .ev, .ubfen] s.toChip t) ∧
  (∀ (bd : Band) (x : Nat) (s : State), let b := bandIdx bd
    (band s.toChip b).target = some x → Does (.bandTransitionDone bd) s fun t => (band t b).state = x ∧
      Raised 34 (pack [(0, 1, b), (8, 8, x)]) t ∧ OnlyChanges [.rf, .ev, .chn, .ubfen] s.toChip t ∧
      (∀ c m, (band s.toChip b).rxCmd = some c → findCmd c s.toChip = some m → (x = 2 ∨ x = 3) →
        (band t b).rxCmd = none ∧ Completed c stOk (wr 1 (band s.toChip b).prevBase ++ zeros 3) t)) ∧
  (∀ (c : CmdRef) (m : Cmd) (b : Nat) (s : State), runnable c 0x0301 s.toChip = some m → rd m.params 0 1 = b → b ≤ 1 → rd m.params 1 1 ≤ 3 →
    ZeroBytes m.params 2 2 → pdOn s.toChip (bandPd b) = true → (band s.toChip b).cal = none → (band s.toChip b).drain = none →
    (band s.toChip b).rxCmd = none → bandBusy s.toChip b = [] →
    let store := bitOf (rd m.params 1 1) 0
    let wait := bitOf (rd m.params 1 1) 1
    (calBlocked s.toChip = false → s.rf.paEn = 0 → s.rf.biasOn = false → Does (.radioCal c) s fun t => (band t b).state = 4 ∧
      (band t b).cal = some ⟨2, store, wait, some c, [], false, s.now, s.now⟩ ∧ (band t b).base = (band s.toChip b).base ∧
      band t (1 - b) = band s.toChip (1 - b) ∧ Raised 34 (pack [(0, 1, b), (8, 8, 4)]) t ∧ OnlyChanges [.rf, .ev, .chn] s.toChip t) ∧
    (calBlocked s.toChip = true → wait = true → Does (.radioCal c) s fun t =>
      band t b = { band s.toChip b with cal := some ⟨1, store, wait, some c, [], false, s.now, 0⟩ } ∧ OnlyChanges [.rf] s.toChip t) ∧
    (calBlocked s.toChip = true → wait = false → Does (.radioCal c) s fun t => band t b = band s.toChip b ∧ Completed c stBusy [] t ∧
      OnlyChanges [.rf, .ubfen] s.toChip t)) ∧
  (∀ (bd : Band) (r : CalRun) (s : State), let b := bandIdx bd
    (band s.toChip b).cal = some r → r.phase = 1 → bandBusy s.toChip b = [] → calBlocked s.toChip = false →
    s.rf.paEn = 0 → s.rf.biasOn = false → Does (.radioCalRestart bd) s fun t =>
      (band t b).state = 4 ∧ (band t b).cal = some { r with phase := 2, begunAt := s.now, calAt := s.now } ∧ OnlyChanges [.rf, .ev, .chn] s.toChip t) ∧
  (∀ (bd : Band) (r : CalRun) (c : CmdRef) (m : Cmd) (res : List Bytes) (s : State), let b := bandIdx bd
    (band s.toChip b).cal = some r → r.phase = 2 → r.cmd = some c → findCmd c s.toChip = some m → (band s.toChip b).rxCmd = none →
    Does (.calibrationDone bd none res) s (fun t => (band t b).cal = none ∧ (band t b).calValid = true ∧ (band t b).state = (band s.toChip b).base ∧
      Raised 32 b t ∧ Completed c stOk (zeros 4 ++ wr 4 ((r.calAt - r.begunAt) / nsUs) ++ wr 4 ((s.now - r.calAt) / nsUs)) t ∧
      (r.store = false → t.cal.sections = s.cal.sections ∧ t.cal.staged = s.cal.staged) ∧
      OnlyChanges [.rf, .ev, .chn, .cal, .tx, .ubfen] s.toChip t) ∧
    (∀ k : Fin 6, k.val ≠ 0 → (b = 1 → k.val ≠ 2 ∧ k.val ≠ 4) → Does (.calibrationDone bd (some k) res) s fun t => (band t b).cal = none ∧ (band t b).calValid = false ∧
      (band t b).state = (if (band s.toChip b).bootFail = true then 0 else (band s.toChip b).base) ∧ Raised 33 (pack [(0, 1, b), (8, 8, k.val)]) t ∧
      Completed c stOk (wr 1 k.val ++ zeros 3 ++ wr 4 ((r.calAt - r.begunAt) / nsUs) ++ wr 4 ((s.now - r.calAt) / nsUs)) t ∧
      OnlyChanges [.rf, .ev, .chn, .ubfen] s.toChip t)) ∧
  (∀ (bd : Band) (o g k : Int) (s : State), let b := bandIdx bd
    bandRx s.toChip b = true → pdOn s.toChip (bandPd b) = true → Does (.backgroundTrack bd o g k) s fun t =>
      band t b = { band s.toChip b with track := (o, g, k) } ∧ band t (1 - b) = band s.toChip (1 - b) ∧ OnlyChanges [.rf] s.toChip t) ∧
  (∀ (k : Fin 4) (s : State), (s.rf.carriers.get k.val).st = 1 → (s.rf.carriers.get k.val).deadline ≤ s.now →
    (∀ e ∈ launches s.toChip, e.2.carrier ≠ k.val) → Does (.carrierPark k) s fun t => (t.rf.carriers.get k.val).st = 0 ∧
      (∀ j, j ≠ k.val → t.rf.carriers.get j = s.rf.carriers.get j) ∧ OnlyChanges [.rf] s.toChip t)

/-- A TX_LAUNCH whose descriptor passes its field checks and that passes Table 8.2 takes a free entry with its fields,
its level at most the one asked for, and reaches its acceptance point; without lock of output 2 one with HOLD waits
in its entry; one due before LEAD_MIN completes with ST_TX_LATE, is counted, raises EV_TX_LATE, and the queue stays.
TX_STATUS returns the queue, carriers, Eddy and the 32 counters, and clears them only when asked. TX_SIMCAL queues
an ASAP burst of 200 us; SIMCAL_MEASURE_DONE stores the delay M less OBS_CABLE plus TAU_ANT, raises EV_SIMCAL_DONE
and completes it. TX_SIMCAL_SET writes one item. EDDY_RESET with no ACTIVE carrier restarts the stages of its band
(else ST_BUSY). EDDY_DIGITAL_FIT while an enabled stage adapts, 100 us after the last, stores its estimates and
weights, the isolation being the fitted coupling with CAN_COUPLING (assumption 96); a residual that is worse with
the stage on restarts it, DIVERGED, and raises EV_EDDY_DIVERGED. (08 R232, 08 R233, 08 R234, 08 R235, 08 R238, 08
R242, 08 R243, 08 R247, 08 R250, 08 R252, 08 R254, 08 Table 8.2) -/
def Obligations.TransmitCommandsComplete : Prop :=
  (∀ (c : CmdRef) (m : Cmd) (e : Nat) (s : State), runnable c 0x0501 s.toChip = some m → rd m.params 0 4 < 2 ^ 31 →
    (∀ x ∈ descChecks m.params s.toChip, x.2 = true) →
    Accepts { descLaunch .host m.params with cmd := some c } e s.toChip → Does (.txLaunch c) s fun t =>
      Queued { descLaunch .host m.params with cmd := some c } e s.toChip t ∧ AcceptedCmd c t ∧ OnlyChanges [.tx, .rf, .sch, .ev, .ubfen] s.toChip t) ∧
  (∀ (c : CmdRef) (m : Cmd) (e : Nat) (s : State), runnable c 0x0501 s.toChip = some m → rd m.params 0 4 < 2 ^ 31 →
    (∀ x ∈ descChecks m.params s.toChip, x.2 = true) →
    let l := descLaunch .host m.params
    l.asap = true → l.held = true → synthLocked s.toChip = false → portBand s.toChip l.port = l.band + 1 → disabledBy s.toChip l = none →
    freeEntry s.toChip l = some e → Does (.txLaunch c) s fun t =>
      t.tx.entries = s.tx.entries.set e (some { l with cmd := some c, no := s.tx.count, heldAt := s.now, phyCfg := demPhyCfg s.toChip }) ∧
      AcceptedCmd c t ∧ OnlyChanges [.tx, .ubfen] s.toChip t) ∧
  (∀ (c : CmdRef) (m : Cmd) (s : State), runnable c 0x0501 s.toChip = some m → rd m.params 0 4 < 2 ^ 31 →
    (∀ x ∈ descChecks m.params s.toChip, x.2 = true) →
    let l := descLaunch .host m.params
    l.asap = false → l.simulcast = false → portBand s.toChip l.port = l.band + 1 → disabledBy s.toChip l = none → calEnd s.toChip ≤ relT s.toChip l →
    relT s.toChip l < (ns16 (leadMin s.toChip) : Int) → Does (.txLaunch c) s fun t => t.tx.entries = s.tx.entries ∧
      Completed c stTxLate (launchResult 0xFF { l with held := false }) t ∧ Raised 56 (pack [(0, 2, l.carrier), (8, 8, 0xFF)]) t ∧
      t.cnt.get (txCnt l.carrier 4) = satAdd 0xFFFFFFFF (s.cnt.get (txCnt l.carrier 4)) 1 ∧ OnlyChanges [.tx, .ev, .cnt, .ubfen] s.toChip t) ∧
  (∀ (c : CmdRef) (m : Cmd) (s : State), runnable c 0x0500 s.toChip = some m → rd m.params 0 1 ≤ 1 → ZeroBytes m.params 1 3 →
    ∃ res, Does (.txStatus c) s (fun t => Completed c stOk res t ∧ OnlyChanges [.cnt, .ubfen] s.toChip t ∧ (rd m.params 0 1 = 0 → t.cnt = s.cnt) ∧
        (rd m.params 0 1 = 1 → ∀ i, i < 32 → t.cnt.get (0x050200 + 4 * i) = 0)) ∧
      res.length = 156 ∧ rd res 0 1 % 128 = (launches s.toChip).length % 128 ∧
      (∀ k, k < 4 → rd res (4 + 4 * k) 1 % 4 = carSt s.toChip k % 4) ∧
      (∀ i, i < 32 → Field res (28 + 4 * i) 4 (s.cnt.get (0x050200 + 4 * i)))) ∧
  (∀ (c : CmdRef) (m : Cmd) (e : Nat) (s : State), runnable c 0x0503 s.toChip = some m → rd m.params 0 1 ≤ 3 → obsPort s.toChip (rd m.params 0 1) = true →
    rd m.params 1 1 ≤ 3 → rd m.params 2 1 ≤ 1 → ZeroBytes m.params 3 1 → bandLow 0 ≤ rd m.params 4 2 → rd m.params 4 2 ≤ bandHigh 0 →
    ZeroBytes m.params 6 2 →
    let l := ownLaunch s.toChip .simcal (0xFFFFFD00 + 4 * rd m.params 0 1 + rd m.params 1 1) (rd m.params 1 1) (rd m.params 0 1) (rd m.params 4 2) 200000
      (some c) (decide (rd m.params 2 1 = 1))
    Accepts l e s.toChip → Does (.txSimcal c) s fun t => Queued l e s.toChip t ∧ AcceptedCmd c t ∧
      OnlyChanges [.tx, .rf, .sch, .ev, .ubfen] s.toChip t) ∧
  (∀ (e : Fin 64) (l : Launch) (c : CmdRef) (m : Cmd) (dm : Int) (sp : Nat) (s : State), s.tx.entries.get e.val = some l → l.src = .simcal →
    l.cmd = some c → findCmd c s.toChip = some m → l.phase = 3 → l.stopped = false → l.ended = none →
    (∀ x ∈ launches s.toChip, x.2.carrier = l.carrier → x.1 = e.val) →
    let i := 4 * l.port + l.carrier
    let d := dm - s.tx.delays.obsCable.get l.port + s.tx.delays.tau.get l.port
    Does (.simcalMeasureDone e dm sp) s fun t => t.tx.delays.dtx.get i = d ∧ t.tx.entries.get e.val = some { l with cmd := none } ∧
      (∀ j, j ≠ i → t.tx.delays.dtx.get j = s.tx.delays.dtx.get j) ∧
      Raised 65 (pack [(0, 2, l.carrier), (32, 32, ofS 32 (d - s.tx.delays.dtx.get i))]) t ∧
      Completed c stOk (wr 4 (ofS 32 d) ++ wr 4 (ofS 32 (d - s.tx.delays.dtx.get i)) ++ wr 4 sp) t ∧
      OnlyChanges [.tx, .ev, .cal, .ubfen] s.toChip t) ∧
  (∀ (c : CmdRef) (m : Cmd) (p k : Nat) (s : State), runnable c 0x0504 s.toChip = some m → rd m.params 0 1 = p → p ≤ 3 → rd m.params 2 1 = k → k ≤ 3 →
    rd m.params 3 1 ≤ 1 →
    let v := toS 32 (rd m.params 4 4)
    (rd m.params 1 1 = 0 → Does (.txSimcalSet c) s fun t => t.tx.delays.tau = s.tx.delays.tau.set p v ∧ t.tx.delays.dtx = s.tx.delays.dtx ∧
      Completed c stOk [] t ∧ OnlyChanges [.tx, .cal, .ev, .ubfen] s.toChip t) ∧
    (rd m.params 1 1 = 1 → Does (.txSimcalSet c) s fun t => t.tx.delays.obsCable = s.tx.delays.obsCable.set p v ∧ t.tx.delays.dtx = s.tx.delays.dtx ∧
      Completed c stOk [] t ∧ OnlyChanges [.tx, .cal, .ev, .ubfen] s.toChip t) ∧
    (rd m.params 1 1 = 2 → Does (.txSimcalSet c) s fun t => t.tx.delays.gb.get (4 * p + k) = v ∧ Completed c stOk [] t ∧
      t.tx.delays.dtx = s.tx.delays.dtx.set (4 * p + k) (s.tx.delays.dball.get k + v) ∧ OnlyChanges [.tx, .cal, .ev, .ubfen] s.toChip t)) ∧
  (∀ (c : CmdRef) (m : Cmd) (b : Nat) (s : State), runnable c 0x0505 s.toChip = some m → rd m.params 0 1 = b → b ≤ 1 → ZeroBytes m.params 1 3 →
    (bandActive s.toChip b = true → Does (.eddyReset c) s (JustCompletes c stBusy [] s.toChip)) ∧
    (bandActive s.toChip b = false → Does (.eddyReset c) s fun t => Completed c stOk [] t ∧
      t.tx.eddy.get b = { s.tx.eddy.get b with
        converged := false, w := (s.tx.eddy.get b).start, saved := Tab.const none
        boundsAt := none, scale := 0, fits := 0, diverged := false } ∧
      t.tx.eddy.get (1 - b) = s.tx.eddy.get (1 - b) ∧ t.tx.entries = s.tx.entries ∧ OnlyChanges [.tx, .ubfen] s.toChip t)) ∧
  (∀ (bd : Band) (f : EddyFit) (s : State), let b := bandIdx bd
    txCfg s.toChip (6 + b) ≠ 0 → bandActive s.toChip b = true → eddyHeld s.toChip b = false →
    (∀ x, (s.tx.eddy.get b).fitAt = some x → x + 100 * nsUs ≤ s.now) →
    Does (.eddyDigitalFit bd f) s fun t => (t.tx.eddy.get b).desense = min 4095 f.desense ∧ (t.tx.eddy.get b).fitAt = some s.now ∧
      (t.tx.eddy.get b).isolation = (if b = 0 then min 4095 (f.coupling + (txCfg s.toChip 8 : Nat)).toNat else 0) ∧
      (t.tx.eddy.get b).held = none ∧
      (f.residualOff < f.residualOn → (t.tx.eddy.get b).diverged = true ∧ (t.tx.eddy.get b).converged = false ∧ (t.tx.eddy.get b).fits = 0 ∧
        (t.tx.eddy.get b).w = (s.tx.eddy.get b).start ∧ Raised 62 b t) ∧
      (f.residualOn ≤ f.residualOff → (t.tx.eddy.get b).converged = f.converged ∧ (t.tx.eddy.get b).fits = (s.tx.eddy.get b).fits + 1 ∧
        (t.tx.eddy.get b).w = f.w) ∧
      t.tx.entries = s.tx.entries ∧ OnlyChanges [.tx, .ev] s.toChip t)

/-- For a live launch: LAUNCH_DESCRIPTOR_LOAD loads it. PA_BIAS_RISE at T less the bias and enable leads raises
PA_BIAS_EN when this unit owns the output, and otherwise suppresses the launch with no pin raised. PA_EN_RISE at T
less EN_LEAD, with output 2 locked, raises PA_EN of its port alone (no pin for a suppressed launch), unless the port
has lost its band or another of the band is high. LAUNCH_START at T makes its carrier ACTIVE and the launch emit its
packet. LAUNCH_END after the down-ramp of a host launch alone on its carrier frees the entry, counts it, plans the
fall of PA_EN, leaves the carrier READY and completes the command with Table 8.3's result. PA_EN_FALL and
PA_BIAS_FALL when due and not held lower PA_EN of the port, and PA_BIAS_EN. HELD_LAUNCH_PLACE gives a held launch
its place; HOLD_MAX_EXPIRY ends it with ST_TX_LATE_SYNTH and frees its entry. (04 R134, 04 R135, 08 R231, 08 R234,
08 R235, 08 R236, 08 R237, 08 R238, 08 R245, 04 Table 4.11, 08 Table 8.3, 08 Table 8.9) -/
def Obligations.LaunchProgress : Prop :=
  (∀ (e : Fin 64) (l : Launch) (s : State), liveLaunch s.toChip e.val = some l → l.loaded = false → Does (.launchDescriptorLoad e) s fun t =>
    t.tx = { s.tx with entries := s.tx.entries.set e.val (some { l with loaded := true }) } ∧ t.rf.ports = s.rf.ports ∧ t.rf.paEn = s.rf.paEn ∧
    t.rf.biasOn = s.rf.biasOn ∧ OnlyChanges [.tx, .rf] s.toChip t) ∧
  (∀ (e : Fin 64) (l : Launch) (s : State), liveLaunch s.toChip e.val = some l → l.loaded = true → l.phase = 0 →
    relT s.toChip l ≤ (ns16 (enLead s.toChip + biasLead s.toChip) : Int) →
    (ownsOutput s.toChip l = true → Does (.paBiasRise e) s fun t => t.tx = { s.tx with entries := s.tx.entries.set e.val (some { l with phase := 1, biasAt := some s.now }) } ∧
      t.rf.biasOn = true ∧ t.rf.biasFall = none ∧ l.port ∈ t.rf.biasPorts ∧ t.rf.paEn = s.rf.paEn ∧ OnlyChanges [.tx, .rf] s.toChip t) ∧
    (ownsOutput s.toChip l = false → Does (.paBiasRise e) s fun t =>
      t.tx = { s.tx with entries := s.tx.entries.set e.val (some { l with phase := 1, suppressed := true, biasAt := some s.now }) } ∧ OnlyChanges [.tx, .ev] s.toChip t)) ∧
  (∀ (e : Fin 64) (l : Launch) (s : State), liveLaunch s.toChip e.val = some l → l.phase = 1 → relT s.toChip l ≤ (ns16 (enLead s.toChip) : Int) →
    synthLocked s.toChip = true → (l.suppressed = false → portBand s.toChip l.port = l.band + 1 ∧
      ∀ j, j < 4 → j ≠ l.port → bitOf s.rf.paEn j = true → portBand s.toChip j ≠ l.band + 1) → Does (.paEnRise e) s fun t =>
      t.tx = { s.tx with entries := s.tx.entries.set e.val (some { l with phase := 2, enAt := some s.now }) } ∧ OnlyChanges [.tx, .rf] s.toChip t ∧
      (l.suppressed = true → t.rf = s.rf) ∧
      (l.suppressed = false → (∀ j, bitOf t.rf.paEn j = (bitOf s.rf.paEn j || decide (j = l.port))) ∧ (t.rf.ports.get l.port).enFall = none ∧
        t.rf.biasOn = s.rf.biasOn ∧ t.rf.carriers = s.rf.carriers ∧ t.rf.bands = s.rf.bands)) ∧
  (∀ (e : Fin 64) (l : Launch) (s : State), liveLaunch s.toChip e.val = some l → l.phase = 2 → relT s.toChip l ≤ 0 → Does (.launchStart e) s fun t =>
    t.tx.entries = s.tx.entries.set e.val (some { l with
      phase := 3, startAt := some s.now
      unlocked := decide ((tdGet s.toChip l.dom).st ≠ 1) }) ∧
    t.rf.carriers = s.rf.carriers.set l.carrier ⟨2, l.band, l.freq, s.now + l.airNs + txHold s.toChip, s.now + l.airNs⟩ ∧
    ((s.rf.carriers.get l.carrier).st ≠ 1 ∨ (s.rf.carriers.get l.carrier).band = l.band → t.rf.bands = s.rf.bands) ∧
    t.rf.ports = s.rf.ports ∧ t.rf.paEn = s.rf.paEn ∧ t.rf.biasOn = s.rf.biasOn ∧
    (∃ theta, t.tx.air = s.tx.air.set l.carrier (emission s.toChip l theta)) ∧
    t.tx.delays = s.tx.delays ∧ t.tx.count = s.tx.count ∧ OnlyChanges [.tx, .rf, .freeCtr] s.toChip t) ∧
  (∀ (e : Fin 64) (l : Launch) (c : CmdRef) (m : Cmd) (s : State), liveLaunch s.toChip e.val = some l → l.phase = 3 → l.src = .host → l.cmd = some c →
    findCmd c s.toChip = some m → relEnd s.toChip l + (ns16 (rampNs s.toChip) : Int) ≤ 0 → s.sch.flushes = [] →
    (∀ x ∈ launches s.toChip, x.2.carrier = l.carrier → x.1 = e.val) → Does (.launchEnd e) s fun t =>
      Completed c (if l.clamped = true then stClamped else stOk) (launchResult e.val l) t ∧ t.tx.entries.get e.val = none ∧
      (∀ j, j ≠ e.val → t.tx.entries.get j = s.tx.entries.get j) ∧
      (l.suppressed = false → t.cnt.get (txCnt l.carrier 0) = satAdd 0xFFFFFFFF (s.cnt.get (txCnt l.carrier 0)) 1 ∧
        (t.rf.ports.get l.port).enFall = some (max ((s.rf.ports.get l.port).enFall.getD 0) (s.now + (enTail s.toChip - rampNs s.toChip)))) ∧
      (l.suppressed = true → t.cnt.get (txCnt l.carrier 0xC) = satAdd 0xFFFFFFFF (s.cnt.get (txCnt l.carrier 0xC)) 1 ∧ t.rf.ports = s.rf.ports) ∧
      ((s.rf.carriers.get l.carrier).st = 2 → (t.rf.carriers.get l.carrier).st = 1) ∧
      (t.rf.carriers.get l.carrier).deadline = s.now + txHold s.toChip ∧ t.rf.paEn = s.rf.paEn ∧
      OnlyChanges [.tx, .rf, .cnt, .sch, .ubfen] s.toChip t) ∧
  (∀ (p : Fin 4) (x : Nat) (s : State), (s.rf.ports.get p.val).enFall = some x → x ≤ s.now →
    driving s.toChip (fun l => l.port = p.val && decide (2 ≤ l.phase)) = false → Does (.paEnFall p) s fun t =>
      (∀ j, bitOf t.rf.paEn j = (bitOf s.rf.paEn j && decide (j ≠ p.val))) ∧ (t.rf.ports.get p.val).enFall = none ∧
      (t.rf.paEn = 0 → s.rf.biasOn = true → t.rf.biasFall = some (s.now + biasTail s.toChip)) ∧ t.rf.biasOn = s.rf.biasOn ∧ OnlyChanges [.rf] s.toChip t) ∧
  (∀ (x : Nat) (s : State), s.rf.biasOn = true → s.rf.biasFall = some x → x ≤ s.now → s.rf.paEn = 0 → driving s.toChip (fun _ => true) = false →
    biasWanted s.toChip = false →
    Does .paBiasFall s fun t => t.rf.biasOn = false ∧ t.rf.biasFall = none ∧ t.rf.biasPorts = [] ∧ t.rf.paEn = 0 ∧
      OnlyChanges [.rf, .ev, .chn, .ubfen] s.toChip t ∧
      ((∀ b, b < 2 → (band s.toChip b).cal = none) → OnlyChanges [.rf] s.toChip t)) ∧
  (∀ (e : Fin 64) (l l' : Launch) (s : State), s.tx.entries.get e.val = some l → l.held = true → l.ended = none → synthLocked s.toChip = true →
    placeLaunch l ((max (max (((l.heldAt + leadMin s.toChip : Nat) : Int) - (s.now : Int))
      (((s.scs.txLockAt + max (biasLead s.toChip + enLead s.toChip) (100 * nsUs) : Nat) : Int) - (s.now : Int)))
      ((biasLead s.toChip + enLead s.toChip : Nat) : Int)) * 2 ^ 16) s.toChip = some l' →
    calEnd s.toChip ≤ relT s.toChip l' → regAdmits s.toChip l' = true →
    Does (.heldLaunchPlace e) s fun t => (∃ x, t.tx.entries.get e.val = some x ∧ x.t = l'.t ∧ x.held = false ∧ x.id = l.id ∧ x.cmd = l.cmd ∧
      x.psdu = l.psdu ∧ x.ended = none) ∧ (∀ j, j ≠ e.val → t.tx.entries.get j = s.tx.entries.get j) ∧
      OnlyChanges [.tx, .rf, .sch, .ev] s.toChip t) ∧
  (∀ (e : Fin 64) (l : Launch) (c : CmdRef) (m : Cmd) (s : State), s.tx.entries.get e.val = some l → l.held = true → l.ended = none → l.phase = 0 →
    l.stopped = false → l.src = .host → l.cmd = some c → findCmd c s.toChip = some m → l.heldAt + txCfg s.toChip 3 * nsMs ≤ s.now → s.sch.flushes = [] →
    Does (.holdMaxExpiry e) s fun t => t.tx.entries.get e.val = none ∧ Completed c stTxLateSynth (launchResult e.val l) t ∧
      t.cnt.get (txCnt l.carrier 8) = satAdd 0xFFFFFFFF (s.cnt.get (txCnt l.carrier 8)) 1 ∧
      (∀ j, j ≠ e.val → t.tx.entries.get j = s.tx.entries.get j) ∧ OnlyChanges [.tx, .rf, .cnt, .sch, .ubfen] s.toChip t)

/-- For every queue and legal parameters of TX_CANCEL: with no launch named by ID, ST_NOT_FOUND and nothing else;
otherwise every launch that it names (by LAUNCH_ID, by carrier, or all; never a Trade launch) has ended or left the
queue, no other launch is changed into an ended one, and the command answers how many live launches it named and
whether one was emitting. The premise on waiting flushes and on the launches' commands says that no launch and no
flush belongs to TX_CANCEL itself. (08 R235, 08 R238, 08 R239, 08 Table 8.1, 08 Table 8.3) -/
def Obligations.CancellingLaunches : Prop :=
  ∀ (c : CmdRef) (m : Cmd) (s : State), runnable c 0x0502 s.toChip = some m →
    let fl := rd m.params 4 1
    fl ≤ 3 → rd m.params 5 1 ≤ 3 → ZeroBytes m.params 6 2 → (fl ≠ 0 ∨ rd m.params 0 4 / 2 ^ 30 ≠ 2) →
    (∀ x ∈ launches s.toChip, x.2.cmd ≠ some c) → (∀ w ∈ s.sch.flushes, w.cmd ≠ c) →
    let named := fun (l : Launch) => l.src ≠ .trade ∧ (bitOf fl 1 = true ∨ (if bitOf fl 0 = true then l.carrier = rd m.params 5 1 else l.id = rd m.params 0 4))
    let ls := (launches s.toChip).filter fun x => x.2.ended.isNone && decide (named x.2)
    (ls = [] → fl = 0 → Does (.txCancel c) s (JustCompletes c stNotFound [] s.toChip)) ∧
    (ls ≠ [] ∨ fl ≠ 0 → Does (.txCancel c) s fun t =>
      Completed c stOk (wr 2 ls.length ++ wr 1 (b2n (ls.any fun x => x.2.phase = 3)) ++ zeros 1) t ∧
      (∀ x ∈ launches t, named x.2 → x.2.ended.isSome = true) ∧
      (∀ x ∈ launches s.toChip, ¬ named x.2 → x.2.ended = none → t.tx.entries.get x.1 = some x.2))

/-- RADIO_STATUS returns the band, the SCS, the four ports and the pins, and changes nothing. ANTENNA_MEASURE of a
launch that may be measured: a clipped one is discarded with EV_OBS_CLIP; otherwise RL and phase at the antenna
plane (with COUPLER_DELTA and the round trip to it) and the class of Table 4.12 are stored, a change of class raises
its event, and with ANT_FAULT_ACTION an open or short port that only probes use refuses launches; a probe that finds
it better ends that. The tuner at or above its target clears its limit. TUNER_CODE_WRITE writes both codes over RFFE
and clears its mark. ANT_PROBE on a monitored band-A port that Table 8.2 admits queues a 100 us probe and reaches
its acceptance point; on a band that is off or in CAL it is ST_BUSY. ANTENNA_PROBE_DUE queues a probe when its
interval has passed. (04 R141, 04 R142, 04 R143, 04 R144, 04 R149, 08 R244, 04 Table 4.12, 04 Table 4.13, 04 Table
4.16) -/
def Obligations.AntennaMonitoring : Prop :=
  (∀ (c : CmdRef) (m : Cmd) (b : Nat) (s : State), runnable c 0x0300 s.toChip = some m → rd m.params 0 1 = b → b ≤ 1 → ZeroBytes m.params 1 3 →
    ∃ res, Does (.radioStatus c) s (JustCompletes c stOk res s.toChip) ∧ res.length = 28 ∧ rd res 0 1 % 8 = (band s.toChip b).state % 8 ∧
      rd res 4 1 % 16 = s.scs.lock % 16 ∧ (∀ p, p < 4 → Field res (8 + 4 * p) 2 (s.rf.ports.get p).rl) ∧ rd res 24 2 % 1024 = s.rf.pinFault % 1024) ∧
  (∀ (pt : Fin 4) (a : AntMeasure) (e : Nat) (l : Launch) (s : State), let p := pt.val
    let rl := (a.ratio - cfgGetI s.toChip 0x0301 (0x103 + 0x10 * p)).toNat
    let phase := (a.arg - 7200 * (l.freq : Int) * s.tx.delays.tau.get p / 10000000 + 1800) % 3600 - 1800
    let seen := { l with measured := true }
    reverseWindow s.toChip p = some (e, l) →
    (a.clipped = true → Does (.antennaMeasure pt a) s fun t => Raised 53 1 t ∧ (t.rf.ports.get p).rl = (s.rf.ports.get p).rl ∧
      (t.rf.ports.get p).cond = (s.rf.ports.get p).cond ∧ t.tx.entries = s.tx.entries.set e (some seen) ∧ OnlyChanges [.rf, .tx, .ev] s.toChip t) ∧
    (a.clipped = false → portCfg s.toChip p 4 = 0 → feCfg s.toChip 0xE = 0 → Does (.antennaMeasure pt a) s fun t =>
      let cond := condOf s.toChip rl phase
      (t.rf.ports.get p).rl = min rl 65535 ∧ (t.rf.ports.get p).cond = cond ∧ (t.rf.ports.get p).measuredAt = s.now ∧
      (l.src ≠ .probe → (t.rf.ports.get p).launchMeasAt = some s.now ∧ t.tx.entries = s.tx.entries.set e (some seen)) ∧
      (l.src = .probe → t.tx.entries.get e = some { seen with probe := some (rl, phase, cond) }) ∧
      (cond ≠ (s.rf.ports.get p).cond → (cond = 1 → Raised 37 (pack [(0, 4, p), (16, 16, rl)]) t) ∧ (cond = 2 → Raised 38 p t) ∧
        (cond = 3 → Raised 39 p t)) ∧ OnlyChanges [.rf, .tx, .ev, .cal] s.toChip t) ∧
    (a.clipped = false → portCfg s.toChip p 4 = 0 → feCfg s.toChip 0xE = 1 → (∀ x ∈ placed s.toChip, x.2.port = p → x.2.src = .probe) →
      Does (.antennaMeasure pt a) s fun t => (2 ≤ condOf s.toChip rl phase → (t.rf.ports.get p).faulted = true) ∧
        (condOf s.toChip rl phase ≤ 1 → (t.rf.ports.get p).faulted = false) ∧ OnlyChanges [.rf, .tx, .ev, .cal] s.toChip t) ∧
    (a.clipped = false → portCfg s.toChip p 4 ≠ 0 → feCfg s.toChip 0xE = 0 → feCfg s.toChip 0x11 ≤ rl → Does (.antennaMeasure pt a) s fun t =>
      (t.rf.ports.get p).atLimit = false ∧ (t.rf.ports.get p).ser = (s.rf.ports.get p).ser ∧ (t.rf.ports.get p).shunt = (s.rf.ports.get p).shunt)) ∧
  (∀ (p : Fin 4) (s : State), (s.rf.ports.get p.val).toWrite = true → driving s.toChip (fun l => l.port = p.val) = false →
    p.val ∉ s.rf.biasPorts → Does (.tunerCodeWrite p) s fun t =>
      let addr := portCfg s.toChip p.val 5
      t.rf.ports.get p.val = { s.rf.ports.get p.val with toWrite := false } ∧ OnlyChanges [.rf] s.toChip t ∧
      (rffeDown s.toChip (fld addr 4 1) = false → t.rf.rffe = s.rf.rffe ++
        [(fld addr 4 1, fld addr 0 4, portCfg s.toChip p.val 6, (s.rf.ports.get p.val).ser),
         (fld addr 4 1, fld addr 0 4, portCfg s.toChip p.val 7, (s.rf.ports.get p.val).shunt)]) ∧
      (rffeDown s.toChip (fld addr 4 1) = true → t.rf.rffe = s.rf.rffe)) ∧
  (∀ (c : CmdRef) (m : Cmd) (p : Nat) (s : State), runnable c 0x0305 s.toChip = some m → rd m.params 0 1 = p → p ≤ 3 → obsPort s.toChip p = true →
    ZeroBytes m.params 1 3 →
    ((band s.toChip 0).state = 0 ∨ (band s.toChip 0).state = 4 → Does (.antProbe c) s (JustCompletes c stBusy [] s.toChip)) ∧
    (∀ e, (band s.toChip 0).state ≠ 0 → (band s.toChip 0).state ≠ 4 → Accepts (probeLaunch s.toChip p (some c)) e s.toChip → Does (.antProbe c) s fun t =>
      Queued (probeLaunch s.toChip p (some c)) e s.toChip t ∧ AcceptedCmd c t ∧ OnlyChanges [.tx, .rf, .sch, .ev, .ubfen] s.toChip t)) ∧
  (∀ (pt : Fin 4) (e : Nat) (s : State), let p := pt.val
    s.boot.service = true → goingDown s.toChip 5 = false → obsPort s.toChip p = true → feCfg s.toChip 0xF ≠ 0 →
    (s.rf.ports.get p).measuredAt + feCfg s.toChip 0xF * nsSec ≤ s.now → (band s.toChip 0).state ≠ 0 → (band s.toChip 0).state ≠ 4 →
    (∀ x ∈ launches s.toChip, x.2.src ≠ .probe ∨ x.2.port ≠ p) → Accepts (probeLaunch s.toChip p none) e s.toChip → Does (.antennaProbeDue pt) s fun t =>
      Queued (probeLaunch s.toChip p none) e s.toChip t ∧ OnlyChanges [.tx, .rf, .sch, .ev] s.toChip t)

/-- A block of an enabled channel of a receiving band advances BSEQ, enters the queue of its band with the stamp of its
first sample at the ball, and sets the gain: a clip or a level over the target by more than 6 dB lowers it by at
least 6 dB, a level more than 3 dB under it raises it by 1 dB to at most 60 after the hold, otherwise it stays; a
frozen gain falls by 6 dB only on two clipped samples, with STEP. The first idle block gives the noise floor a
value. NF_BUSY_TIMEOUT sets NF_BUSY after 60 s; AGC_RANGE_ALERT raises EV_AGC_RANGE after its span. DETECTOR_SCAN of
a channel that detects turns a detection that its settings scan for and that meets the criterion into one record and
counts it; a detection that a context still follows is only counted as masked. THRESHOLD_LOOP raises the threshold
by its step above ten times the target, lowers it by one after enough quiet seconds. (05 R155, 05 R159, 05 R160, 05
R163, 05 R164, 05 R165, 05 R166, 05 R167, 05 R170, 05 R171, 05 Table 5.4, 05 Table 5.8) -/
def Obligations.ChannelBlocksAndDetection : Prop :=
  (∀ (ch : Fin 128) (l : List (BitVec 10 × BitVec 10)) (s : State), let n := ch.val
    let b := n / 64
    let q := s.dq.get (64 + b)
    let span := blockSpan (fld (chCfg s.toChip n) 3 2)
    let delay := dCh (fld (chCfg s.toChip n) 3 2) + span
    l.length = 32 → bitOf (chCfg s.toChip n) 0 = true → s.boot.service = true → bandRx s.toChip b = true →
    pdOn s.toChip (bandPd b) = true → (bitOf s.chn.replayRun b = false ∨ s.rwd.mode ≠ 1) →
    ∃ t : Chip, exec (.channelBlockOut ch l) s = .next { s with toChip := t } ∧
      let c := bypassBefore s.toChip (s.now - delay) (s.chn.chans.get n)
      let d := t.chn.chans.get n
      let (p, cl) := (blockPower l, clipCount l)
      d.bseq = (c.bseq + 1) % 256 ∧ (∀ k, k ≠ n → t.chn.chans.get k = s.chn.chans.get k) ∧ d.thr = c.thr ∧
      ((∀ e ∈ c.byp, s.now - delay + span ≤ e.1) →
        (c.frozen = false → (0 < cl ∨ levelHigh s.toChip p = true) →
          d.gain = c.gain - max 6 (ceilDb p - cfgGetI s.toChip 0x0601 1).toNat ∧ d.step = false) ∧
        (c.frozen = false → cl = 0 → levelHigh s.toChip p = false → levelLow s.toChip p = true →
          c.lastRise + chnCfg s.toChip 2 * nsUs ≤ s.now → d.gain = min (c.gain + 1) 60 ∧ d.lastRise = s.now) ∧
        (c.frozen = false → cl = 0 → levelHigh s.toChip p = false → levelLow s.toChip p = false → d.gain = c.gain) ∧
        (c.frozen = true → (cl < 2 → d.gain = c.gain ∧ d.step = false) ∧ (2 ≤ cl → 0 < c.gain → d.gain = c.gain - 6 ∧ d.step = true))) ∧
      (c.frozen = false → cl = 0 → c.recorded = false → bitOf s.chn.replay b = false → d.nf.isSome = true ∧ d.nfBusy = false ∧ d.lastIdle = s.now) ∧
      (q.en = true → q.flushing = false → q.skip = false → q.loseRest = false → q.opn = none → q.used + 35 ≤ q.depth →
        ∃ ws, (t.dq.get (64 + b)).fill = q.fill ++ [⟨.data, 0, byte n, 0, ws, 0, q.nextNo⟩] ∧
          ws.drop 3 = l.map (fun x => w32 (x.1.toNat + 1024 * x.2.toNat)) ∧ (ws.headD 0).toNat % 128 = n ∧
          headStamp ws = (blockStamp s.toChip b delay).1) ∧
      (s.rwd.mode ≠ 1 → OnlyChanges [.dq, .ev, .chn, .freeCtr] s.toChip t)) ∧
  (∀ (ch : Fin 128) (s : State), bitOf (chCfg s.toChip ch.val) 0 = true → bandRx s.toChip (ch.val / 64) = true →
    (s.chn.chans.get ch.val).lastIdle + 60 * nsSec ≤ s.now → Does (.nfBusyTimeout ch) s fun t =>
      t.chn.chans.get ch.val = { s.chn.chans.get ch.val with nfBusy := true } ∧ OnlyChanges [.chn] s.toChip t) ∧
  (∀ (ch : Fin 128) (s : State), let c := s.chn.chans.get ch.val
    bitOf (chCfg s.toChip ch.val) 0 = true → bandRx s.toChip (ch.val / 64) = true →
    ((c.rangeCase = 1 ∧ c.rangeAt + 100 * nsMs ≤ s.now) ∨ (c.rangeCase = 2 ∧ c.rangeAt + nsSec ≤ s.now)) →
    limFree 42 ch.val (10 * nsSec) s.toChip = true →
    Does (.agcRangeAlert ch) s fun t => Raised 42 (chPay ch.val) t ∧ limFree 42 ch.val (10 * nsSec) t = false ∧ OnlyChanges [.ev] s.toChip t) ∧
  (∀ (bd : Band) (d : Detection) (ws : List Word) (u : Chip) (s : State), let b := bandIdx bd
    let ch := (ws.headD 0).toNat % 128
    let at_ := detStamp (headStamp ws) d
    let fsk := decide (d.family = .fsk)
    pdOn s.toChip 6 = true → nextBlock b s.toChip = (some ws, u) → bitOf s.chn.replayRun b = false → bandDetects s.toChip b = true →
    chStopped s.toChip ch = false → scans s.toChip ch d = true → meets s.toChip ch d = true →
    (chanBusy s.toChip ch = [] → Does (.detectorScan bd [d]) s fun t => t.dem.recs = s.dem.recs ++
        [⟨ch, fsk, d.mode, w32 (at_ / 2 ^ 16), at_ % 2 ^ 16, detBin d, coarseOff s.toChip ch d, (detLast d).2, bitOf (ws.getD 2 0).toNat 16,
          demPhyCfg s.toChip, chnCfg s.toChip 5, famGet fsk (s.chn.chans.get ch).thr⟩] ∧
      t.dem.ctxs = s.dem.ctxs ∧ (t.chn.chans.get ch).recorded = true ∧
      t.cnt.get (chCnt ch 0) = satAdd 0xFFFFFFFF (s.cnt.get (chCnt ch 0)) 1 ∧ OnlyChanges [.dq, .dem, .chn, .cnt, .ev] s.toChip t) ∧
    (∀ x ∈ chanBusy s.toChip ch, masks ch (headStamp ws) d (ctx s.toChip x) = true → Does (.detectorScan bd [d]) s fun t =>
      t.dem.recs = s.dem.recs ∧ t.cnt.get (chCnt ch 4) = satAdd 0xFFFFFFFF (s.cnt.get (chCnt ch 4)) 1 ∧
      OnlyChanges [.dq, .dem, .chn, .cnt, .ev] s.toChip t)) ∧
  (∀ (ch : Fin 128) (fam : Family) (s : State), let fsk := decide (fam = .fsk)
    let c := s.chn.chans.get ch.val
    let thr := famGet fsk c.thr
    let f := ((famGet fsk c.falses).filter fun x => decide (s.now < x + nsSec)).length
    chnCfg s.toChip 6 = 1 → bitOf (chCfg s.toChip ch.val) 0 = true → limFree 200 (2 * ch.val + b2n fsk) nsSec s.toChip = true →
    bitOf s.chn.replay (ch.val / 64) = false → Does (.thresholdLoop ch fam) s fun t =>
      let d := t.chn.chans.get ch.val
      let tgt := chnCfg s.toChip 0xB
      d.falses = c.falses ∧ famGet (!fsk) d.thr = famGet (!fsk) c.thr ∧ d.gain = c.gain ∧
      (tgt < 10 * f → famGet fsk d.thr = min (thr + chnCfg s.toChip 0xC) (chnCfg s.toChip 0xA) ∧ famGet fsk d.quiet = 0) ∧
      (10 * f ≤ tgt → 40 * f ≤ tgt → chnCfg s.toChip 0xD ≤ famGet fsk c.quiet + 1 →
        famGet fsk d.thr = max (thr - 1) (chnCfg s.toChip 9) ∧ famGet fsk d.quiet = 0) ∧
      (10 * f ≤ tgt → 40 * f ≤ tgt → famGet fsk c.quiet + 1 < chnCfg s.toChip 0xD →
        famGet fsk d.thr = thr ∧ famGet fsk d.quiet = famGet fsk c.quiet + 1) ∧
      (10 * f ≤ tgt → tgt < 40 * f → famGet fsk d.thr = thr ∧ famGet fsk d.quiet = 0) ∧
      (famGet fsk d.thr ≠ thr → Raised 44 (pack [(0, 8, chPay ch.val), (16, 10, famGet fsk d.thr), (31, 1, b2n fsk)]) t) ∧
      OnlyChanges [.chn, .ev] s.toChip t)

/-- With legal parameters, no earlier drain of the channels and no record of them waiting: RX_CHANNEL_SET on a receiving
band takes effect at once where no context receives on the channel or the setting need not drain, with 0 us and the
count of enabled channels; where a context does and the setting must drain, it waits, accepted; on a band that does
not receive the register takes the value and PENDING is answered. RX_WINDOW_SET with no busy context sets the
window, disables exactly the channels that no longer fit, and answers their count. CHANNEL_DRAIN_DONE of the last
channel applies the waiting change and completes it. RX_CHANNEL_STATUS and RX_COUNTERS_READ return their channels'
words, the latter clearing only when asked; RX_THRESH_SET stores a threshold and answers the old one. The other
channels' settings stay. (05 R152, 05 R157, 05 R158, 05 R171, 05 R173, 05 R174, 05 R175, 05 Table 5.6, 05 Table 5.7,
05 Table 5.8) -/
def Obligations.ChannelSettingsComplete : Prop :=
  (∀ (c : CmdRef) (m : Cmd) (ch : Nat) (s : State), runnable c 0x0402 s.toChip = some m → rd m.params 0 1 = ch → ch ≤ 127 → rd m.params 1 1 ≤ 15 →
    rd m.params 2 1 ≤ 3 → rd m.params 3 1 ≤ 3 → rd m.params 4 2 < 2 ^ 15 → rd m.params 6 1 ≤ 15 → rd m.params 7 1 ≤ 3 →
    scanRates (rd m.params 2 1) (rd m.params 7 1) (rd m.params 6 1) = rd m.params 6 1 →
    let f := rd m.params 1 1
    let v := pack [(0, 1, f), (1, 1, f / 2), (2, 1, f / 4), (3, 2, rd m.params 2 1), (5, 2, rd m.params 3 1), (7, 4, rd m.params 6 1),
      (11, 2, rd m.params 7 1), (14, 15, rd m.params 4 2)]
    (bitOf f 0 = true → chFits s.toChip ch v = true) → (∀ g ∈ s.chn.changes, ch ∉ g.all) → (∀ r ∈ s.dem.recs, r.ch ≠ ch) →
    (bandRx s.toChip (ch / 64) = true → chanLive s.toChip ch = [] ∨ mustDrain (chCfg s.toChip ch) v = false → Does (.rxChannelSet c) s fun t => chCfg t ch = v ∧
      (∀ k, k ≠ ch → chCfg t k = chCfg s.toChip k) ∧ Completed c stOk (wr 4 0 ++ wr 1 (chEnabled t) ++ zeros 3) t ∧
      (bitOf (chCfg s.toChip ch) 0 = false → bitOf f 0 = true → (t.chn.chans.get ch).thr = (chnCfg s.toChip 7, chnCfg s.toChip 8)) ∧
      (chEnabled t ≠ chEnabled s.toChip → Raised 50 (chEnabled t) t) ∧ OnlyChanges [.cfg, .chn, .ev, .rwd, .dem, .ubfen] s.toChip t) ∧
    (bandRx s.toChip (ch / 64) = true → chanLive s.toChip ch ≠ [] → mustDrain (chCfg s.toChip ch) v = true → bitOf f 3 = false →
      Does (.rxChannelSet c) s fun t => t.cfg = s.cfg ∧ AcceptedCmd c t ∧
        t.chn.changes = s.chn.changes ++ [⟨[ch], [ch], none, [(ch, v)], c, s.now⟩] ∧ OnlyChanges [.chn, .dem, .ubfen] s.toChip t) ∧
    (bandRx s.toChip (ch / 64) = false → Does (.rxChannelSet c) s fun t => chCfg t ch = v ∧ (t.chn.chans.get ch).pendingSet = true ∧
      (∀ k, k ≠ ch → chCfg t k = chCfg s.toChip k) ∧ Completed c stOk (wr 4 0 ++ wr 1 (chEnabled t) ++ wr 1 1 ++ zeros 2) t ∧
      OnlyChanges [.cfg, .chn, .ev, .rwd, .ubfen] s.toChip t)) ∧
  (∀ (c : CmdRef) (m : Cmd) (b w : Nat) (s : State), runnable c 0x0401 s.toChip = some m → rd m.params 0 1 = b → b ≤ 1 → rd m.params 1 1 = w → w ≤ 3 →
    rd m.params 2 1 ≤ 3 → rd m.params 3 1 ≤ 3 → rd m.params 4 2 < 2 ^ 15 → ZeroBytes m.params 6 2 →
    let v := pack [(0, 1, rd m.params 2 1), (1, 2, rd m.params 3 1), (8, 15, rd m.params 4 2)]
    (bitOf (rd m.params 2 1) 0 = true → winInBand b v = true) → s.chn.changes = [] → s.dem.recs = [] → bandBusy s.toChip b = [] →
    bandRx s.toChip b = true → Does (.rxWindowSet c) s fun t => winCfg t (4 * b + w) = v ∧ (∀ k, k ≠ 4 * b + w → winCfg t k = winCfg s.toChip k) ∧
      (∃ n, Completed c stOk (wr 4 0 ++ wr 1 n ++ zeros 3) t ∧ n = ((List.range 64).filter fun i => bitOf (chCfg s.toChip (64 * b + i)) 0 &&
        !bitOf (chCfg t (64 * b + i)) 0).length) ∧
      (∀ i, i < 64 → bitOf (chCfg s.toChip (64 * b + i)) 0 = true → fld (chCfg s.toChip (64 * b + i)) 5 2 = w →
        (bitOf (chCfg t (64 * b + i)) 0 = true ↔ chFits t (64 * b + i) (chCfg s.toChip (64 * b + i)) = true)) ∧
      OnlyChanges [.cfg, .chn, .ev, .rwd, .dem, .ubfen] s.toChip t) ∧
  (∀ (ch : Fin 128) (g : ChnChange) (m : Cmd) (v : Nat) (s : State), s.chn.changes.find? (fun g => g.chans.contains ch.val) = some g →
    g.chans = [ch.val] → g.win = none → g.sets = [(ch.val, v)] → findCmd g.cmd s.toChip = some m → chanLive s.toChip ch.val = [] →
    Does (.channelDrainDone ch) s fun t => chCfg t ch.val = v ∧ t.chn.changes = s.chn.changes.erase g ∧
      Completed g.cmd stOk (wr 4 ((s.now - g.at_) / nsUs) ++ wr 1 (chEnabled t) ++ zeros 3) t ∧
      OnlyChanges [.cfg, .chn, .ev, .rwd, .ubfen] s.toChip t) ∧
  (∀ (c : CmdRef) (m : Cmd) (a n : Nat) (s : State), runnable c 0x0403 s.toChip = some m → rd m.params 0 1 = a → rd m.params 1 1 = n → 1 ≤ n →
    a + n ≤ 128 → ZeroBytes m.params 2 2 → ∃ res, Does (.rxChannelStatus c) s (JustCompletes c stOk res s.toChip) ∧ res.length = 8 * n ∧
      ∀ i, i < n → Field res (8 * i) 4 (chStat s.toChip (a + i)) ∧ Field res (8 * i + 4) 4 (chThr s.toChip (a + i))) ∧
  (∀ (c : CmdRef) (m : Cmd) (ch x : Nat) (s : State), runnable c 0x0404 s.toChip = some m → rd m.params 0 1 = ch → ch ≤ 127 → rd m.params 1 1 = x →
    x ≤ 1 → chnCfg s.toChip 9 ≤ rd m.params 2 2 → rd m.params 2 2 ≤ chnCfg s.toChip 0xA → Does (.rxThreshSet c) s fun t =>
      Completed c stOk (wr 2 (famGet (decide (x = 1)) (s.chn.chans.get ch).thr) ++ zeros 2) t ∧
      t.chn.chans.get ch = { s.chn.chans.get ch with thr := famSet (decide (x = 1)) (rd m.params 2 2) (s.chn.chans.get ch).thr } ∧
      (∀ k, k ≠ ch → t.chn.chans.get k = s.chn.chans.get k) ∧ OnlyChanges [.chn, .ubfen] s.toChip t) ∧
  (∀ (c : CmdRef) (m : Cmd) (a n : Nat) (s : State), runnable c 0x0405 s.toChip = some m → rd m.params 0 1 = a → rd m.params 1 1 = n → 1 ≤ n →
    a + n ≤ 128 → rd m.params 2 1 ≤ 1 → ZeroBytes m.params 3 1 → ∃ res, res.length = 16 * n ∧
      (∀ i, i < 4 * n → Field res (4 * i) 4 (s.cnt.get (chCnt a 0 + 4 * i))) ∧
      Does (.rxCountersRead c) s fun t => Completed c stOk res t ∧ OnlyChanges [.cnt, .ubfen] s.toChip t ∧ (rd m.params 2 1 = 0 → t.cnt = s.cnt) ∧
        (rd m.params 2 1 = 1 → ∀ i, i < 4 * n → t.cnt.get (chCnt a 0 + 4 * i) = 0))

/-- CONTEXT_ALLOCATE takes the first record in order: with a free context outside the other band's reservation it claims
the first one, in ALIGN, with the record's fields (not COLLIDED where no reception of the channel is there or left
within 2 s), counts the claim and freezes the channel at its next block; without one, and without pre-emption, it
counts the exhaustion. A found alignment, accepted network, good header, or good PHR moves the context on; a
timeout, a foreign network, a bad header or PHR ends it with its outcome of Table 7.6, counted, and, unless false
receptions are reported, without a descriptor. A payload group adds its bits and the last one moves to FINISH, or
waits while a source symbol over it is not known. CONTEXT_FINISH of a lone context whose check holds ends it with
outcome 0, counts it and sends one descriptor with the frame, the arrival stamp and the next DSEQ to the frame
engine. CONTEXT_FREE frees an ended context. (07 R203, 07 R204, 07 R206, 07 R209, 07 R213, 07 R217, 07 R218, 07
R222, 07 R225, 07 Table 7.6, 07 Table 7.8) -/
def Obligations.ContextsAdvanceAndEnd : Prop :=
  (∀ (r : DetRec) (x : Nat) (s : State), pdOn s.toChip 6 = true → nextRec s.dem.recs = some r →
    unmet s.toChip (1 - r.ch / 64) < 96 - (busyCtxs s.toChip).length → freeCtx s.toChip = some x → chanBusy s.toChip r.ch = [] →
    (∀ p ∈ s.dem.past, p.ch ≠ r.ch) → Does .contextAllocate s fun t => t.dem.recs = s.dem.recs.erase r ∧ (ctx t x).st = 1 ∧ (ctx t x).ch = r.ch ∧ (ctx t x).fsk = r.fsk ∧
      (ctx t x).mode = r.mode ∧ (ctx t x).ns = r.ns ∧ (ctx t x).frac = r.frac ∧ (ctx t x).no = s.dem.claims + 1 ∧ (ctx t x).collided = false ∧
      (ctx t x).sources = [] ∧ (ctx t x).ended = none ∧ (∀ y, y ≠ x → ctx t y = ctx s.toChip y) ∧
      (t.chn.chans.get r.ch).freezeNext = true ∧ t.cnt.get (demCnt (r.ch / 64) 0) = satAdd 0xFFFFFFFF (s.cnt.get (demCnt (r.ch / 64) 0)) 1 ∧
      OnlyChanges [.dem, .chn, .cnt] s.toChip t) ∧
  (∀ (r : DetRec) (s : State), pdOn s.toChip 6 = true → nextRec s.dem.recs = some r → freeCtx s.toChip = none → demCfg s.toChip 1 = 1 →
    Does .contextAllocate s fun t => t.dem.recs = s.dem.recs.erase r ∧ t.dem.ctxs = s.dem.ctxs ∧
      t.cnt.get (demCnt (r.ch / 64) 4) = satAdd 0xFFFFFFFF (s.cnt.get (demCnt (r.ch / 64) 4)) 1 ∧
      (s.dem.lastExhausted = none → Raised 46 (pack [(0, 1, 1), (32, 32, s.dem.exhausted + 1)]) t) ∧ OnlyChanges [.dem, .cnt, .ev] s.toChip t) ∧
  (∀ (x : Fin 96) (m : AlignMeasure) (s : State), let c := ctx s.toChip x.val
    let there := fun (t : Chip) (st : Nat) => (ctx t x.val).st = st ∧ (ctx t x.val).synced = true ∧ (ctx t x.val).align = m.symbols ∧
      (ctx t x.val).np = m.np ∧ (ctx t x.val).level = m.level ∧
      (ctx t x.val).ref = (((c.begin16 m.symbols : Int) + m.fine) % 2 ^ 48).toNat ∧ OnlyChanges [.dem, .cnt] s.toChip t
    c.st = 1 →
    (c.fsk = false → m.found = true → c.preMin ≤ m.symbols → m.symbols ≤ 255 → Does (.contextAlignEnd x m) s fun t => there t 2) ∧
    (∀ fec, c.fsk = true → sfdFec c m.sfd.toNat = some fec → fskPreMin c.mod ≤ m.np →
      Does (.contextAlignEnd x m) s fun t => there t 3 ∧ (ctx t x.val).fec = fec) ∧
    (c.fsk = false → m.found = false → 255 ≤ m.symbols → c.ended = none → c.reportFalse = false → Does (.contextAlignEnd x m) s fun t =>
      (ctx t x.val).st = 6 ∧ (ctx t x.val).ended = some (4, stRxHdrCrc) ∧ t.dem.dseq = s.dem.dseq ∧
      OnlyChanges [.dem, .cnt, .chn] s.toChip t)) ∧
  (∀ (x : Fin 96) (m0 m1 : Nat) (p0 p1 : Int) (s : State), let c := ctx s.toChip x.val
    let id := 64 * syncHalf c.mode m0 + syncHalf c.mode m1
    let strong := ((c.thr : Nat) : Int) ≤ p0 ∧ ((c.thr : Nat) : Int) ≤ p1 ∧ c.preMin < c.align
    c.st = 2 →
    (strong → netidAccepted s.toChip id = true → Does (.syncDecide x m0 m1 p0 p1) s fun t =>
      (ctx t x.val).st = 3 ∧ (ctx t x.val).netid = id ∧ (ctx t x.val).align = c.align ∧ OnlyChanges [.dem, .cnt] s.toChip t) ∧
    (strong → netidAccepted s.toChip id = false → c.ended = none → c.reportFalse = false → Does (.syncDecide x m0 m1 p0 p1) s fun t =>
      (ctx t x.val).st = 6 ∧ (ctx t x.val).ended = some (5, stRxHdrCrc) ∧
      t.cnt.get (chCnt c.ch 0xC) = satAdd 0xFFFFFFFF (s.cnt.get (chCnt c.ch 0xC)) 1 ∧ OnlyChanges [.dem, .cnt] s.toChip t) ∧
    (¬ strong → c.ended = none → c.reportFalse = false → Does (.syncDecide x m0 m1 p0 p1) s fun t =>
      (ctx t x.val).st = 6 ∧ (ctx t x.val).ended = some (4, stRxHdrCrc) ∧ OnlyChanges [.dem, .cnt, .chn] s.toChip t)) ∧
  (∀ (x : Fin 96) (syms : List Bins) (level : Int) (s : State), let c := ctx s.toChip x.val
    let bits := (headerDecode c.mode (((syms.take 8).zipIdx).map fun p => strongest (cleanBins s.toChip c (c.align + 2 + p.2) p.1))).1
    let len := natOfBits (bits.take 8)
    c.st = 3 → c.fsk = false →
    (len ≠ 0 → natOfBits ((bits.drop 8).take 8) = hcrc len c.mode c.bw → Does (.headerDecide x syms level) s fun t =>
      (ctx t x.val).st = 4 ∧ (ctx t x.val).hdrOk = true ∧ (ctx t x.val).len = len ∧ (ctx t x.val).level = level ∧
      OnlyChanges [.dem, .cnt] s.toChip t) ∧
    (len = 0 ∨ natOfBits ((bits.drop 8).take 8) ≠ hcrc len c.mode c.bw → c.ended = none → c.reportFalse = false →
      Does (.headerDecide x syms level) s fun t => (ctx t x.val).st = 6 ∧ (ctx t x.val).ended = some (3, stRxHdrCrc) ∧
      t.cnt.get (demCnt (c.ch / 64) 0x1C) = satAdd 0xFFFFFFFF (s.cnt.get (demCnt (c.ch / 64) 0x1C)) 1 ∧ OnlyChanges [.dem, .cnt, .chn] s.toChip t)) ∧
  (∀ (x : Fin 96) (s : State), let c := ctx s.toChip x.val
    c.st = 1 → c.fsk = true → c.ended = none → c.reportFalse = false → Does (.fskSfdTimeout x) s fun t => (ctx t x.val).st = 6 ∧
      (ctx t x.val).ended = some (6, stRxHdrCrc) ∧ OnlyChanges [.dem, .cnt, .chn] s.toChip t) ∧
  (∀ (x : Fin 96) (bits : List Bool) (level : Int) (s : State), let c := ctx s.toChip x.val
    let raw := bits.take (if c.fec = true then 32 else 16)
    let v := natOfMsb (fskInfo { c with bits := raw } 16).1
    let f := if bitOf v 12 = true then 2 else 4
    c.fsk = true → c.st = 3 →
    (bitOf v 15 = false → fld v 0 11 ≤ fld c.phy 16 11 → f ≤ fld v 0 11 → Does (.fskPhrDecide x bits level) s fun t =>
      (ctx t x.val).st = 4 ∧ (ctx t x.val).hdrOk = true ∧ (ctx t x.val).fcs2 = bitOf v 12 ∧ (ctx t x.val).white = bitOf v 11 ∧
      (ctx t x.val).len = fld v 0 11 - f ∧ (ctx t x.val).bits = raw ∧ (ctx t x.val).level = level ∧ OnlyChanges [.dem, .cnt] s.toChip t) ∧
    (bitOf v 15 = true ∨ fld c.phy 16 11 < fld v 0 11 ∨ fld v 0 11 < f → c.ended = none → c.reportFalse = false →
      Does (.fskPhrDecide x bits level) s fun t => (ctx t x.val).st = 6 ∧ (ctx t x.val).ended = some (7, stRxHdrCrc) ∧
        OnlyChanges [.dem, .cnt, .chn] s.toChip t)) ∧
  (∀ (x : Fin 96) (syms : List Bins) (bits : List Bool) (level : Int) (s : State), let c := ctx s.toChip x.val
    let all := (c.bits ++ bits).take (fskBodyBits c.fec c.fcs2 c.len)
    c.st = 4 →
    (c.fsk = true → Does (.payloadGroupDecode x syms bits level) s fun t => (ctx t x.val).bits = all ∧ (ctx t x.val).waiting = false ∧
      (ctx t x.val).st = (if fskBodyBits c.fec c.fcs2 c.len ≤ all.length then 5 else 4) ∧ (ctx t x.val).level = level ∧
      OnlyChanges [.dem, .cnt] s.toChip t) ∧
    (c.fsk = false → syms.length = 8 → mustWait s.toChip c = true → Does (.payloadGroupDecode x syms bits level) s fun t =>
      ctx t x.val = { c with waiting := true } ∧ (∀ y, y ≠ x.val → ctx t y = ctx s.toChip y) ∧ OnlyChanges [.dem] s.toChip t) ∧
    (c.fsk = false → syms.length = 8 → mustWait s.toChip c = false → Does (.payloadGroupDecode x syms bits level) s fun t =>
      (ctx t x.val).pay.length = c.pay.length + 8 ∧ (ctx t x.val).groups.length = c.groups.length + 1 ∧ (ctx t x.val).waiting = false ∧
      (ctx t x.val).len = c.len ∧ (ctx t x.val).level = level ∧
      (ctx t x.val).st = (if payGroups c.mode c.len ≤ c.groups.length + 1 then 5 else 4) ∧
      (c.sicEn = false → c.sources = [] → (ctx t x.val).groups = c.groups ++ [groupDecode c.mode (syms.map strongest)]) ∧
      OnlyChanges [.dem, .cnt] s.toChip t)) ∧
  (∀ (x : Fin 96) (a : RxMeasure) (s : State), let c := ctx s.toChip x.val
    c.st = 5 → c.ended = none → c.collided = false → c.sources = [] → c.sic = false → c.replay = false → s.pwr.state ≠ 2 →
    c.mirror = false → Does (.contextFinish x a) s fun t =>
      let o := if checkPassed c = true then 0 else 1
      (ctx t x.val).ended = some (o, outcomeStatus o) ∧ t.dem.dseq = (s.dem.dseq + 1) % 2 ^ 32 ∧
      (∃ ws : List Word, ws.length = 8 ∧ (ws.getD 7 0).toNat = s.dem.dseq % 2 ^ 32 ∧
        (ws.getD 0 0).toNat % 2 ^ 20 = outcomeStatus o + o * 2 ^ 16 ∧ ws.getD 2 0 = w32 (arrival s.toChip c).1 ∧
        t.dq = s.dq.upd 87 (fun q => Dq.pump { q with wait := q.wait ++ [⟨.data, 0, byte c.ch, 0, ws ++ wordsOf ((ctxBytes c).take c.len), 0, 0⟩] }) ∧
        t.fe = { s.fe with srcs := s.fe.srcs ++ [(ws.getD 7 0, c.src)] }) ∧
      t.cnt.get (demCnt (c.ch / 64) (if o = 0 then 0xC else 0x10)) = satAdd 0xFFFFFFFF (s.cnt.get (demCnt (c.ch / 64) (if o = 0 then 0xC else 0x10))) 1 ∧
      OnlyChanges [.dem, .cnt, .fe, .dq] s.toChip t) ∧
  (∀ (x : Fin 96) (e : Nat × Nat) (s : State), let c := ctx s.toChip x.val
    c.ended = some e → (band s.toChip (c.ch / 64)).cal = none → Does (.contextFree x) s fun t => ctx t x.val = Ctx.reset ∧
      (∀ y, y ≠ x.val → ctx t y = ctx s.toChip y) ∧ OnlyChanges [.dem, .chn] s.toChip t ∧
      (chanBusy t c.ch = [] → (t.chn.chans.get c.ch).frozen = false))

/-- DESCRIPTOR_RELEASE, once the descriptors of its queue are in the hold, of the first held one with a DSEQ, when no
earlier stamp can still bring a frame of its source, moves exactly it to step 1 of the uplink; when one can, nothing
changes. DEM_STATUS returns the array word and one word per context and changes nothing. DEM_COUNTERS_READ returns
the 16 counters of a band, and clears them only when asked. RWD_REPLAY_STOP without a replay answers 0 words; with a
replay that has not begun and that no context follows it answers 0 words, ends the replay, raises
EV_RWD_REPLAY_DONE, and completes RWD_REPLAY as well. (07 R222, 07 R226, 07 R228, 01 R43, 07 Table 7.7, 07 Table
7.8, 07 Table 7.9, 17 R494) -/
def Obligations.DescriptorsStatusAndReplayStop : Prop :=
  (∀ (d : RxDesc) (q : Word) (s : State), let u := intake (s.dq.get 87).items s.toChip
    u.fe.held.find? (fun d => d.words.getD 7 0 = q) = some d →
    (releasable u d = true → Does (.descriptorRelease q) s fun t => t.fe = { u.fe with held := u.fe.held.erase d, uplink := u.fe.uplink ++ [d] } ∧
      OnlyChanges [.fe, .ev, .freeCtr] u t) ∧
    (releasable u d = false → Does (.descriptorRelease q) s fun t => t = u) ∧
    ((s.dq.get 87).items = 0 → u = s.toChip)) ∧
  (∀ (c : CmdRef) (m : Cmd) (a n : Nat) (s : State), runnable c 0x0410 s.toChip = some m → rd m.params 0 1 = a → rd m.params 1 1 = n → 1 ≤ n →
    a + n ≤ 96 → ZeroBytes m.params 2 2 → ∃ res, Does (.demStatus c) s (JustCompletes c stOk res s.toChip) ∧ res.length = 4 + 4 * n ∧
      rd res 0 4 % 128 = ((bandBusy s.toChip 0).length + (bandBusy s.toChip 1).length) % 128 ∧
      ∀ i, i < n → ((ctx s.toChip (a + i)).st = 0 → Field res (4 + 4 * i) 4 0) ∧ rd res (4 + 4 * i) 1 % 8 = (ctx s.toChip (a + i)).st % 8) ∧
  (∀ (c : CmdRef) (m : Cmd) (b : Nat) (s : State), runnable c 0x0411 s.toChip = some m → rd m.params 0 1 = b → b ≤ 1 → rd m.params 1 1 ≤ 1 →
    ZeroBytes m.params 2 2 → ∃ res, res.length = 64 ∧ (∀ i, i < 16 → Field res (4 * i) 4 (s.cnt.get (demCnt b 0 + 4 * i))) ∧
      Does (.demCountersRead c) s fun t => Completed c stOk res t ∧ OnlyChanges [.cnt, .ubfen] s.toChip t ∧ (rd m.params 1 1 = 0 → t.cnt = s.cnt) ∧
        (rd m.params 1 1 = 1 → ∀ i, i < 16 → t.cnt.get (demCnt b 0 + 4 * i) = 0)) ∧
  (∀ (c : CmdRef) (m : Cmd) (s : State), runnable c 0x0D07 s.toChip = some m → ZeroBytes m.params 0 4 →
    (s.rwd.replay = none → Does (.rwdReplayStop c) s (JustCompletes c stOk (zeros 4) s.toChip)) ∧
    (∀ r k, s.rwd.replay = some r → r.running = false → r.cmd ≠ c → findCmd r.cmd s.toChip = some k → s.dem.recs = [] →
      (∀ x ∈ busyCtxs s.toChip, (ctx s.toChip x).replay = false) → Does (.rwdReplayStop c) s fun t => t.rwd.replay = none ∧ Raised 122 0 t ∧
        Completed c stOk (zeros 4) t ∧ Completed r.cmd stOk (zeros 4 ++ wr 4 r.descriptors) t))

/-- RWD_ARM starts an empty capture with the configured mode and sources. RWD_PAGE_START while a whole page may still be
written puts the record and, in wideband mode, the page's samples, and the pointer advances by a page around the
ring. CAPTURE_GAP fills the page to its end, unless the post-trigger words end before, counts the loss and notes it
for the next page. RWD_TRIGGER in ARMED takes the trigger at the pointer, later ones are only counted. RWD_FREEZE
with NOW in ARMED freezes at once, raises EV_RWD_FREEZE and completes with trigger and pointer; without NOW it is
accepted and waits; RWD_POST_FREEZE then freezes and completes it. RWD_MARK names the pointer, a coming instant, or
nothing; MARK_OVERTAKEN clears an overwritten mark, counts it and raises EV_RWD_MARK_LOST. (17 R478, 17 R480, 17
R483, 17 R485, 17 R486, 17 R487, 17 R489, 17 Table 17.2, 17 Table 17.5) -/
def Obligations.RewindCapturesTriggersAndFreezes : Prop :=
  (∀ (c : CmdRef) (m : Cmd) (s : State), runnable c 0x0D01 s.toChip = some m → rd m.params 0 1 ≤ 1 → ZeroBytes m.params 1 3 → rd m.params 10 4 < nsSec →
    ZeroBytes m.params 14 2 → s.rwd.st ≠ 4 → cfgGet s.toChip 0x1001 2 ≠ 0 → Does (.rwdArm c) s fun t => t.rwd.st = 1 ∧ t.rwd.mode = cfgGet s.toChip 0x1001 2 ∧
      t.rwd.sources = cfgGet s.toChip 0x1001 3 ∧ t.rwd.wptr = 0 ∧ t.rwd.trig = 0xFFFFFFFF ∧ t.rwd.wrapped = false ∧ (∀ k, t.rwd.marks.get k = 0xFFFFFFFF) ∧
      t.rwd.at_ = (if rd m.params 0 1 = 1 then some (rd m.params 4 6 * nsSec + rd m.params 10 4) else none) ∧ Completed c stOk [] t ∧
      OnlyChanges [.rwd, .ubfen] s.toChip t) ∧
  (∀ (ws : List Word) (s : State), rwdWriting s.toChip = true → (s.rwd.st = 1 ∨ 4096 ≤ s.rwd.postLeft) → s.rwd.wptr % 4096 = 0 →
    s.rwd.wptr < ringWords s.rwd.ringLog2 → 14 ≤ s.rwd.ringLog2 → s.rwd.mode = 0 → Does (.rwdPageStart ws) s fun t =>
      t.rwd.wptr = (s.rwd.wptr + 4096) % ringWords s.rwd.ringLog2 ∧ t.rwd.changed = false ∧ t.rwd.gap = none ∧ t.rwd.backlog = [] ∧
      t.rwd.st = s.rwd.st ∧ (4092 ≤ ws.length → t.freeCtr = s.freeCtr) ∧ OnlyChanges [.rwd, .dram, .freeCtr] s.toChip t) ∧
  (∀ (k : Nat) (s : State), rwdWriting s.toChip = true → 0 < k → 14 ≤ s.rwd.ringLog2 → s.rwd.wptr < ringWords s.rwd.ringLog2 → Does (.captureGap k) s fun t =>
    (s.rwd.st = 1 ∨ 4096 ≤ s.rwd.postLeft → t.rwd.wptr % 4096 = 0) ∧ t.rwd.gap = some (s.rwd.gap.getD 0 + k) ∧ t.rwd.gapped = true ∧ t.rwd.backlog = [] ∧
    t.cnt.get 0x100014 = satAdd 0xFFFFFFFF (s.cnt.get 0x100014) k ∧ OnlyChanges [.rwd, .dram, .cnt] s.toChip t) ∧
  (∀ (k : Fin 16) (s : State), s.rwd.fresh.get k.val = 2 → Does (.markOvertaken k) s fun t => t.rwd.marks.get k.val = 0xFFFFFFFF ∧
    t.rwd.fresh.get k.val = 0 ∧ Raised 121 k.val t ∧ t.cnt.get 0x100018 = satAdd 0xFFFFFFFF (s.cnt.get 0x100018) 1 ∧
    OnlyChanges [.rwd, .ev, .cnt] s.toChip t) ∧
  (∀ (e : Fin 128) (l : List Nat) (s : State), s.ev.trigs = e.val :: l →
    (s.rwd.st = 1 → Does (.rwdTrigger (some e)) s fun t => t.rwd = { s.rwd with st := 2, trig := s.rwd.wptr, code := 1, postLeft := t.rwd.postLeft } ∧
      t.rwd.postLeft = cfgGet s.toChip 0x1001 4 * 2 ^ s.rwd.ringLog2 / 1024 ∧ t.ev.trigs = l ∧ OnlyChanges [.rwd, .ev] s.toChip t) ∧
    (s.rwd.st = 2 ∨ s.rwd.st = 3 → Does (.rwdTrigger (some e)) s fun t => t.rwd = s.rwd ∧ t.ev.trigs = l ∧
      t.cnt.get 0x100010 = satAdd 0xFFFFFFFF (s.cnt.get 0x100010) 1 ∧ OnlyChanges [.ev, .cnt] s.toChip t)) ∧
  (∀ (a : Nat) (s : State), s.rwd.at_ = some a → a ≤ (stampTd s.toChip).ns → s.rwd.st = 1 → Does (.rwdTrigger none) s fun t => t.rwd.st = 2 ∧
    t.rwd.trig = s.rwd.wptr ∧ t.rwd.code = 2 ∧ t.rwd.at_ = none ∧ OnlyChanges [.rwd] s.toChip t) ∧
  (∀ (a : Nat) (s : State), s.rwd.at_ = some a → a ≤ (stampTd s.toChip).ns → s.rwd.st = 2 ∨ s.rwd.st = 3 → Does (.rwdTrigger none) s fun t =>
    t.rwd = { s.rwd with at_ := none } ∧ t.cnt.get 0x100010 = satAdd 0xFFFFFFFF (s.cnt.get 0x100010) 1 ∧ OnlyChanges [.rwd, .cnt] s.toChip t) ∧
  (∀ (c : CmdRef) (m : Cmd) (s : State), s.rwd.st = 2 → s.rwd.postLeft = 0 → s.rwd.waiters = [c] → findCmd c s.toChip = some m →
    Does .rwdPostFreeze s fun t => t.rwd.st = 3 ∧ t.rwd.waiters = [] ∧ Completed c stOk (wr 4 s.rwd.trig ++ wr 4 s.rwd.wptr) t ∧
      (∃ f, t.rwd.frz = some f ∧ f.wptr = s.rwd.wptr ∧ f.trig = s.rwd.trig ∧ f.marks = s.rwd.marks ∧ f.mode = s.rwd.mode ∧ f.snapshot = s.rwd.snapshot) ∧
      Raised 120 (pack [(0, 8, s.rwd.code), (32, 32, s.rwd.trig)]) t ∧ OnlyChanges [.rwd, .ev, .ubfen] s.toChip t) ∧
  (∀ (c : CmdRef) (m : Cmd) (s : State), runnable c 0x0D02 s.toChip = some m → rd m.params 0 1 ≤ 1 → ZeroBytes m.params 1 3 → s.rwd.waiters = [] →
    (s.rwd.st = 1 → rd m.params 0 1 = 1 → Does (.rwdFreeze c) s fun t => t.rwd.st = 3 ∧ t.rwd.trig = s.rwd.wptr ∧ t.rwd.wptr = s.rwd.wptr ∧
      Completed c stOk (wr 4 s.rwd.wptr ++ wr 4 s.rwd.wptr) t ∧ Raised 120 (pack [(32, 32, s.rwd.wptr)]) t ∧ t.rwd.waiters = [] ∧
      OnlyChanges [.rwd, .ev, .ubfen] s.toChip t) ∧
    (s.rwd.st = 1 → rd m.params 0 1 = 0 → Does (.rwdFreeze c) s fun t => t.rwd.st = 2 ∧ t.rwd.trig = s.rwd.wptr ∧ t.rwd.code = 0 ∧ t.rwd.waiters = [c] ∧
      AcceptedCmd c t ∧ OnlyChanges [.rwd, .ubfen] s.toChip t) ∧
    (s.rwd.st = 3 → Does (.rwdFreeze c) s fun t => t.rwd = s.rwd ∧ Completed c stOk (wr 4 s.rwd.trig ++ wr 4 s.rwd.wptr) t ∧
      t.cnt.get 0x100010 = satAdd 0xFFFFFFFF (s.cnt.get 0x100010) 1 ∧ OnlyChanges [.cnt, .ubfen] s.toChip t)) ∧
  (∀ (c : CmdRef) (m : Cmd) (k : Nat) (s : State), runnable c 0x0D03 s.toChip = some m → rd m.params 0 1 = k → k ≤ 15 → ZeroBytes m.params 2 2 →
    rd m.params 10 4 < nsSec → ZeroBytes m.params 14 2 →
    let a := rd m.params 4 6 * nsSec + rd m.params 10 4
    (rd m.params 1 1 = 0 → Does (.rwdMark c) s fun t => t.rwd.marks = s.rwd.marks.set k s.rwd.wptr ∧ Completed c stOk (wr 4 s.rwd.wptr) t ∧
      OnlyChanges [.rwd, .ubfen] s.toChip t) ∧
    (rd m.params 1 1 = 2 → Does (.rwdMark c) s fun t => t.rwd.marks = s.rwd.marks.set k 0xFFFFFFFF ∧ t.rwd.future.get k = none ∧
      Completed c stOk (wr 4 0xFFFFFFFF) t ∧ OnlyChanges [.rwd, .ubfen] s.toChip t) ∧
    (rd m.params 1 1 = 1 → (stampTd s.toChip).ns < a → Does (.rwdMark c) s fun t => t.rwd.marks = s.rwd.marks.set k 0xFFFFFFFE ∧
      t.rwd.future.get k = some a ∧ Completed c stOk (wr 4 0xFFFFFFFE) t ∧ OnlyChanges [.rwd, .ubfen] s.toChip t) ∧
    (rd m.params 1 1 = 1 → a ≤ (stampTd s.toChip).ns → markPast s.toChip a = none → Does (.rwdMark c) s (JustCompletes c stNotFound [] s.toChip)))

/-- With legal parameters: RWD_STATUS returns the state, the pointers, the marks and the counters, cleared only when
asked. RWD_READ returns the pointer and exactly the words asked for, and changes nothing. With memory in its
canonical form, RWD_WRITE in IDLE or FROZEN puts its words into the ring, every byte of memory outside them reads as
before, and with LAST the ring is FROZEN, LOADED, with its pointer. (In any other state it is ST_BUSY.)
RWD_SETUP_READ returns the snapshot. RWD_REPLAY in FROZEN on receiving bands stops live detection and notes the
words to play; RWD_REPLAY_BEGIN starts it once no context of its bands is busy, and RWD_REPLAY_END, once all has
played, completes it with the words and descriptors, raises EV_RWD_REPLAY_DONE and lets live detection go on. (17
R478, 17 R490, 17 R491, 17 R492, 17 R493, 17 R494, 17 Table 17.6, 17 Table 17.8) -/
def Obligations.RewindReadsWritesAndReplays : Prop :=
  (∀ (c : CmdRef) (m : Cmd) (s : State), runnable c 0x0D00 s.toChip = some m → rd m.params 0 1 ≤ 1 → ZeroBytes m.params 1 3 →
    ∃ res, res.length = 96 ∧ rd res 0 1 % 8 = s.rwd.st % 8 ∧ Field res 4 4 s.rwd.wptr ∧ Field res 8 4 s.rwd.trig ∧
      (∀ k, k < 16 → Field res (16 + 4 * k) 4 (s.rwd.marks.get k)) ∧ (∀ i, i < 4 → Field res (80 + 4 * i) 4 (s.cnt.get (0x100010 + 4 * i))) ∧
      Does (.rwdStatus c) s fun t => Completed c stOk res t ∧ OnlyChanges [.cnt, .ubfen] s.toChip t ∧ (rd m.params 0 1 = 0 → t.cnt = s.cnt) ∧
        (rd m.params 0 1 = 1 → ∀ i, i < 4 → t.cnt.get (0x100010 + 4 * i) = 0)) ∧
  (∀ (c : CmdRef) (m : Cmd) (off n : Nat) (s : State), runnable c 0x0D04 s.toChip = some m → rd m.params 0 4 = off → rd m.params 4 2 = n → 1 ≤ n →
    n ≤ 2046 → off + n ≤ ringWords s.rwd.ringLog2 → ZeroBytes m.params 6 2 → ∃ res, Does (.rwdRead c) s (JustCompletes c stOk res s.toChip) ∧
      res.length = 8 + 4 * n ∧ Field res 4 4 s.rwd.wptr ∧ ∀ i, i < n → Field res (8 + 4 * i) 4 (ringGet s.toChip (off + i)).toNat) ∧
  (∀ (c : CmdRef) (m : Cmd) (off n : Nat) (s : State), DramWf s → runnable c 0x0D05 s.toChip = some m → rd m.params 0 4 = off → rd m.params 4 2 = n →
    n ≤ 2044 → off < ringWords s.rwd.ringLog2 → off + n ≤ ringWords s.rwd.ringLog2 → rd m.params 6 1 ≤ 3 → rd m.params 7 1 ≤ 7 →
    (bitOf (rd m.params 6 1) 0 = true → rd m.params 8 4 < ringWords s.rwd.ringLog2) → ZeroBytes m.params 12 4 →
    (s.rwd.st = 0 ∨ s.rwd.st = 3 → Does (.rwdWrite c) s fun t => Completed c stOk [] t ∧ memWf t.dram = true ∧
      (∀ i, i < n → ringGet t (off + i) = w32 (rd m.params (16 + 4 * i) 4)) ∧
      (∀ a, a < ringAddr s.toChip off ∨ ringAddr s.toChip off + 4 * n ≤ a → memRead t.dram a = memRead s.dram a) ∧
      (bitOf (rd m.params 6 1) 0 = false → t.rwd = s.rwd) ∧
      (bitOf (rd m.params 6 1) 0 = true → t.rwd = { s.rwd with st := 3, loaded := true, wptr := rd m.params 8 4, wrapped := bitOf (rd m.params 6 1) 1, mode := fld (rd m.params 7 1) 0 1, sources := fld (rd m.params 7 1) 1 2 }) ∧ OnlyChanges [.rwd, .dram, .ubfen] s.toChip t) ∧
    (s.rwd.st ≠ 0 → s.rwd.st ≠ 3 → Does (.rwdWrite c) s (JustCompletes c stBusy [] s.toChip))) ∧
  (∀ (c : CmdRef) (m : Cmd) (s : State), runnable c 0x0D08 s.toChip = some m → ZeroBytes m.params 0 4 →
    Does (.rwdSetupRead c) s (JustCompletes c stOk s.rwd.snapshot s.toChip)) ∧
  (∀ (c : CmdRef) (m : Cmd) (a p b : Nat) (s : State), runnable c 0x0D06 s.toChip = some m → rd m.params 0 4 = a → rd m.params 4 4 = p →
    rd m.params 8 1 = b → a % 4096 = 0 → a < ringWords s.rwd.ringLog2 → p * 4096 ≤ ringWords s.rwd.ringLog2 → b ≤ 3 → ZeroBytes m.params 9 3 →
    s.rwd.replay = none → s.rwd.st = 3 → (bitOf b 0 = true → bandRx s.toChip 0 = true) → (bitOf b 1 = true → bandRx s.toChip 1 = true) →
    Does (.rwdReplay c) s fun t =>
      t.rwd = { s.rwd with st := 4, replay := some ⟨b, a, if p = 0 then replaySpan s.toChip a else min (replaySpan s.toChip a) (p * 4096), c, false, 0, 0, [], 0, 0⟩ } ∧
      t.chn = { s.chn with replay := b } ∧ OnlyChanges [.rwd, .chn] s.toChip t) ∧
  (∀ (r : Replay) (m : Cmd) (s : State), s.rwd.replay = some r → r.running = false → findCmd r.cmd s.toChip = some m →
    (bitOf r.bands 0 = true → bandBusy s.toChip 0 = []) → (bitOf r.bands 1 = true → bandBusy s.toChip 1 = []) → Does .rwdReplayBegin s fun t =>
      (∃ r', t.rwd.replay = some r' ∧ r'.running = true ∧ r'.cmd = r.cmd ∧ r'.total = r.total ∧ r'.start = r.start) ∧
      t.chn = { s.chn with replayRun := r.bands } ∧ AcceptedCmd r.cmd t ∧ OnlyChanges [.rwd, .chn, .ubfen] s.toChip t) ∧
  (∀ (r : Replay) (m : Cmd) (s : State), s.rwd.replay = some r → r.running = true → r.feed = [] →
    (s.rwd.mode ≠ 1 → r.begunAt + wideNs s.toChip r ≤ s.now) → findCmd r.cmd s.toChip = some m → Does .rwdReplayEnd s fun t => t.rwd = { s.rwd with st := 3, replay := none } ∧ t.chn = { s.chn with replay := 0, replayRun := 0 } ∧
      Completed r.cmd stOk (wr 4 r.total ++ wr 4 r.descriptors) t ∧ Raised 122 r.total t ∧ OnlyChanges [.rwd, .chn, .ev, .ubfen] s.toChip t)

/-- With one queue that holds frames and Trade running: TRADE_PLAN of a head whose location is gone drops it as STALE,
of one no window will ever hold as GATE_OVERRUN with EV_GATE_OVERRUN, and of one that fits hands its launch to the
queue of launches and marks the frame planned. HEAD_EXPIRE drops a head that has waited MAX_WAIT. SCH_GATE_LIST_SET
keeps its list for the first cycle boundary of the list from PLAN_AHEAD on and answers it; GATE_LIST_SWITCH then
puts it in force and raises EV_GATE_SWITCH. SCH_QUEUE_FLUSH without CANCEL discards exactly the unplanned frames of
its queues, counts and answers them. SCH_STATUS returns its counters, cleared only when asked; SCH_QUEUE_STATUS one
word a queue; SCH_SELECT_SET writes exactly its entries. (11 R312, 11 R313, 11 R314, 11 R319, 11 R321, 11 R322, 11
R333, 11 R337, 11 Table 11.3, 11 Table 11.6) -/
def Obligations.TradeQueuesAndGates : Prop :=
  (∀ (q : Nat) (f : TFrame) (s : State), tradeRuns s.toChip = true → goingDown s.toChip 5 = false → goingDown s.toChip 7 = false →
    (heads s.toChip = [(q, f, .stale)] → Does .tradePlan s fun t => queue t q = (queue s.toChip q).drop 1 ∧ (∀ n, n ≠ q → queue t n = queue s.toChip n) ∧
      t.cnt.get (schCnt 0x14) = satAdd 0xFFFFFFFF (s.cnt.get (schCnt 0x14)) 1 ∧ OnlyChanges [.sch, .cnt] s.toChip t) ∧
    (heads s.toChip = [(q, f, .overrun)] → limFree 85 q nsSec s.toChip = true → Does .tradePlan s fun t => queue t q = (queue s.toChip q).drop 1 ∧
      t.cnt.get (schCnt 0x18) = satAdd 0xFFFFFFFF (s.cnt.get (schCnt 0x18)) 1 ∧ Raised 85 (pack [(0, 4, qGate s.toChip q), (16, 12, q)]) t ∧
      OnlyChanges [.sch, .cnt, .ev] s.toChip t) ∧
    (∀ l e, heads s.toChip = [(q, f, .plan l false)] → tradeLenOk s.toChip l = true → l.fsk = false → l.asap = false → l.held = false → l.phase = 0 →
      l.ended = none → l.clamped = false → Accepts l e s.toChip → drawn s.toChip (qShaped s.toChip q) (qShaper s.toChip q) = false → s.pair.st ≠ 3 →
      Does .tradePlan s fun t => Queued l e s.toChip t ∧
        queue t q = (queue s.toChip q).map (fun g => if g.no = f.no then { g with planned := true } else g) ∧
        (∀ n, n ≠ q → queue t n = queue s.toChip n) ∧ t.sch.count = (s.sch.count + 1) % 2 ^ 30 ∧
        OnlyChanges [.tx, .rf, .sch, .ev, .freeCtr] s.toChip t)) ∧
  (∀ (q : Fin 4096) (f : TFrame) (r : List TFrame) (s : State), queue s.toChip q.val = f :: r → f.planned = false → qMaxWait s.toChip q.val ≠ 0 →
    f.at_ + qMaxWait s.toChip q.val * nsMs ≤ s.now → Does (.headExpire q) s fun t => queue t q.val = r ∧ (∀ n, n ≠ q.val → queue t n = queue s.toChip n) ∧
      t.cnt.get (schCnt 0x10) = satAdd 0xFFFFFFFF (s.cnt.get (schCnt 0x10)) 1 ∧ OnlyChanges [.sch, .cnt] s.toChip t) ∧
  (∀ (c : CmdRef) (m : Cmd) (n k b : Nat) (s : State), runnable c 0x0802 s.toChip = some m → rd m.params 0 1 = n → n ≤ 15 → rd m.params 1 1 ≤ 1 →
    rd m.params 2 2 = k → 1 ≤ k → k ≤ 256 → rd m.params 10 4 < nsSec → ZeroBytes m.params 14 2 → m.startedAt = some b → b = s.now →
    (∀ i, i < k → 256 ≤ rd m.params (16 + 4 * i) 4) →
    let g : GList := ⟨rd m.params 1 1, rd m.params 4 6 * nsSec + rd m.params 10 4, (List.range k).map fun i => rd m.params (16 + 4 * i) 4⟩
    let least := (tdGet s.toChip g.dom).ns + cfgGet s.toChip 0x0B01 1 * nsUs
    ∃ x, least ≤ x ∧ g.base ≤ x ∧ (x - g.base) % g.cycle = 0 ∧ (x = g.base ∨ x < least + g.cycle) ∧ Does (.schGateListSet c) s fun t =>
      (t.sch.gates.get n).next = some (g, x) ∧ (t.sch.gates.get n).cur = (s.sch.gates.get n).cur ∧
      (∀ j, j ≠ n → t.sch.gates.get j = s.sch.gates.get j) ∧
      Completed c stOk (wr 6 (x / nsSec) ++ wr 4 (x % nsSec) ++ zeros 2 ++ wr 4 (g.cycle / nsUs)) t ∧ OnlyChanges [.sch, .ubfen] s.toChip t) ∧
  (∀ (n : Fin 16) (l : GList) (x : Nat) (s : State), (s.sch.gates.get n.val).next = some (l, x) → pdOn s.toChip 7 = true →
    x ≤ (tdGet s.toChip l.dom).ns → Does (.gateListSwitch n) s fun t => t.sch = { s.sch with gates := s.sch.gates.set n.val ⟨some l, none, x⟩ } ∧
      Raised 87 n.val t ∧ OnlyChanges [.sch, .ev] s.toChip t) ∧
  (∀ (c : CmdRef) (m : Cmd) (q : Nat) (s : State), runnable c 0x0805 s.toChip = some m → rd m.params 0 2 = q → (q ≤ 4095 ∨ q = 0xFFFF) →
    rd m.params 2 1 = 0 → ZeroBytes m.params 3 1 → Does (.schQueueFlush c) s fun t =>
      let mine := fun (n : Nat) => decide (q = 0xFFFF) || decide (n = q)
      (∀ n l, lookupIn s.sch.queues.ents n = some l → queue t n = if mine n = true then l.filter (fun f => f.planned) else l) ∧
      (∀ n, lookupIn s.sch.queues.ents n = none → queue t n = queue s.toChip n) ∧ t.tx = s.tx ∧
      t.cnt.get (schCnt 0x1C) = satAdd 0xFFFFFFFF (s.cnt.get (schCnt 0x1C)) (unplanned s.toChip mine) ∧
      Completed c stOk (wr 4 (unplanned s.toChip mine) ++ zeros 4) t ∧ OnlyChanges [.sch, .cnt, .ubfen] s.toChip t) ∧
  (∀ (c : CmdRef) (m : Cmd) (s : State), runnable c 0x0800 s.toChip = some m → rd m.params 0 1 ≤ 1 → ZeroBytes m.params 1 3 →
    ∃ res, res.length = 56 ∧ rd res 0 1 % 64 = ((launches s.toChip).filter fun e => e.2.ofTrade).length % 64 ∧
      (∀ i, i < 13 → Field res (4 + 4 * i) 4 (s.cnt.get (schCnt 0 + 4 * i))) ∧ Does (.schStatus c) s fun t => Completed c stOk res t ∧
        OnlyChanges [.cnt, .ubfen] s.toChip t ∧ (rd m.params 0 1 = 0 → t.cnt = s.cnt) ∧
        (rd m.params 0 1 = 1 → ∀ i, i < 13 → t.cnt.get (schCnt 0 + 4 * i) = 0)) ∧
  (∀ (c : CmdRef) (m : Cmd) (q k : Nat) (s : State), runnable c 0x0806 s.toChip = some m → rd m.params 0 2 = q → rd m.params 2 2 = k → 1 ≤ k → k ≤ 1024 →
    q + k ≤ 4096 → ∃ res, Does (.schQueueStatus c) s (JustCompletes c stOk res s.toChip) ∧ res.length = 4 * k ∧
      ∀ i, i < k → (queue s.toChip (q + i) = [] → Field res (4 * i) 4 0) ∧
        (∀ f r, queue s.toChip (q + i) = f :: r → rd res (4 * i) 2 % 4096 = (r.length + 1) % 4096 ∧
          rd res (4 * i + 2) 2 = min 0xFFFF ((s.now - f.at_) / nsMs))) ∧
  (∀ (c : CmdRef) (m : Cmd) (x e k : Nat) (s : State), runnable c 0x0807 s.toChip = some m → rd m.params 0 1 = x → x ≤ 1 → rd m.params 1 1 = e →
    rd m.params 2 1 = k → 1 ≤ k → k ≤ 128 → e + k ≤ (if x = 0 then 256 else 128) → ZeroBytes m.params 3 1 →
    (∀ i, i < k → if x = 0 then rd m.params (4 + 2 * i) 2 ≤ 4095 else (rd m.params (4 + 2 * i) 2 ≤ 255 ∨ rd m.params (4 + 2 * i) 2 = 0xFFFF)) →
    let sel := fun (u : Chip) (j : Nat) => fld (cfgGet u (0x0B02 + x) (1 + j / 2)) (j % 2 * 16) 16
    Does (.schSelectSet c) s fun t => (∀ i, i < k → sel t (e + i) = rd m.params (4 + 2 * i) 2) ∧ (∀ j, j < e ∨ e + k ≤ j → sel t j = sel s.toChip j) ∧
      Completed c stOk [] t ∧ OnlyChanges [.cfg, .ubfen] s.toChip t)

/-- With every value in its range: SCH_SHAPER_SET stores the mode, rate, burst and overhead of its shaper and, for a
rate shaper, fills or empties its tokens as TOKENS says, answering the tokens before and after; SCH_POLICER_SET
stores the policer and fills or empties both buckets; SCH_QUEUE_SET stores both words of the queue. Each completes
with ST_OK, and no other setting changes. (11 R329, 11 R332, 11 R334, 11 R335, 11 R336, 11 Table 11.1, 11 Table
11.7) -/
def Obligations.SchedulerSettingsTakeEffect : Prop :=
  (∀ (c : CmdRef) (m : Cmd) (n mode rate burst : Nat) (s : State), runnable c 0x0801 s.toChip = some m → rd m.params 0 1 = n → rd m.params 1 1 = mode →
    1 ≤ mode → mode ≤ 3 → rd m.params 2 1 ≤ 1 → ZeroBytes m.params 3 1 → rd m.params 4 4 = rate → (rateRange mode).1 ≤ rate → rate ≤ (rateRange mode).2 →
    rd m.params 8 4 = burst → (burstRange mode).1 ≤ burst → burst ≤ (burstRange mode).2 → -32 ≤ toS 16 (rd m.params 12 2) →
    toS 16 (rd m.params 12 2) ≤ 255 → ZeroBytes m.params 14 2 → Does (.schShaperSet c) s fun t =>
      shp t n 0 = mode ∧ shp t n 1 = rate ∧ shp t n 2 = burst ∧ shp t n 3 = rd m.params 12 2 + 65536 * rd m.params 2 1 ∧
      (∀ k j, k < 256 → j < 4 → k ≠ n → shp t k j = shp s.toChip k j) ∧
      (mode ≤ 2 → t.sch.tokens.get n = (if rd m.params 2 1 = 1 then 0 else ((burst * nsSec : Nat) : Int), s.now)) ∧
      Completed c stOk (wr 4 (shpTok s.toChip n) ++ wr 4 (shpTok t n)) t ∧ OnlyChanges [.cfg, .sch, .ubfen] s.toChip t) ∧
  (∀ (c : CmdRef) (m : Cmd) (n : Nat) (s : State), runnable c 0x0803 s.toChip = some m → rd m.params 0 2 = n → n ≤ 255 → rd m.params 2 1 ≤ 31 →
    ZeroBytes m.params 3 1 → rd m.params 8 4 ≤ 1250000000 → rd m.params 12 4 ≤ 0x7FFFFFFF → rd m.params 16 4 ≤ 1250000000 →
    rd m.params 20 4 ≤ 0x7FFFFFFF → rd m.params 4 2 ≠ n → -32 ≤ toS 16 (rd m.params 6 2) → toS 16 (rd m.params 6 2) ≤ 255 →
    Does (.schPolicerSet c) s fun t => pol t n 0 = rd m.params 8 4 ∧ pol t n 1 = rd m.params 12 4 ∧ pol t n 2 = rd m.params 16 4 ∧
      pol t n 3 = rd m.params 20 4 ∧ pol t n 4 = rd m.params 2 1 + 65536 * rd m.params 4 2 ∧
      t.sch.buckets.get n = (if bitOf (rd m.params 2 1) 3 = true then (0, 0, s.now)
        else (rd m.params 12 4 * nsSec, rd m.params 20 4 * nsSec, s.now)) ∧
      (∀ k, k ≠ n → t.sch.buckets.get k = s.sch.buckets.get k) ∧ Completed c stOk [] t ∧ OnlyChanges [.cfg, .sch, .ubfen] s.toChip t) ∧
  (∀ (c : CmdRef) (m : Cmd) (n a b : Nat) (s : State), runnable c 0x0804 s.toChip = some m → rd m.params 0 2 = n → n ≤ 4095 → ZeroBytes m.params 2 2 →
    rd m.params 4 4 = a → a < 2 ^ 25 → fld a 13 5 ≤ 16 → rd m.params 8 4 = b → 1 ≤ fld b 0 12 → fld b 12 4 = 0 → Does (.schQueueSet c) s fun t =>
      qWord t n 0 = a ∧ qWord t n 1 = b ∧ (∀ k j, k < 4096 → j < 2 → k ≠ n → qWord t k j = qWord s.toChip k j) ∧ Completed c stOk [] t ∧
      OnlyChanges [.cfg, .ubfen] s.toChip t)

/-- NODE_ADD of a node with no entry takes a free way of its bucket for a provisioned entry with the SHORT, CLASS,
SEC_REQ and KEY given and both counters 0, names it in the short map and answers its index; of a node that has an
entry it makes that entry provisioned and keeps its location and RPL data; into a bucket of four provisioned entries
it completes with ST_BUSY. NODE_SET writes exactly its masked fields, makes the entry provisioned, and sets both
counters to 0 with a new KEY word. NODE_DELETE removes the entry and its words of the short map. NODE_FLUSH_PORT
removes the learned entries located on its port and clears LOC_VALID of the provisioned ones. Every other entry
stays as it is. NODE_STATUS returns NODE_STAT and the counters, and clears them only when asked. A missing node
answers ST_NOT_FOUND. (10 R279, 10 R281, 10 R283, 10 R287, 10 R303, 10 R306, 10 R307, 10 R309, 10 Table 10.1, 10
Table 10.10) -/
def Obligations.NodesAreAddedSetAndDeleted : Prop :=
  (∀ (c : CmdRef) (m : Cmd) (s : State), runnable c 0x0604 s.toChip = some m → rd m.params 10 1 ≤ 15 → rd m.params 11 1 ≤ 1 →
    fld (rd m.params 12 4) 18 6 = 0 →
    let e := euiAt m.params 0
    let a := rd m.params 8 2
    let written := fun (n x : NodeEnt) => x = { n with short := a, cls := rd m.params 10 1, prov := true, secReq := bitOf (rd m.params 11 1) 0
                                                       key := rd m.params 12 4, txCtr := 0, rxCtr := 0 }
    (findNode s.toChip e = none → shortTaken s.toChip a none = false → freeWays s.toChip (bucketOf s.toChip e) ≠ [] → Does (.nodeAdd c) s fun t =>
      ∃ i x, nodeAt s.toChip i = none ∧ i / 4 = bucketOf s.toChip e ∧ nodeAt t i = some x ∧ written (NodeEnt.fresh e 0) x ∧
        (∀ j, j ≠ i → nodeAt t j = nodeAt s.toChip j) ∧ (a ≠ 0xFFFF → lookupIn t.fe.shorts a = some i) ∧
        Completed c stOk (wr 4 i ++ zeros 12) t ∧ OnlyChanges [.fe, .freeCtr, .ubfen] s.toChip t) ∧
    (∀ i n, findNode s.toChip e = some (i, n) → shortTaken s.toChip a (some i) = false → Does (.nodeAdd c) s fun t =>
      (∃ x, nodeAt t i = some x ∧ written n x) ∧ (∀ j, j ≠ i → nodeAt t j = nodeAt s.toChip j) ∧ (a ≠ 0xFFFF → lookupIn t.fe.shorts a = some i) ∧
      Completed c stOk (wr 4 i ++ wr 4 1 ++ zeros 8) t ∧ OnlyChanges [.fe, .ubfen] s.toChip t) ∧
    (findNode s.toChip e = none → shortTaken s.toChip a none = false →
      (∀ w, w < 4 → ∃ n, nodeAt s.toChip (4 * bucketOf s.toChip e + w) = some n ∧ n.prov = true) →
      Does (.nodeAdd c) s fun t => Completed c stBusy [] t ∧ (limFree 76 0 nsSec s.toChip = true → Raised 76 e.toNat t) ∧
        OnlyChanges [.ev, .ubfen] s.toChip t)) ∧
  (∀ (c : CmdRef) (m : Cmd) (k i : Nat) (n : NodeEnt) (s : State), runnable c 0x0605 s.toChip = some m → rd m.params 8 2 = k → rd m.params 9 1 ≤ 1 →
    ZeroBytes m.params 10 2 → (bitOf k 1 = true → rd m.params 15 1 ≤ 15) → (bitOf k 3 = true → fld (rd m.params 32 4) 18 6 = 0) →
    (bitOf k 8 = true → rd m.params 58 1 ≤ 1) → findNode s.toChip (euiAt m.params 0) = some (i, n) →
    (bitOf k 0 = true → shortTaken s.toChip (rd m.params 12 2) (some i) = false) → Does (.nodeSet c) s fun t =>
      (∃ x, nodeAt t i = some x ∧ x = { n with
          prov := true, short := (if bitOf k 0 then rd m.params 12 2 else n.short), cls := (if bitOf k 1 then rd m.params 15 1 else n.cls)
          secReq := (if bitOf k 2 then bitOf (rd m.params 14 1) 5 else n.secReq), key := (if bitOf k 3 then rd m.params 32 4 else n.key)
          rxCtr := (if bitOf k 3 then 0 else n.rxCtr), txCtr := (if bitOf k 3 then 0 else n.txCtr)
          parent := (if bitOf k 4 then euiAt m.params 44 else n.parent), pathExp := (if bitOf k 5 then rd m.params 52 4 else n.pathExp)
          pathSeq := (if bitOf k 6 then rd m.params 56 1 else n.pathSeq), depth := (if bitOf k 7 then rd m.params 57 1 else n.depth)
          rplValid := (if bitOf k 8 then bitOf (rd m.params 58 1) 0 else n.rplValid) }) ∧
      (∀ j, j ≠ i → nodeAt t j = nodeAt s.toChip j) ∧ (bitOf k 0 = true → rd m.params 12 2 ≠ 0xFFFF → lookupIn t.fe.shorts (rd m.params 12 2) = some i) ∧
      (bitOf k 0 = false → t.fe.shorts = s.fe.shorts) ∧ Completed c stOk (wr 4 i) t ∧ OnlyChanges [.fe, .ubfen] s.toChip t) ∧
  (∀ (c : CmdRef) (m : Cmd) (s : State), runnable c 0x0606 s.toChip = some m →
    (∀ i n, findNode s.toChip (euiAt m.params 0) = some (i, n) → Does (.nodeDelete c) s fun t => nodeAt t i = none ∧
      (∀ j, j ≠ i → nodeAt t j = nodeAt s.toChip j) ∧ (∀ a, lookupIn t.fe.shorts a ≠ some i) ∧
      (∀ a j, j ≠ i → lookupIn s.fe.shorts a = some j → lookupIn t.fe.shorts a = some j) ∧ Completed c stOk (wr 4 i) t ∧
      OnlyChanges [.fe, .ubfen] s.toChip t) ∧
    (findNode s.toChip (euiAt m.params 0) = none → Does (.nodeDelete c) s (JustCompletes c stNotFound [] s.toChip))) ∧
  (∀ (c : CmdRef) (m : Cmd) (p : Nat) (s : State), runnable c 0x0603 s.toChip = some m → rd m.params 0 1 = p → p ≤ 3 → ZeroBytes m.params 1 3 →
    NodesRising s → Does (.nodeFlushPort c) s fun t =>
      (∀ i n, nodeAt s.toChip i = some n → nodeAt t i =
        if n.locValid = true ∧ n.port = p then (if n.prov then some { n with locValid := false, aged := false } else none) else some n) ∧
      (∀ i, nodeAt s.toChip i = none → nodeAt t i = none) ∧
      Completed c stOk (wr 4 (s.fe.nodes.filter fun e => e.2.locValid && decide (e.2.port = p) && !e.2.prov).length ++
        wr 4 (s.fe.nodes.filter fun e => e.2.locValid && decide (e.2.port = p) && e.2.prov).length) t ∧ OnlyChanges [.fe, .ubfen] s.toChip t) ∧
  (∀ (c : CmdRef) (m : Cmd) (s : State), runnable c 0x0600 s.toChip = some m → rd m.params 0 1 ≤ 1 → ZeroBytes m.params 1 3 →
    ∃ res, res.length = 52 ∧ rd res 0 4 % 2 ^ 18 = s.fe.nodes.length % 2 ^ 18 ∧ (∀ i, i < 12 → Field res (4 + 4 * i) 4 (s.cnt.get (nodeCnt 0 + 4 * i))) ∧
      Does (.nodeStatus c) s fun t => Completed c stOk res t ∧ OnlyChanges [.cnt, .ubfen] s.toChip t ∧ (rd m.params 0 1 = 0 → t.cnt = s.cnt) ∧
        (rd m.params 0 1 = 1 → ∀ i, i < 12 → t.cnt.get (nodeCnt 0 + 4 * i) = 0))

/-- NODE_SEARCH answers the index and the 64 bytes of the entry of a node, or of an index, and ST_NOT_FOUND where there
is none. NODE_NEXT returns the entries from its start index on that pass its filters, in order, at most as many as
asked, and the index of the next one. A group closes at GRP_NS + COINCIDE_WINDOW + COINCIDE_SLACK: MARGIN is PEND's;
a location that differs becomes PEND's, counts in MOVES and raises EV_NODE_MOVE unless MOVE_S lies within the last
10 s. A due visit of the sweep handles each entry of its bucket by the rule of R291: a hit entry loses HIT and
MARKED, an unmarked one is marked, a marked provisioned one loses its location, a marked learned one is removed; the
visit of the last bucket raises EV_AGE_SWEEP with the count. (10 R281, 10 R289, 10 R291, 10 R306, 10 R307, 10 R308,
10 Table 10.1, 10 Table 10.10) -/
def Obligations.NodesAreFoundGroupedAndAged : Prop :=
  (∀ (c : CmdRef) (m : Cmd) (s : State), runnable c 0x0601 s.toChip = some m → ZeroBytes m.params 1 3 →
    (rd m.params 0 1 = 0 → ∀ i n, findNode s.toChip (euiAt m.params 4) = some (i, n) →
      Does (.nodeSearch c) s (JustCompletes c stOk (wr 4 i ++ n.bytes) s.toChip)) ∧
    (rd m.params 0 1 = 0 → findNode s.toChip (euiAt m.params 4) = none → Does (.nodeSearch c) s (JustCompletes c stNotFound [] s.toChip)) ∧
    (rd m.params 0 1 = 1 → rd m.params 4 4 < 131072 → ∀ n, nodeAt s.toChip (rd m.params 4 4) = some n →
      Does (.nodeSearch c) s (JustCompletes c stOk (wr 4 (rd m.params 4 4) ++ n.bytes) s.toChip)) ∧
    (∀ n : NodeEnt, n.bytes.length = 64 ∧ n.bytes.take 8 = euiBytes n.eui ∧ Field n.bytes 8 2 n.short ∧ Field n.bytes 28 4 n.key ∧
      Field n.bytes 32 4 n.rxCtr ∧ Field n.bytes 36 4 n.txCtr ∧ Field n.bytes 53 1 n.depth)) ∧
  (∀ (c : CmdRef) (m : Cmd) (a k f v : Nat) (s : State), runnable c 0x0602 s.toChip = some m → rd m.params 0 4 = a → a < 131072 →
    rd m.params 4 2 = k → 1 ≤ k → k ≤ 120 → rd m.params 6 1 = f → f ≤ 15 → rd m.params 7 1 = v → fld v 2 2 = 0 →
    let takes := fun (n : NodeEnt) => (bitOf f 0 = true → n.locValid = true ∧ n.port = v % 4) ∧ (bitOf f 1 = true → n.prov = true) ∧
      (bitOf f 2 = true → n.prov = false) ∧ (bitOf f 3 = true → n.cls = v / 16)
    ∃ (l : List (Nat × NodeEnt)) (res : Bytes), (∀ e, e ∈ l ↔ e ∈ s.fe.nodes ∧ a ≤ e.1 ∧ takes e.2) ∧ l.Sublist s.fe.nodes ∧ Field res 4 2 (min k l.length) ∧
      (∀ e, l[k]? = some e → Field res 0 4 e.1) ∧ (l.length ≤ k → rd res 0 4 = 0xFFFFFFFF) ∧ res.length = 8 + 68 * min k l.length ∧
      (∀ i e, i < k → l[i]? = some e → (res.drop (8 + 68 * i)).take 68 = wr 4 e.1 ++ e.2.bytes) ∧
      Does (.nodeNext c) s (JustCompletes c stOk res s.toChip)) ∧
  (∀ (i : Fin 131072) (n : NodeEnt) (s : State), nodeAt s.toChip i.val = some n → pdOn s.toChip 7 = true → n.groupOpen = true →
    n.grpAt + nodeCfg s.toChip 4 * nsMs + nodeCfg s.toChip 5 * nsMs ≤ (stampTd s.toChip).ns →
    let same := n.locValid = true ∧ n.locA = n.pend.locA ∧ n.locB = n.pend.locB ∧ n.netid = n.pend.netid
    let now := (stampTd s.toChip).sec % 65536
    let quiet := (now + 65536 - n.moveS) % 65536 < 10
    Does (.groupClose i) s fun t => (∀ j, j ≠ i.val → nodeAt t j = nodeAt s.toChip j) ∧
      (same → nodeAt t i.val = some { n with groupOpen := false, margin := n.pend.margin } ∧ OnlyChanges [.fe] s.toChip t) ∧
      (¬ same → (∃ x, nodeAt t i.val = some x ∧ x = { n with
          groupOpen := false, margin := n.pend.margin, locA := n.pend.locA, locB := n.pend.locB, netid := n.pend.netid
          locNs := n.pend.ns, locValid := true, aged := false, moveS := (if quiet then n.moveS else now) }) ∧
        t.cnt = s.cnt.set (nodeCnt 0x08) (satAdd 0xFFFFFFFF (s.cnt.get (nodeCnt 0x08)) 1) ∧
        (quiet → OnlyChanges [.fe, .cnt] s.toChip t) ∧ (¬ quiet → Raised 73 n.eui.toNat t ∧ OnlyChanges [.fe, .cnt, .ev] s.toChip t))) ∧
  (∀ (b : Nat) (s : State), pdOn s.toChip 7 = true → pdOn s.toChip 8 = true → s.fe.sweepNext = b → b < 32768 →
    s.fe.sweepStart * nsSec + b * nodeCfg s.toChip 3 * nsSec / 32768 ≤ (stampTd s.toChip).ns → Does .ageSweepVisit s fun t =>
      let gone := fun (n : NodeEnt) => !n.hit && n.marked
      let k := sumN ((List.range 4).map fun w => b2n (((nodeAt s.toChip (4 * b + w)).map gone).getD false))
      (∀ j, j / 4 ≠ b → nodeAt t j = nodeAt s.toChip j) ∧
      (∀ w, w < 4 → nodeAt s.toChip (4 * b + w) = none → nodeAt t (4 * b + w) = none) ∧
      (∀ w n, w < 4 → nodeAt s.toChip (4 * b + w) = some n → nodeAt t (4 * b + w) =
        if n.hit then some { n with hit := false, marked := false } else if !n.marked then some { n with marked := true }
        else if n.prov then some { n with locValid := false, aged := n.locValid || n.aged, marked := false } else none) ∧
      t.fe.sweepNext = b + 1 ∧ t.fe.sweepStart = s.fe.sweepStart ∧ t.fe.sweepCount = s.fe.sweepCount + k ∧
      (0 < k → t.cnt.get (nodeCnt 0x14) = satAdd 0xFFFFFFFF (s.cnt.get (nodeCnt 0x14)) k) ∧ (k = 0 → t.cnt = s.cnt) ∧
      (b = 32767 → Raised 75 (t.fe.sweepCount % 2 ^ 64) t) ∧ (b < 32767 → t.ev = s.ev) ∧ OnlyChanges [.fe, .cnt, .ev] s.toChip t)

/-- On a prefix memory with room and for entries that the checks pass, FWD_ROUTE_ADD leaves every entry given (the later
of two of one TABLE, LEN and prefix), every old entry that none of them equals, nothing else, longest first; it
answers their count and raises EV_FWD_UPDATE_DONE with its batch. On a full memory a new entry ends it with ST_BUSY
and EV_FWD_TABLE_FULL, and nothing changes. FWD_ROUTE_DEL removes exactly the entries named and answers how many
there were. FWD_ROUTE_READ returns the entries from a position on. FWD_LOOKUP answers the first entry of its table
whose prefix the address has, with its position, which is a longest one, and 0xFFFF where there is none. FWD_STATUS
returns FWD_STAT and the counters, cleared only when asked. FWD_NH_SET writes exactly its next hop. (10 R298, 10
R299, 10 R301, 10 R303, 10 R305, 10 R306, 10 R307, 10 Table 10.8, 10 Table 10.10) -/
def Obligations.RoutesAreAddedDeletedReadAndFound : Prop :=
  (∀ (c : CmdRef) (m : Cmd) (k : Nat) (s : State), runnable c 0x0701 s.toChip = some m → rd m.params 2 1 = k → 1 ≤ k → k ≤ 128 →
    ZeroBytes m.params 3 1 →
    let e := fun (i : Nat) => routeAt m.params (4 + 24 * i)
    (∀ i, i < k → (e i).table ≤ 3 ∧ (e i).len ≤ 128 ∧ (e i).action ≤ 4 ∧ ((e i).action = 4 → (e i).nh ∈ [1, 2] ∨ 5 ≤ (e i).nh ∧ (e i).nh ≤ 23) ∧
      ZeroBytes m.params (4 + 24 * i + 4) 4) →
    (FeWf s → s.fe.routes.length + k ≤ 16384 → Does (.fwdRouteAdd c) s fun t =>
      (∀ i, i < k → (∀ j, i < j → j < k → (e j).same (e i) = false) → e i ∈ t.fe.routes) ∧
      (∀ x ∈ s.fe.routes, (∀ i, i < k → x.same (e i) = false) → x ∈ t.fe.routes) ∧
      (∀ x ∈ t.fe.routes, x ∈ s.fe.routes ∨ ∃ i, i < k ∧ x = e i) ∧ t.fe.routes.Pairwise (fun a b => b.len ≤ a.len ∧ a.same b = false) ∧
      t.fe.nodes = s.fe.nodes ∧ Raised 80 (rd m.params 0 2) t ∧ Completed c stOk (wr 2 k ++ zeros 2) t ∧ OnlyChanges [.fe, .ev, .ubfen] s.toChip t) ∧
    (s.fe.routes.length = 16384 → (∀ x ∈ s.fe.routes, x.same (e 0) = false) → Does (.fwdRouteAdd c) s fun t =>
      Raised 79 0 t ∧ Completed c stBusy (zeros 4) t ∧ OnlyChanges [.ev, .ubfen] s.toChip t)) ∧
  (∀ (c : CmdRef) (m : Cmd) (k : Nat) (s : State), runnable c 0x0702 s.toChip = some m → rd m.params 2 1 = k → 1 ≤ k → k ≤ 128 →
    ZeroBytes m.params 3 1 →
    let e := fun (i : Nat) => routeAt m.params (4 + 24 * i)
    (∀ i, i < k → (e i).table ≤ 3 ∧ (e i).len ≤ 128 ∧ ZeroBytes m.params (4 + 24 * i + 4) 4) → FeWf s → Does (.fwdRouteDel c) s fun t =>
      (∀ x, x ∈ t.fe.routes ↔ x ∈ s.fe.routes ∧ ∀ i, i < k → x.same (e i) = false) ∧
      t.fe.routes.Pairwise (fun a b => b.len ≤ a.len ∧ a.same b = false) ∧ t.fe.nodes = s.fe.nodes ∧ Raised 80 (rd m.params 0 2) t ∧
      Completed c stOk (wr 2 (s.fe.routes.length - t.fe.routes.length) ++ zeros 2) t ∧ OnlyChanges [.fe, .ev, .ubfen] s.toChip t) ∧
  (∀ (c : CmdRef) (m : Cmd) (a k : Nat) (s : State), runnable c 0x0703 s.toChip = some m → rd m.params 0 2 = a → a < 16384 → rd m.params 2 2 = k →
    1 ≤ k → k ≤ 300 → ∃ res, Field res 0 2 (min k (s.fe.routes.length - a)) ∧ rd res 2 2 = 0 ∧ res.length = 4 + 24 * min k (s.fe.routes.length - a) ∧
      (∀ i r, i < k → s.fe.routes[a + i]? = some r → (res.drop (4 + 24 * i)).take 24 = r.bytes) ∧
      Does (.fwdRouteRead c) s (JustCompletes c stOk res s.toChip)) ∧
  (∀ (c : CmdRef) (m : Cmd) (s : State), runnable c 0x0705 s.toChip = some m → rd m.params 0 1 ≤ 3 → ZeroBytes m.params 1 3 →
    let hit := fun (r : Route) => r.table = rd m.params 0 1 ∧ r.pfx.toNat = netRd m.params 4 16 / 2 ^ (128 - r.len) * 2 ^ (128 - r.len)
    ((∀ r ∈ s.fe.routes, ¬ hit r) → Does (.fwdLookup c) s (JustCompletes c stOk (wr 2 0xFFFF ++ zeros 2) s.toChip)) ∧
    (∀ i r, s.fe.routes[i]? = some r → hit r → (∀ j x, j < i → s.fe.routes[j]? = some x → ¬ hit x) →
      Does (.fwdLookup c) s (JustCompletes c stOk (wr 2 i ++ zeros 2 ++ r.bytes) s.toChip) ∧
      (FeWf s → ∀ x ∈ s.fe.routes, hit x → x.len ≤ r.len))) ∧
  (∀ (c : CmdRef) (m : Cmd) (s : State), runnable c 0x0700 s.toChip = some m → rd m.params 0 1 ≤ 1 → ZeroBytes m.params 1 3 →
    ∃ res, res.length = 28 ∧ rd res 0 4 % 2 ^ 15 = s.fe.routes.length % 2 ^ 15 ∧ (∀ i, i < 6 → Field res (4 + 4 * i) 4 (s.cnt.get (fwdCnt 0 + 4 * i))) ∧
      Does (.fwdStatus c) s fun t => Completed c stOk res t ∧ OnlyChanges [.cnt, .ubfen] s.toChip t ∧ (rd m.params 0 1 = 0 → t.cnt = s.cnt) ∧
        (rd m.params 0 1 = 1 → ∀ i, i < 6 → t.cnt.get (fwdCnt 0 + 4 * i) = 0)) ∧
  (∀ (c : CmdRef) (m : Cmd) (n : Nat) (s : State), runnable c 0x0704 s.toChip = some m → rd m.params 0 1 = n → rd m.params 1 1 ≤ 3 →
    rd m.params 3 1 ≤ 31 → ZeroBytes m.params 10 2 → Does (.fwdNhSet c) s fun t => t.sys = { s.sys with
        nhPorts := s.sys.nhPorts.set n (rd m.params 1 1), nhVid := s.sys.nhVid.set n (rd m.params 2 2 % 4096)
        nhTagged := s.sys.nhTagged.set n (decide (rd m.params 2 2 / 4096 = 1)), nhMac := s.sys.nhMac.set n ((m.params.drop 4).take 6) } ∧
      Completed c stOk [] t ∧ OnlyChanges [.sys, .ubfen] s.toChip t)

/-- Link up sets LINK, the speed code (the forced one where SPEED is set) and RX_INV, and raises EV_ETH_LINK, and
EV_ETH_POLARITY for an inverted lane. Link down clears it, counts in DOWNS and LINK_ABORT, empties the egress
queues, completes each software frame of them with ST_ABORTED_DISABLED, and raises EV_ETH_LINK. A PAUSE that has run
out holds the port no longer. RESET_MS without an accepted frame resets the recovery of a stream. ETH_STATUS answers
ETH_PORT_STAT and the ten counters of its port, cleared only when asked. ETH_PORT_SET writes the six settings of its
port and takes the link down exactly when ADMIN is 0 or SPEED changes; ETH_HOST_SET writes one host address;
ETH_RTAG_STATUS answers the three numbers of its stream. Nothing else changes. (12 R339, 12 R340, 12 R343, 12 R345,
12 R363, 12 R364, 12 R365, 12 Table 12.1, 12 Table 12.6, 12 Table 12.8, 12 Table 12.9) -/
def Obligations.EthernetLinksAndSettings : Prop :=
  (∀ (p : Fin 2) (v : Fin 6) (inv : Bool) (s : State), pdOn s.toChip 9 = true → ethCfg s.toChip p.val 2 ≠ 0 → (s.eth.get p.val).link = false →
    portHeld s.toChip p.val = false →
    let code := if ethCfg s.toChip p.val 3 = 0 then v.val else ethCfg s.toChip p.val 3 - 1
    Does (.ethLinkUp p v inv) s fun t => t.eth.get p.val = { s.eth.get p.val with link := true, upAt := s.now, speed := code, rxInv := inv } ∧
      (∀ j, j ≠ p.val → t.eth.get j = s.eth.get j) ∧ Raised 88 (pack [(0, 1, p.val), (1, 1, 1), (4, 4, code)]) t ∧
      (inv = true → Raised 89 (pack [(0, 1, p.val), (1, 1, 1)]) t) ∧ OnlyChanges [.eth, .ev] s.toChip t) ∧
  (∀ (p : Fin 2) (e : EthPort) (s : State), s.eth.get p.val = e → e.link = true →
    let l := (List.range 8).flatMap fun i => e.egress.get (7 - i)
    Does (.ethLinkDown p) s fun t => t.eth.get p.val = { e with
        link := false, egress := Tab.const [], pauseEnd := none, downs := min 0xFFFF (e.downs + 1) } ∧
      (∀ j, j ≠ p.val → t.eth.get j = s.eth.get j) ∧ Raised 88 (pack [(0, 1, p.val), (1, 1, 0), (4, 4, e.speed)]) t ∧
      (l ≠ [] → t.cnt.get (ethCnt p.val 0x18) = min 0xFFFFFFFF (s.cnt.get (ethCnt p.val 0x18) + l.length)) ∧
      (∀ a, a ≠ ethCnt p.val 0x18 → t.cnt.get a = s.cnt.get a) ∧ ((∀ f ∈ l, ∀ q w, f.2 ≠ some (.item q w)) → t.dq = s.dq) ∧
      t.dq = (forEach l (fun f u => match f.2 with
        | some (.item q w) => dqPutPacket q 0 0 [w, w32 0x0030] u
        | _ => u) s.toChip).dq ∧ OnlyChanges [.eth, .cnt, .dq, .ev] s.toChip t) ∧
  (∀ (p : Fin 2) (x : Nat) (s : State), (s.eth.get p.val).pauseEnd = some x → x ≤ s.now → Does (.pauseTimeExpiry p) s fun t =>
    t.eth.get p.val = { s.eth.get p.val with pauseEnd := none } ∧ (∀ j, j ≠ p.val → t.eth.get j = s.eth.get j) ∧ OnlyChanges [.eth] s.toChip t) ∧
  (∀ (n : Fin 16) (s : State), (s.pair.rcvy.get n.val).any = false →
    (s.pair.rcvy.get n.val).at_ + cfgGet s.toChip 0x0C01 2 * nsMs ≤ s.now → Does (.rtagRecoveryReset n) s fun t =>
      t.pair = { s.pair with rcvy := s.pair.rcvy.set n.val { s.pair.rcvy.get n.val with any := true } } ∧ OnlyChanges [.pair] s.toChip t) ∧
  (∀ (c : CmdRef) (m : Cmd) (p : Nat) (s : State), runnable c 0x0900 s.toChip = some m → rd m.params 0 1 = p → p ≤ 1 → rd m.params 1 1 ≤ 1 →
    ZeroBytes m.params 2 2 → ∃ res, res.length = 44 ∧ rd res 0 1 % 2 = b2n (s.eth.get p).link ∧ rd res 0 1 / 2 % 8 = (s.eth.get p).speed % 8 ∧
      rd res 0 1 / 16 % 2 = b2n (s.eth.get p).rxInv ∧ rd res 0 1 / 32 % 2 = b2n (s.eth.get p).pauseEnd.isSome ∧
      rd res 0 1 / 64 % 2 = ethCfg s.toChip p 2 % 2 ∧ rd res 2 2 = (s.eth.get p).downs % 65536 ∧
      (∀ i, i < 10 → Field res (4 + 4 * i) 4 (s.cnt.get (ethCnt p 0 + 4 * i))) ∧ Does (.ethStatus c) s fun t => Completed c stOk res t ∧
        OnlyChanges [.cnt, .ubfen] s.toChip t ∧ (rd m.params 1 1 = 0 → t.cnt = s.cnt) ∧
        (rd m.params 1 1 = 1 → ∀ i, i < 10 → t.cnt.get (ethCnt p 0 + 4 * i) = 0)) ∧
  (∀ (c : CmdRef) (m : Cmd) (p : Nat) (s : State), runnable c 0x0901 s.toChip = some m → rd m.params 0 1 = p → p ≤ 1 → rd m.params 1 1 ≤ 1 →
    rd m.params 2 1 ≤ 6 → rd m.params 3 1 ≤ 1 → 1518 ≤ rd m.params 4 2 → rd m.params 4 2 ≤ 9216 → rd m.params 6 2 < 2 ^ 13 → rd m.params 8 1 ≤ 7 →
    ZeroBytes m.params 9 3 → Does (.ethPortSet c) s fun t =>
      ethCfg t p 2 = rd m.params 1 1 ∧ ethCfg t p 3 = rd m.params 2 1 ∧ ethCfg t p 5 = rd m.params 3 1 ∧ ethCfg t p 4 = rd m.params 4 2 ∧
      ethCfg t p 6 = rd m.params 6 2 ∧ ethCfg t p 7 = rd m.params 8 1 ∧
      (∀ ty id, (∀ k, 2 ≤ k → k ≤ 7 → fkey ty id ≠ fkey 0x0C01 (ethId p k)) → cfgGet t ty id = cfgGet s.toChip ty id) ∧ Completed c stOk [] t ∧
      (rd m.params 1 1 = 1 → rd m.params 2 1 = ethCfg s.toChip p 3 → OnlyChanges [.cfg, .ubfen] s.toChip t) ∧
      ((rd m.params 1 1 = 0 ∨ rd m.params 2 1 ≠ ethCfg s.toChip p 3) → (t.eth.get p).link = false ∧ (∀ j, j ≠ p → t.eth.get j = s.eth.get j) ∧
        OnlyChanges [.cfg, .eth, .cnt, .dq, .ev, .ubfen] s.toChip t)) ∧
  (∀ (c : CmdRef) (m : Cmd) (p n : Nat) (s : State), runnable c 0x0902 s.toChip = some m → rd m.params 0 1 = p → p ≤ 1 → rd m.params 1 1 = n → n ≤ 3 →
    rd m.params 2 1 ≤ 1 → ZeroBytes m.params 3 1 → ZeroBytes m.params 10 2 → Does (.ethHostSet c) s fun t =>
      ethCfg t p (12 + 2 * n) = netRd m.params 4 2 + rd m.params 2 1 * 65536 ∧ ethCfg t p (13 + 2 * n) = netRd m.params 6 4 ∧
      (∀ ty id, fkey ty id ≠ fkey 0x0C01 (ethId p (12 + 2 * n)) → fkey ty id ≠ fkey 0x0C01 (ethId p (13 + 2 * n)) →
        cfgGet t ty id = cfgGet s.toChip ty id) ∧ Completed c stOk [] t ∧ OnlyChanges [.cfg, .ubfen] s.toChip t) ∧
  (∀ (c : CmdRef) (m : Cmd) (n : Nat) (s : State), runnable c 0x0903 s.toChip = some m → rd m.params 0 1 = n → n ≤ 15 → ZeroBytes m.params 1 3 →
    Does (.ethRtagStatus c) s (JustCompletes c stOk
      (wr 2 (s.pair.next.get n) ++ wr 2 (s.pair.solo.get n) ++ wr 2 (s.pair.rcvy.get n).accepted ++ zeros 2) s.toChip))

/-- On a port whose link is up: a frame with a false FCS counts in FCS_ERR and RX_DISCARD, one of a bad length or bad
tags in RX_DISCARD; every other counts in RX_FRAMES. A PAUSE frame with PAUSE in force holds the port for its
quanta. A frame not addressed to the port changes nothing more; ARP and IPv4 that is not PTP goes to ETH_SWQ as
received; an unknown EtherType is discarded; a duplicate R-TAG number of a stream with ELIM = 1 counts in
ELIMINATED. A frame of queue 33 or 34 enters the egress queue of its PCP, padded; one longer than MAX_FRAME
completes with ST_BAD_PARAM, one for a port that is down with ST_ABORTED_DISABLED. The frame that leaves is the
first of the highest PCP that holds one; it counts in TX_FRAMES and completes with ST_OK. A PTP message that leaves
takes its stamp as R268 says, and a frame that is none leaves as it is. (09 R268, 12 R341, 12 R342, 12 R343, 12
R345, 12 Table 12.1, 12 Table 12.2) -/
def Obligations.EthernetFramesAreReceivedAndSent : Prop :=
  (∀ (p : Fin 2) (f : Bytes) (s : State), pdOn s.toChip 9 = true → (s.eth.get p.val).link = true →
    let a := fun (o : Nat) => ethCnt p.val o
    let plus := fun (o : Nat) => satAdd 0xFFFFFFFF (s.cnt.get (a o)) 1
    let sized := 60 ≤ f.length ∧ f.length + 4 ≤ ethCfg s.toChip p.val 4 ∧ badTags f = false
    let stays := be16 f 12 ≠ 0x8808 ∧ forPort s.toChip p.val f = true
    let plain := sized ∧ stays ∧ elimStream s.toChip p.val f = none
    Does (.ethFrameReceive p f false) s (fun t => t.cnt = (s.cnt.set (a 8) (plus 8)).set (a 12) (plus 12) ∧
      (limFree 90 p.val nsSec s.toChip = true → Raised 90 (pack [(0, 1, p.val), (32, 32, (s.eth.get p.val).fcsNew + 1)]) t) ∧
      OnlyChanges [.cnt, .eth, .ev] s.toChip t) ∧
    (¬ sized → Does (.ethFrameReceive p f true) s fun t => t.cnt = s.cnt.set (a 12) (plus 12) ∧ OnlyChanges [.cnt] s.toChip t) ∧
    (sized → be16 f 12 = 0x8808 → be16 f 14 = 1 → (f.take 6 = [0x01, 0x80, 0xC2, 0, 0, 1] ∨ f.take 6 = portMac p.val s.toChip) → ethCfg s.toChip p.val 5 = 1 → Does (.ethFrameReceive p f true) s fun t =>
      let n := be16 f 16 * quantum (s.eth.get p.val).speed / 10
      t.eth.get p.val = { s.eth.get p.val with pauseEnd := if n = 0 then none else some (s.now + n) } ∧
      (∀ j, j ≠ p.val → t.eth.get j = s.eth.get j) ∧ t.cnt = s.cnt.set (a 0) (plus 0) ∧ OnlyChanges [.cnt, .eth] s.toChip t) ∧
    (sized → be16 f 12 ≠ 0x8808 → forPort s.toChip p.val f = false → Does (.ethFrameReceive p f true) s fun t =>
      t.cnt = s.cnt.set (a 0) (plus 0) ∧ OnlyChanges [.cnt] s.toChip t) ∧
    (plain → (etherType f = 0x0806 ∨ etherType f = 0x0800) → ptpTakes s.toChip p.val f = false → Does (.ethFrameReceive p f true) s fun t =>
      t.dq = (dqPutPacket (cfgGet s.toChip 0x0C01 4) 0 3 (wordsOf f) s.toChip).dq ∧ t.cnt = s.cnt.set (a 0) (plus 0) ∧
      OnlyChanges [.cnt, .dq] s.toChip t) ∧
    (plain → etherType f ∉ [0x88B5, 0x88F7, 0x86DD, 0x0806, 0x0800] → Does (.ethFrameReceive p f true) s fun t =>
      t.cnt = (s.cnt.set (a 0) (plus 0)).set (a 12) (plus 12) ∧ OnlyChanges [.cnt] s.toChip t) ∧
    (∀ n, sized → stays → elimStream s.toChip p.val f = some n → etherType f = 0xF1C1 →
      let r := s.pair.rcvy.get n
      let q := be16 f (typeOff f + 4)
      r.any = false → r.last < 65536 → q ≤ r.last → r.last - q < cfgGet s.toChip 0x0C01 1 → cfgGet s.toChip 0x0C01 1 ≤ 32 → q ∈ r.hist →
      Does (.ethFrameReceive p f true) s fun t => t.cnt = (s.cnt.set (a 0) (plus 0)).set (a 0x1C) (plus 0x1C) ∧ OnlyChanges [.cnt] s.toChip t)) ∧
  (∀ (p : Fin 2) (k : Pkt) (u : Chip) (s : State), nextItem (33 + p.val) s.toChip = some (k, u) → k.kind = .data →
    let f := bytesOf k.words
    let pri := if (vlanTag f).isEmpty then 0 else be16 f 14 / 2 ^ 13
    let e := s.eth.get p.val
    (f.length + 4 ≤ ethCfg s.toChip p.val 4 → pdOn s.toChip 9 = true → e.link = true → Does (.ethTxSubmit p) s fun t =>
      t.eth.get p.val = { e with egress := e.egress.set pri (e.egress.get pri ++ [(f ++ zeros (60 - f.length), some (.item 4 (firstWord k.words)))]) } ∧
      (∀ j, j ≠ p.val → t.eth.get j = s.eth.get j) ∧ t.dq = u.dq ∧ OnlyChanges [.eth, .dq] s.toChip t) ∧
    (ethCfg s.toChip p.val 4 < f.length + 4 → Does (.ethTxSubmit p) s fun t =>
      t.dq = (dqPutPacket 4 0 0 [firstWord k.words, w32 0x0021] u).dq ∧ OnlyChanges [.dq] s.toChip t) ∧
    (f.length + 4 ≤ ethCfg s.toChip p.val 4 → (pdOn s.toChip 9 = false ∨ e.link = false) → Does (.ethTxSubmit p) s fun t =>
      t.dq = (dqPutPacket 4 0 0 [firstWord k.words, w32 0x0030] u).dq ∧ OnlyChanges [.dq, .cnt] s.toChip t)) ∧
  (∀ (p : Fin 2) (i : Nat) (x : Bytes × Option FrameEnd) (l : List (Bytes × Option FrameEnd)) (s : State), pdOn s.toChip 9 = true →
    let e := s.eth.get p.val
    e.link = true → e.pauseEnd = none → i < 8 → e.egress.get i = x :: l → (∀ j, i < j → j < 8 → e.egress.get j = []) →
    let one := satAdd 0xFFFFFFFF (s.cnt.get (ethCnt p.val 4)) 1
    let d := ptpDepart p.val x.1 (ethUpd p.val (fun _ => { e with egress := e.egress.set i l }) s.toChip)
    (ptpTransport x.1 = none → Does (.ethTxComplete p) s fun t => t.eth.get p.val = { e with egress := e.egress.set i l, sent := e.sent ++ [x.1] } ∧
      (∀ j, j ≠ p.val → t.eth.get j = s.eth.get j) ∧ t.cnt = s.cnt.set (ethCnt p.val 4) one ∧ ((∀ q w, x.2 ≠ some (.item q w)) → t.dq = s.dq) ∧
      (∀ q w, x.2 = some (.item q w) → t.dq = (dqPutPacket q 0 0 [w, w32 0x0000] s.toChip).dq) ∧ OnlyChanges [.eth, .cnt, .dq] s.toChip t) ∧
    (Does (.ethTxComplete p) s fun t => t.eth.get p.val = { d.2.eth.get p.val with sent := (d.2.eth.get p.val).sent ++ [d.1] } ∧
        (∀ j, j ≠ p.val → t.eth.get j = s.eth.get j) ∧ t.cnt.get (ethCnt p.val 4) = one ∧ t.time = d.2.time ∧ ((∀ q w, x.2 ≠ some (.item q w)) → t.dq = s.dq) ∧
        OnlyChanges [.eth, .cnt, .dq, .time] s.toChip t))

/-- Link up takes over what training found, enters CLAIMING, or INCOMPATIBLE where R360 fails, and raises its events;
link down counts, empties the merge, and leads to the state of Table 12.5. A lane change sets its LANES bit. A
heartbeat sent carries the claim, the owner named, the yield, the lease request and the grant due. One received: a
later peer claim ends ownership, with its events and the completion of PAIR_YIELD, or, yielding, hands it over under
that claim plus 1; an earlier one makes this unit owner; equal claims go to the greater serial. It grants, asks for
and settles as R349 and R350 say. PEER_DEAD of silence hands ownership of the peer over unless a lease guard holds,
and PAIRED becomes SOLO; the guard's end hands it over later; a lease that runs out ends ownership. (12 R347, 12
R348, 12 R349, 12 R350, 12 R352, 12 R357, 12 R360, 12 R361, 12 R365, 12 Table 12.5) -/
def Obligations.PairLinkClaimsAndLeases : Prop :=
  (∀ (x : PairTraining) (s : State), pairRuns s.toChip = true → s.pair.linkUp = false → portHeld s.toChip 2 = false → Does (.pairLinkUp x) s fun t =>
    let ok := compatible s.toChip x.peerVersion x.peerDigest
    t.pair = { s.pair with
      linkUp := true, lanes := x.lanes.toNat, swapped := x.swapped, inv := x.inv.toNat, peerSerial := x.peerSerial
      peerVersion := x.peerVersion.toNat, peerDigest := x.peerDigest.toNat, settled := false, st := if ok then 2 else 5 } ∧
    Raised 92 1 t ∧ (x.inv ≠ 0 → Raised 94 x.inv.toNat t) ∧ (x.swapped = true → Raised 93 1 t) ∧
    (ok = false → Raised 98 (x.peerVersion.toNat / 65536) t) ∧ OnlyChanges [.pair, .ev] s.toChip t) ∧
  (∀ (s : State), s.pair.linkUp = true → Does .pairLinkDown s fun t => t.pair.linkUp = false ∧ t.pair.lanes = 0 ∧ t.pair.owner = s.pair.owner ∧
    t.pair.claim = s.pair.claim ∧ t.pair.settled = false ∧ t.pair.yielding = false ∧ t.pair.yieldCmd = none ∧ (∀ n, n < 16 → t.pair.merge.get n = []) ∧
    t.pair.st = (if s.pair.st = 5 then 5 else if s.pair.st = 3 ∨ s.pair.st = 4 ∨ s.pair.paired = true ∨ s.boot.solo = true then 4 else 1) ∧
    t.cnt.get (pairCnt 0x18) = satAdd 0xFFFFFFFF (s.cnt.get (pairCnt 0x18)) 1 ∧ Raised 92 0 t ∧ (s.pair.st = 3 → Raised 97 0 t) ∧
    OnlyChanges [.pair, .cnt, .ev, .sch, .eth, .dq, .ubfen] s.toChip t) ∧
  (∀ (n : Fin 2) (b : Bool) (s : State), s.pair.linkUp = true → bitOf s.pair.lanes (1 - n.val) = true → Does (.pairLaneLockChange n b) s fun t =>
    bitOf t.pair.lanes n.val = b ∧ bitOf t.pair.lanes (1 - n.val) = true ∧ t.pair = { s.pair with lanes := t.pair.lanes } ∧ OnlyChanges [.pair] s.toChip t) ∧
  (∀ (onLink : Bool) (s : State), pairRuns s.toChip = true → s.pair.silent = false → (if onLink then s.pair.linkUp else hbPort s.toChip) = true →
    let grant := leaseMode s.toChip && s.pair.grantDue && !s.pair.owner
    let names := s.pair.peerKnown && later 32 s.pair.peerClaim s.pair.claim
    Does (.heartbeatSend onLink) s fun t => t.pair = { s.pair with
        out := s.pair.out ++ [.heartbeat onLink s.pair.st s.sys.serial (w32 s.pair.claim) names s.pair.yielding (leaseMode s.toChip && s.pair.owner) grant]
        granted := if grant then some s.now else s.pair.granted, grantDue := s.pair.grantDue && !grant } ∧ OnlyChanges [.pair] s.toChip t) ∧
  (∀ (h : Heartbeat) (s : State), pairRuns s.toChip = true → (h.onLink = true → s.pair.linkUp = true) →
    let p := h.claim.toNat
    let c := s.pair.claim
    let loses := later 32 p c && s.pair.owner
    let gets := later 32 p c && !s.pair.owner && h.yields
    let wins := !later 32 p c && !later 32 c p && decide (h.serial.toNat < s.sys.serial.toNat)
    Does (.heartbeatReceive h) s fun t => t.pair.heard = some s.now ∧ t.pair.peerClaim = p ∧ t.pair.peerKnown = true ∧ t.pair.peerSerial = h.serial ∧
      t.pair.owner = (if loses then false else if gets || wins || (!later 32 p c && later 32 c p) then true else s.pair.owner) ∧
      t.pair.claim = (if gets || wins then (p + 1) % 2 ^ 32 else c) ∧
      (t.pair.owner ≠ s.pair.owner → Raised 95 (pack [(0, 1, b2n t.pair.owner), (32, 32, if t.pair.owner then t.pair.claim else p)]) t) ∧
      t.pair.leaseEnd = (match h.leaseGrant with
        | some x => if leaseMode s.toChip then some (x + leaseNs s.toChip) else if loses then none else s.pair.leaseEnd
        | none => if loses then none else s.pair.leaseEnd) ∧
      (loses = true → leaseMode s.toChip = true → (∃ x, s.pair.leaseEnd = some x ∧ s.now < x) → Raised 96 1 t) ∧
      t.pair.grantDue = (s.pair.grantDue || (h.leaseRequest && leaseMode s.toChip && !t.pair.owner)) ∧
      t.pair.settled = (s.pair.settled || decide (t.pair.owner = h.namesThisOwner ∧ t.pair.claim ≠ p)) ∧
      (∀ k m, loses = true → s.pair.yieldCmd = some k → findCmd k s.toChip = some m → cfgGet s.toChip 0x0D01 1 = 0 → Completed k stOk (wr 4 p) t) ∧
      (loses = false ∨ cfgGet s.toChip 0x0D01 1 = 0 → OnlyChanges [.pair, .cnt, .ev, .ubfen] s.toChip t) ∧
      OnlyChanges [.pair, .cnt, .ev, .ubfen, .tx, .rf, .sch, .time, .freeCtr, .scs, .cal] s.toChip t) ∧
  (∀ (x : Nat) (s : State), s.pair.heard = some x → pairRuns s.toChip = true → x + pairCfg s.toChip 0xA * nsMs ≤ s.now →
    let took := peerOwns s.toChip && (!leaseMode s.toChip || guardPassed s.toChip) && !s.pair.owner
    Does .peerSilent s fun t => t.pair.heard = none ∧ t.pair.settled = false ∧ t.pair.yieldCmd = none ∧ t.pair.yielding = false ∧
      t.pair.owner = (s.pair.owner || took) ∧ t.pair.claim = (if took then (s.pair.peerClaim + 1) % 2 ^ 32 else s.pair.claim) ∧
      t.pair.st = (if s.pair.st = 3 then 4 else s.pair.st) ∧ (took = true → Raised 95 (pack [(0, 1, 1), (32, 32, t.pair.claim)]) t ∧ t.pair.visiting = true) ∧
      OnlyChanges [.pair, .cnt, .ev, .sch, .eth, .dq, .ubfen] s.toChip t) ∧
  (∀ (s : State), pairRuns s.toChip = true → leaseMode s.toChip = true → s.pair.heard = none → s.pair.peerKnown = true →
    later 32 s.pair.claim s.pair.peerClaim = false → s.pair.owner = false →
    (∀ x, s.pair.granted = some x → x + leaseGuard s.toChip ≤ s.now) → Does .leaseGuardTakeover s fun t => t.pair.owner = true ∧
      t.pair.claim = (s.pair.peerClaim + 1) % 2 ^ 32 ∧ t.pair.visiting = true ∧ Raised 95 (pack [(0, 1, 1), (32, 32, t.pair.claim)]) t ∧
      t.cnt.get (pairCnt 0x14) = satAdd 0xFFFFFFFF (s.cnt.get (pairCnt 0x14)) 1 ∧ OnlyChanges [.pair, .cnt, .ev] s.toChip t) ∧
  (∀ (x : Nat) (s : State), leaseMode s.toChip = true → s.pair.leaseEnd = some x → x ≤ s.now → Does .leaseExpiry s fun t => t.pair.leaseEnd = none ∧
    t.pair.owner = false ∧ t.pair.claim = s.pair.claim ∧ (s.pair.owner = true → Raised 96 2 t) ∧
    (s.pair.owner = false ∨ cfgGet s.toChip 0x0D01 1 = 0 → OnlyChanges [.pair, .ev] s.toChip t) ∧
    OnlyChanges [.pair, .cnt, .ev, .ubfen, .tx, .rf, .sch, .time, .freeCtr, .scs, .cal] s.toChip t)

/-- In PAIRED with a merge under way: a peer digest that matches no local frame is held as an entry; one that equals a
local frame's and lies within 2 µs of it joins that entry under the lower key; one that both watermarks have already
passed uses a number of its stream and counts in PEER_ONLY. WATERMARK_SEND sends a watermark 250 µs back or the
least open key; WATERMARK_RECEIVE keeps the peer's highest and releases and numbers the entries below both. After
SEQ_WAIT without an advance SEQ_SOLO turns the uplink solo: every held local frame takes a solo number. A resume
message restarts the merge empty at the higher watermark, makes each counter the later of the two plus 1, and enters
PAIRED. Each trim exchange is kept, 64 of them make TRIM_VALID, and 100 ms without one clears it. (12 R353, 12 R355,
12 R358, 12 R361) -/
def Obligations.PairUplinkIsSequencedAndTrimmed : Prop :=
  (∀ (n : Fin 16) (key : Nat) (d : Word) (s : State), s.pair.st = 3 → s.pair.seqSolo = false → s.pair.restart ≤ key → s.pair.ready = [] →
    (∀ k, k < 16 → ∀ e ∈ s.pair.merge.get k, min s.pair.wOwn s.pair.wPeer ≤ e.key + 2000) →
    let w := min s.pair.wOwn s.pair.wPeer
    let l := s.pair.merge.get n.val
    (w ≤ key + 2000 → (∀ e ∈ l, e.peer = false → e.digest = d.toNat → key + 2000 < e.key ∨ e.key + 2000 < key) →
      Does (.mergeDigestReceive n key d) s fun t =>
        t.pair = { s.pair with merge := s.pair.merge.set n.val (l ++ [⟨key, d.toNat, none, true⟩]) } ∧ OnlyChanges [.pair] s.toChip t) ∧
    (∀ e r, l = e :: r → e.peer = false → e.digest = d.toNat → e.key ≤ key + 2000 → key ≤ e.key + 2000 → w ≤ min e.key key + 2000 →
      Does (.mergeDigestReceive n key d) s fun t =>
        t.pair = { s.pair with merge := s.pair.merge.set n.val ({ e with key := min e.key key, peer := true } :: r) } ∧ OnlyChanges [.pair] s.toChip t) ∧
    (l = [] → key + 2000 < w → Does (.mergeDigestReceive n key d) s fun t => t.pair.next.get n.val = (s.pair.next.get n.val + 1) % 65536 ∧
      (∀ k, t.pair.merge.get k = s.pair.merge.get k) ∧ (∀ k, k ≠ n.val → t.pair.next.get k = s.pair.next.get k) ∧
      t.cnt.get (pairCnt 0x20) = satAdd 0xFFFFFFFF (s.cnt.get (pairCnt 0x20)) 1 ∧ OnlyChanges [.pair, .cnt] s.toChip t)) ∧
  (∀ (s : State), s.pair.st = 3 → s.pair.linkUp = true → Does .watermarkSend s fun t =>
    let w := watermark s.toChip
    w ≤ ownerTime s.toChip (stampTd s.toChip).ns 0 - 250000 ∧ (∀ k ∈ openKeys s.toChip, w ≤ k) ∧ t.pair.wOwn = w ∧
    t.pair.out = (if s.pair.silent then s.pair.out else s.pair.out ++ [.watermark w]) ∧ t.pair.wPeer = s.pair.wPeer ∧
    ((∀ k, k < 16 → s.pair.merge.get k = []) → s.pair.ready = [] → OnlyChanges [.pair] s.toChip t) ∧
    OnlyChanges [.pair, .cnt, .ev, .sch, .eth, .dq] s.toChip t) ∧
  (∀ (w : Nat) (s : State), s.pair.st = 3 → s.pair.linkUp = true → Does (.watermarkReceive w) s fun t =>
    t.pair.wPeer = max s.pair.wPeer w ∧ t.pair.wPeerAt = (if s.pair.wPeer < w then s.now else s.pair.wPeerAt) ∧ t.pair.wOwn = s.pair.wOwn ∧
    t.pair.st = 3 ∧ t.pair.seqSolo = s.pair.seqSolo ∧
    (s.pair.seqSolo = true → s.pair.resumeSent = none → t.pair.resumeSent = some (watermark s.toChip) ∧ (s.pair.silent = false →
      t.pair.out = s.pair.out ++ [.resume (watermark s.toChip) ((List.range 16).map s.pair.next.get)]) ∧ OnlyChanges [.pair] s.toChip t) ∧
    (s.pair.seqSolo = false → s.pair.ready = [] → ∀ n e, n < 16 → s.pair.merge.get n = [e] → (∀ k, k < 16 → k ≠ n → s.pair.merge.get k = []) →
      (e.key + 2000 < min s.pair.wOwn t.pair.wPeer → t.pair.merge.get n = [] ∧ t.pair.next.get n = (s.pair.next.get n + 1) % 65536 ∧ t.pair.ready = []) ∧
      (min s.pair.wOwn t.pair.wPeer ≤ e.key + 2000 → t.pair.merge.get n = [e] ∧ t.pair.next = s.pair.next ∧ OnlyChanges [.pair] s.toChip t)) ∧
    OnlyChanges [.pair, .cnt, .ev, .sch, .eth, .dq] s.toChip t) ∧
  (∀ (s : State), s.pair.st = 3 → s.pair.seqSolo = false → s.pair.wPeerAt + pairCfg s.toChip 0xF * nsMs ≤ s.now → Does .seqSolo s fun t =>
    t.pair.seqSolo = true ∧ t.pair.st = 3 ∧ t.pair.resumeSent = none ∧ t.pair.next = s.pair.next ∧
    (∀ n, n < 16 → t.pair.merge.get n = [] ∧
      (let k := ((s.pair.merge.get n).filter fun e => e.loc.isSome).length
       if k = 0 then t.pair.solo.get n = s.pair.solo.get n else t.pair.solo.get n = (s.pair.solo.get n + k) % 65536)) ∧
    t.cnt.get (pairCnt 0x1C) = satAdd 0xFFFFFFFF (s.cnt.get (pairCnt 0x1C)) 1 ∧ OnlyChanges [.pair, .cnt, .ev, .sch, .eth, .dq] s.toChip t) ∧
  (∀ (w0 : Nat) (l : List (BitVec 16)) (s : State), s.pair.linkUp = true → s.pair.settled = true →
    (s.pair.st = 2 ∨ s.pair.st = 4 ∨ s.pair.st = 3 ∧ s.pair.seqSolo = true) → Does (.resumeMessageReceive w0 l) s fun t =>
      let own := s.pair.resumeSent.getD (watermark s.toChip)
      t.pair.st = 3 ∧ t.pair.paired = true ∧ t.pair.seqSolo = false ∧ t.pair.resumeSent = none ∧ t.pair.restart = max w0 own ∧ t.pair.merge = Tab.const [] ∧
      t.pair.wOwn = own ∧ t.pair.wPeer = w0 ∧ t.pair.wPeerAt = s.now ∧
      (∀ n, n < 16 → t.pair.next.get n =
        ((if later 16 (l.getD n 0).toNat (s.pair.next.get n) then (l.getD n 0).toNat else s.pair.next.get n) + 1) % 65536) ∧
      t.pair.out = (if s.pair.resumeSent = none ∧ s.pair.silent = false then
        s.pair.out ++ [.resume own ((List.range 16).map s.pair.next.get)] else s.pair.out) ∧
      t.pair.owner = s.pair.owner ∧ t.pair.claim = s.pair.claim ∧ t.pair.solo = s.pair.solo ∧ OnlyChanges [.pair] s.toChip t) ∧
  (∀ (x : Int) (s : State), s.pair.linkUp = true → bitOf s.pair.lanes 0 = true → Does (.trimExchange x) s fun t =>
    t.pair = { s.pair with
      trims := (x :: s.pair.trims).take 64, trimAt := s.now, trimValid := decide (63 ≤ s.pair.trims.length) } ∧ OnlyChanges [.pair] s.toChip t) ∧
  (∀ (s : State), s.pair.trimAt + 100 * nsMs ≤ s.now → Does .trimStaleTimeout s fun t =>
    t.pair = { s.pair with trims := [], trimValid := false } ∧ OnlyChanges [.pair] s.toChip t)

/-- A mirror at a non-owner in PAIRED counts, sets the node's TX_CTR to the later of its own and the mirrored one plus
1, discards the held packet of its digest, and submits the launch at T + θ under LAUNCH_ID 0xC0000000 + bits 28:0; a
refusal counts in MIRROR_FAIL, as does one before service, an invalid trim in TRIM_STALE. A held packet expires
after MIRROR_WAIT. The end of the takeover visit has added TAKEOVER_SKIP to the TX_CTR of every keyed entry not yet
visited and makes the held packets downlink in order. At AT a drill outside PAIRED ends with result 1; in PAIRED it
runs: a handover makes the owner yield, a silence silences it. A drill without RETURN ends after DURATION with its
result and takeover time; one with RETURN then has the new owner yield. PAIR_STATUS answers its registers and
counters; PAIR_YIELD of the owner in PAIRED makes it yield, else ST_BUSY; PAIR_DRILL passes the drill to the peer
and is accepted, outside PAIRED it completes with result 1. (12 R356, 12 R357, 12 R358, 12 R362, 12 R363, 12 R365,
12 Table 12.7, 12 Table 12.9) -/
def Obligations.PairMirrorsTakeoversAndDrills : Prop :=
  (∀ (d : Bytes) (node : BitVec 64) (ctr dig : Word) (s : State), s.pair.st = 3 → s.pair.owner = false →
    let l0 := descLaunch .mirror d
    let l : Launch := { l0 with
      id := 0xC0000000 + l0.id % 2 ^ 29, asap := false, held := false
      t := if s.pair.trimValid then ((l0.t : Int) + theta s.toChip * 65536 / 1000).toNat else l0.t }
    let next := (ctr.toNat + 1) % 2 ^ 32
    let counted := fun (t : Chip) (fails : Nat) => t.cnt.get (pairCnt 4) = satAdd 0xFFFFFFFF (s.cnt.get (pairCnt 4)) 1 ∧
      (0 < fails → t.cnt.get (pairCnt 8) = satAdd 0xFFFFFFFF (s.cnt.get (pairCnt 8)) 1) ∧ (fails = 0 → t.cnt.get (pairCnt 8) = s.cnt.get (pairCnt 8)) ∧
      (s.pair.trimValid = false → t.cnt.get (pairCnt 0x10) = satAdd 0xFFFFFFFF (s.cnt.get (pairCnt 0x10)) 1) ∧
      t.pair = { s.pair with held := s.pair.held.eraseP fun h => decide (h.digest = dig.toNat) } ∧
      (∀ i n, findNode s.toChip node = some (i, n) → nodeAt t i = some { n with txCtr := if later 32 next n.txCtr then next else n.txCtr } ∧
        ∀ j, j ≠ i → nodeAt t j = nodeAt s.toChip j) ∧ (findNode s.toChip node = none → t.fe = s.fe)
    ((∃ x ∈ descChecks d s.toChip, x.2 = false) → Does (.mirrorReceive d node ctr dig) s fun t => counted t 1 ∧ OnlyChanges [.pair, .cnt, .fe] s.toChip t) ∧
    (s.boot.service = false → Does (.mirrorReceive d node ctr dig) s fun t => counted t 1 ∧ OnlyChanges [.pair, .cnt, .fe] s.toChip t) ∧
    (∀ e, s.boot.service = true → (∀ x ∈ descChecks d s.toChip, x.2 = true) → Accepts l e s.toChip → Does (.mirrorReceive d node ctr dig) s fun t => counted t 0 ∧
      Queued l e s.toChip t ∧ OnlyChanges [.pair, .cnt, .fe, .tx, .rf, .sch, .ev] s.toChip t)) ∧
  (∀ (h : HeldPkt) (r : List HeldPkt) (s : State), s.pair.held = h :: r → s.pair.owner = false → h.at_ + pairCfg s.toChip 0xD * nsMs ≤ s.now →
    Does .heldIngressExpire s fun t => t.pair = { s.pair with held := r } ∧
      t.cnt = s.cnt.set (pairCnt 0xC) (satAdd 0xFFFFFFFF (s.cnt.get (pairCnt 0xC)) 1) ∧ OnlyChanges [.pair, .cnt] s.toChip t) ∧
  (∀ (s : State), s.pair.visiting = true → Does .takeoverVisitEnd s fun t =>
    (∀ i, nodeAt t i = (nodeAt s.toChip i).map fun n => if n.handle ≠ 0 ∧ i / 4 ∉ s.pair.visited
      then { n with txCtr := min 0xFFFFFFFF (n.txCtr + pairCfg s.toChip 0x10) } else n) ∧
    t.dq = (forEach s.pair.held (fun h u => putDown (h.port % 16) (h.port / 16) h.pkt u) s.toChip).dq ∧ t.fe.routes = s.fe.routes ∧
    t.pair = { s.pair with visiting := false, visited := [], held := [] } ∧ OnlyChanges [.pair, .fe, .dq] s.toChip t) ∧
  (∀ (d : Drill) (s : State), s.pair.drill = some d → d.phase = 0 → d.at_ ≤ ownerTime s.toChip (stampTd s.toChip).ns 0 →
    (s.pair.st ≠ 3 → d.tookAt = none → Does .drillStart s fun t => t.pair = { s.pair with drill := none, silent := false } ∧ Raised 99 1 t ∧
      (∀ c m, d.cmd = some c → findCmd c s.toChip = some m → Completed c stOk (wr 1 1 ++ zeros 7) t) ∧ OnlyChanges [.pair, .ev, .ubfen] s.toChip t) ∧
    (s.pair.st = 3 → Does .drillStart s fun t => t.pair = { s.pair with
        drill := some { d with phase := 1, startedAt := s.now, mine := s.pair.owner }
        yielding := s.pair.yielding || (s.pair.owner && decide (d.kind = 0)), silent := s.pair.owner && decide (d.kind = 1) } ∧
      (t.pair.silent = false → OnlyChanges [.pair] s.toChip t) ∧
      OnlyChanges [.pair, .cnt, .ev, .ubfen, .tx, .rf, .sch, .time, .freeCtr, .scs, .cal] s.toChip t)) ∧
  (∀ (d : Drill) (s : State), s.pair.drill = some d → d.phase = 1 → d.startedAt + d.dur * nsMs ≤ s.now → (d.kind = 1 → s.pair.st = 3) →
    let bound := (if d.kind = 0 then nsMs else if leaseMode s.toChip then leaseGuard s.toChip + nsMs else pairCfg s.toChip 0xA * nsMs + nsMs) + 10 * nsMs
    let result := match d.tookAt with
      | some x => if x ≤ d.startedAt + bound then 0 else 2
      | none => 2
    let us := match d.tookAt with
      | some x => (x - d.startedAt) / nsUs
      | none => 0
    (d.ret = false → Does .drillEnd s fun t => t.pair = { s.pair with drill := none, silent := false } ∧
      Raised 99 (pack [(0, 8, result), (32, 32, us)]) t ∧
      (∀ c m, d.cmd = some c → findCmd c s.toChip = some m → Completed c stOk (wr 1 result ++ zeros 3 ++ wr 4 us) t) ∧
      OnlyChanges [.pair, .ev, .ubfen] s.toChip t) ∧
    (d.ret = true → s.pair.owner ≠ d.mine → Does .drillEnd s fun t => t.pair = { s.pair with
      drill := some { d with phase := 3 }, silent := false, yielding := s.pair.yielding || (s.pair.owner && !d.mine) } ∧ OnlyChanges [.pair] s.toChip t)) ∧
  (∀ (c : CmdRef) (m : Cmd) (s : State), runnable c 0x0A00 s.toChip = some m → rd m.params 0 1 ≤ 1 → ZeroBytes m.params 1 3 →
    ∃ res, res.length = 68 ∧ rd res 0 4 % 8 = s.pair.st % 8 ∧ rd res 0 1 / 8 % 2 = b2n s.pair.owner ∧ rd res 0 1 / 32 % 4 = s.pair.lanes % 4 ∧
      rd res 1 1 / 4 % 2 = b2n s.pair.seqSolo ∧ rd res 1 1 / 8 % 2 = b2n s.pair.trimValid ∧ Field res 4 4 s.pair.claim ∧ Field res 8 4 s.pair.peerClaim ∧
      Field res 12 4 (match s.pair.leaseEnd with | some x => (x - s.now) / nsUs | none => 0) ∧ rd res 16 4 = ofS 32 (theta s.toChip) ∧
      Field res 20 4 s.pair.peerVersion ∧ rd res 24 8 = s.pair.peerSerial.toNat ∧ (∀ i, i < 9 → Field res (32 + 4 * i) 4 (s.cnt.get (pairCnt 0 + 4 * i))) ∧
      Does (.pairStatus c) s fun t => Completed c stOk res t ∧ OnlyChanges [.cnt, .ubfen] s.toChip t ∧ (rd m.params 0 1 = 0 → t.cnt = s.cnt) ∧
        (rd m.params 0 1 = 1 → ∀ i, i < 9 → t.cnt.get (pairCnt 0 + 4 * i) = 0)) ∧
  (∀ (c : CmdRef) (m : Cmd) (s : State), runnable c 0x0A01 s.toChip = some m → ZeroBytes m.params 0 4 →
    (s.pair.st = 3 → s.pair.owner = true → s.pair.yieldCmd = none → Does (.pairYield c) s fun t =>
      t.pair = { s.pair with yielding := true, yieldCmd := some c } ∧ OnlyChanges [.pair] s.toChip t) ∧
    (s.pair.st ≠ 3 ∨ s.pair.owner = false → Does (.pairYield c) s (JustCompletes c stBusy [] s.toChip))) ∧
  (∀ (c : CmdRef) (m : Cmd) (s : State), runnable c 0x0A03 s.toChip = some m → rd m.params 0 1 ≤ 1 → rd m.params 1 1 ≤ 1 → ZeroBytes m.params 2 2 →
    rd m.params 10 4 < nsSec → ZeroBytes m.params 14 2 → 10 ≤ rd m.params 16 4 → rd m.params 16 4 ≤ 60000 →
    let at_ := rd m.params 4 6 * nsSec + rd m.params 10 4
    let ret := decide (rd m.params 1 1 = 1)
    (s.pair.st ≠ 3 → Does (.pairDrill c) s (JustCompletes c stOk (wr 1 1 ++ zeros 7) s.toChip)) ∧
    (s.pair.st = 3 → s.pair.drill = none → s.pair.silent = false → Does (.pairDrill c) s fun t => t.pair = { s.pair with
        drill := some ⟨rd m.params 0 1, at_, rd m.params 16 4, ret, some c, 0, 0, none, false⟩
        out := s.pair.out ++ [.drill (rd m.params 0 1) at_ (rd m.params 16 4) ret] } ∧ AcceptedCmd c t ∧ OnlyChanges [.pair, .ubfen] s.toChip t))

/-- The next descriptor leaves the frame engine's list. One whose status is not ST_OK counts in RX_BAD unless it is
tunnelled. One without a MAC header or source goes to UP_SWQ with its descriptor. With FWD_AUTH_FAIL = 0, an
unsecured frame without ALLOW_UNSECURED counts in AUTH_FAIL; one whose MIC fails also raises EV_FRAME_AUTH_FAIL; one
whose counter is not above RX_CTR counts in REPLAY and raises EV_FRAME_REPLAY; the entry stays. An accepted one in
routed mode refreshes the entry of its source, a secured one with its counter as RX_CTR, and opens a group, or
learns the node in a free way of its bucket with EV_NODE_LEARN; its payload that is no packet goes to UP_SWQ; its
packet takes its route: DROP counts in DROPPED, SOFTWARE goes to queue NH, none counts in MISS. (10 R284, 10 R285,
10 R286, 10 R288, 10 R289, 10 R294, 10 R299, 10 R302, 10 Table 10.2) -/
def Obligations.UplinkFramesAreSecuredLearnedAndForwarded : Prop :=
  ∀ (d : RxDesc) (rest : List RxDesc) (s : State), s.fe.uplink = d :: rest → pdOn s.toChip 7 = true →
    let f := d.frame
    let swq := (dqPutPacket (frmCfg s.toChip 5) 0 1 (d.words ++ wordsOf f) s.toChip).dq
    let one := fun (t : Chip) (a : Nat) => t.cnt.get a = satAdd 0xFFFFFFFF (s.cnt.get a) 1
    (d.status ≠ 0 → (upMode s.toChip (upEntry s.toChip d) = 0 ∨ fwdCfg s.toChip 7 = 0) → Does .uplinkFrameProcess s fun t => one t (nodeCnt 0x2C) ∧
      t.fe = { s.fe with uplink := rest } ∧ OnlyChanges [.fe, .cnt] s.toChip t) ∧
    (d.status = 0 → parseMhr f = none → Does .uplinkFrameProcess s fun t => t.dq = swq ∧ t.fe = { s.fe with uplink := rest } ∧ OnlyChanges [.fe, .dq] s.toChip t) ∧
    (∀ m : Mhr, d.status = 0 → parseMhr f = some m → (m.srcMode < 2 ∨ m.seqSupp = true) → Does .uplinkFrameProcess s fun t => t.dq = swq ∧
      t.fe = { s.fe with uplink := rest } ∧ OnlyChanges [.fe, .dq] s.toChip t) ∧
    (∀ m : Mhr, d.status = 0 → parseMhr f = some m → 2 ≤ m.srcMode → m.seqSupp = false → frmCfg s.toChip 4 = 0 → m.level = 0 → frmCfg s.toChip 3 = 0 →
      Does .uplinkFrameProcess s fun t => one t (nodeCnt 0x1C) ∧ t.fe = { s.fe with uplink := rest } ∧ OnlyChanges [.fe, .cnt] s.toChip t) ∧
    (∀ (m : Mhr) (i : Nat) (n : NodeEnt) (k : Key), d.status = 0 → parseMhr f = some m → m.srcMode = 3 → m.seqSupp = false → frmCfg s.toChip 4 = 0 →
      5 ≤ m.level → m.kim = 0 → m.ctrSupp = false → findNode s.toChip (euiOfFrame m.src) = some (i, n) → liveKey s.toChip n.handle = some k → k.attr = 1 →
      let cut := f.length - micLen m.level
      let got := Config.ccmOpen k.mat (nonceOf (euiOfFrame m.src) m.ctr m.level) (f.take m.len) ((f.take cut).drop m.len) (f.drop cut)
      let e := (euiOfFrame m.src).toNat
      (got = none → Does .uplinkFrameProcess s fun t => one t (nodeCnt 0x1C) ∧ (limFree 81 0 nsSec s.toChip = true → Raised 81 e t) ∧
        t.fe = { s.fe with uplink := rest } ∧ OnlyChanges [.fe, .cnt, .ev] s.toChip t) ∧
      (got.isSome = true → m.ctr ≤ n.rxCtr → Does .uplinkFrameProcess s fun t => one t (nodeCnt 0x20) ∧
        (limFree 82 0 nsSec s.toChip = true → Raised 82 e t) ∧ t.fe = { s.fe with uplink := rest } ∧ OnlyChanges [.fe, .cnt, .ev] s.toChip t) ∧
      (got.isSome = true → n.rxCtr < m.ctr → n.locValid = true → n.groupOpen = false → Does .uplinkFrameProcess s fun t => one t (nodeCnt 0x00) ∧
        (∃ x, nodeAt t i = some x ∧ x.rxCtr = m.ctr ∧ x.hit = true ∧ x.groupOpen = true ∧ x.eui = n.eui ∧ x.txCtr = n.txCtr ∧ x.key = n.key) ∧
        (∀ j, j ≠ i → nodeAt t j = nodeAt s.toChip j) ∧ t.fe.uplink = rest ∧ t.sec = s.sec ∧ t.cfg = s.cfg)) ∧
    (∀ (m : Mhr), d.status = 0 → parseMhr f = some m → m.srcMode = 3 → m.seqSupp = false → m.level = 0 → frmCfg s.toChip 3 = 1 →
      upMode s.toChip (upEntry s.toChip d) = 0 →
      let e := euiOfFrame m.src
      let o := (heardOf s.toChip d none).obs
      let payload := f.drop m.len
      (∀ i n, findNode s.toChip e = some (i, n) → n.secReq = false → n.locValid = true → n.groupOpen = false →
        let refreshed := fun (t : Chip) => one t (nodeCnt 0x00) ∧ (∃ x, nodeAt t i = some x ∧ x = { n with
            hit := true, marked := false, lastNs := d.w 2, rssi := d.rssi, groupOpen := true, grpNs := d.w 2, pend := o
            grpAt := extendNs (d.w 2) (stampTd s.toChip).ns }) ∧ (∀ j, j ≠ i → nodeAt t j = nodeAt s.toChip j) ∧ t.fe.uplink = rest
        (openPacket s.toChip m (some e) payload = none → Does .uplinkFrameProcess s fun t => refreshed t ∧ t.dq = swq ∧
          OnlyChanges [.fe, .cnt, .dq] s.toChip t) ∧
        (∀ pkt, openPacket s.toChip m (some e) payload = some pkt →
          let route := routeFind s.toChip (upTable s.toChip (upEntry s.toChip d)) (netNat (ipDst pkt))
          (route = none → Does .uplinkFrameProcess s fun t => refreshed t ∧ one t (fwdCnt 0x00) ∧ OnlyChanges [.fe, .cnt, .ev] s.toChip t) ∧
          (∀ p r, route = some (p, r) → (r.action = 0 → Does .uplinkFrameProcess s fun t => refreshed t ∧ one t (fwdCnt 0x04) ∧
              OnlyChanges [.fe, .cnt] s.toChip t) ∧
            (r.action = 4 → Does .uplinkFrameProcess s fun t => refreshed t ∧ one t (fwdCnt 0x0C) ∧
              t.dq = (dqPutPacket r.nh 0 5 (wordsOf pkt) s.toChip).dq ∧ OnlyChanges [.fe, .cnt, .dq] s.toChip t)))) ∧
      (findNode s.toChip e = none → nodeCfg s.toChip 2 = 1 → freeWays s.toChip (bucketOf s.toChip e) ≠ [] → m.typ ≠ 1 →
        Does .uplinkFrameProcess s fun t => one t (nodeCnt 0x00) ∧ one t (nodeCnt 0x0C) ∧ Raised 72 e.toNat t ∧ t.dq = swq ∧
          (∃ i x, nodeAt s.toChip i = none ∧ i / 4 = bucketOf s.toChip e ∧ nodeAt t i = some x ∧ (∀ j, j ≠ i → nodeAt t j = nodeAt s.toChip j) ∧
            x = { NodeEnt.fresh e (frmCfg s.toChip 1) with
              hit := true, lastNs := d.w 2, rssi := d.rssi, groupOpen := true, grpNs := d.w 2, pend := o, locValid := true, locA := o.locA, locB := o.locB
              netid := o.netid, locNs := d.w 2, margin := o.margin, grpAt := extendNs (d.w 2) (stampTd s.toChip).ns }) ∧
          t.fe.uplink = rest ∧ OnlyChanges [.fe, .cnt, .dq, .ev, .freeCtr] s.toChip t))

/-- A downlink packet without a path goes to DL_SWQ, counts in RPL_MISS and raises EV_RPL_ROUTE_MISS. One with a path
whose destination has a usable KEY uses TX_CTR and increments it, and its frame enters the queue that the selector
gives unless that queue is disabled or full; from 0xFFFF_FFF0 on it is discarded and counted in KEY_EXHAUSTED. An
unsecured frame of queue 32 enters its queue as it is and completes with ST_OK; without a path it completes with
ST_NOT_FOUND, with PD7 off or at a non-owner with ST_ABORTED_DISABLED, and an ABORT item with its cause's status. A
completion is REF and status on queue 3, and waits while an earlier frame is in queue 32. BEACON_SET stores its
slot, answers the old counters and, with EN = 0, leaves no k. A beacon that is due in a domain that is not LOCKED
counts as suppressed; one whose template has no secured header is launched at its T, the mesh time at OFFSET. (09
R273, 09 R274, 09 R278, 09 Table 9.4, 10 R287, 10 R295, 10 R296, 10 R297, 10 R305, 11 R311, 11 R312, 12 R356) -/
def Obligations.DownlinkFramesAndBeaconsAreBuilt : Prop :=
  (∀ (p : Pkt) (u : Chip) (s : State), pull 88 s.toChip = (some p, u) → pdOn s.toChip 7 = true → u.pair.visiting = false →
    let h := (firstWord p.words).toNat
    let pkt := (bytesOf (p.words.drop 1)).take (h / 256)
    let e := euiOfIid ((ipDst pkt).drop 8)
    fld h 0 4 < 4 →
    (pathTo u e = none → Does .downlinkFrameProcess s fun t => t.dq = (dqPutPacket (frmCfg u 6) 0 2 (wordsOf pkt) u).dq ∧
      t.cnt.get (fwdCnt 8) = satAdd 0xFFFFFFFF (u.cnt.get (fwdCnt 8)) 1 ∧ Raised 77 e.toNat t ∧ OnlyChanges [.dq, .cnt, .ev] u t) ∧
    (∀ (child : NodeEnt) (tl : List NodeEnt) (i : Nat) (n : NodeEnt) (k : Key), pathTo u e = some (child :: tl) → (child :: tl).getLast? = some n →
      findNode u e = some (i, n) → encKey u n.handle = some k →
      let q := qSel u (128 * child.band + 8 * n.cls + fld h 4 4)
      (n.txCtr < 0xFFFFFFF0 → Does .downlinkFrameProcess s fun t => nodeAt t i = some { n with txCtr := n.txCtr + 1 } ∧
        (∀ j, j ≠ i → nodeAt t j = nodeAt u j) ∧ (∀ j, j ≠ q → queue t j = queue u j) ∧
        (∃ psdu, queue t q = if qEn u q && !queueFull u q psdu.length
          then queue u q ++ [⟨u.sch.frameNo, psdu, child.eui, n.eui, child.band, n.txCtr, crc32c pkt, u.now, false⟩] else queue u q) ∧
        OnlyChanges [.fe, .sch, .cnt, .ev, .freeCtr, .sec] u t) ∧
      (0xFFFFFFF0 ≤ n.txCtr → Does .downlinkFrameProcess s fun t => t.cnt.get (nodeCnt 0x28) = satAdd 0xFFFFFFFF (u.cnt.get (nodeCnt 0x28)) 1 ∧
        OnlyChanges [.cnt] u t))) ∧
  (∀ (no st : Nat) (ref : Word) (u : Chip),
    let q := u.dq.get 32
    let inQueue := q.drain ++ q.fill ++ q.hand ++ (q.under.map UnderRead.pkt).toList
    u.fe.injDone = [] →
    ((∀ x ∈ inQueue, x.kind ≠ .mark → no ≤ x.no) → injectDone no ref st u = dqPutPacket 3 0 0 [ref, w32 st] u) ∧
    ((∃ x ∈ inQueue, x.kind ≠ .mark ∧ x.no < no) → injectDone no ref st u = { u with fe := { u.fe with injDone := [(no, ref, st)] } })) ∧
  (∀ (p : Pkt) (u : Chip) (s : State), nextItem 32 s.toChip = some (p, u) → p.kind = .abort → Does .dlInject s fun t =>
    t = injectDone p.no p.ref (causeStatus p.cause) u) ∧
  (∀ (p : Pkt) (u : Chip) (s : State), nextItem 32 s.toChip = some (p, u) → p.kind = .data →
    let b := bytesOf p.words
    let ref := p.words.getD 3 0
    ((pdOn s.toChip 7 = false ∨ notOwner s.toChip = true) → Does .dlInject s fun t => t = injectDone p.no ref 0x0030 u) ∧
    (pdOn s.toChip 7 = true → s.pwr.state < 2 → notOwner s.toChip = false → 16 ≤ b.length → rd b 0 1 ≤ 1 → rd b 1 1 = 2 →
      (pathTo s.toChip (euiAt b 4) = none → Does .dlInject s fun t => t.dq = (injectDone p.no ref stNotFound u).dq ∧
        t.fe = (injectDone p.no ref stNotFound u).fe ∧ Raised 77 (euiAt b 4).toNat t ∧ OnlyChanges [.dq, .fe, .cnt, .ev] s.toChip t) ∧
      (∀ (child : NodeEnt) (tl : List NodeEnt) (i : Nat) (n : NodeEnt), pathTo s.toChip (euiAt b 4) = some (child :: tl) →
        (child :: tl).getLast? = some n → findNode s.toChip (euiAt b 4) = some (i, n) → bitOf (rd b 2 2) 0 = false → s.pair.visiting = false →
        let q := qSel s.toChip (128 * child.band + 8 * n.cls + p.pri.toNat)
        qEn s.toChip q = true → queueFull s.toChip q (b.length - 16 + 16) = false → Does .dlInject s fun t =>
          t.dq = (injectDone p.no ref 0x0000 u).dq ∧ t.fe = (injectDone p.no ref 0x0000 u).fe ∧ (∀ j, j ≠ q → queue t j = queue s.toChip j) ∧
          queue t q = queue s.toChip q ++ [⟨s.sch.frameNo, b.drop 16, child.eui, n.eui, child.band, 0, crc32c (b.drop 16), s.now, false⟩] ∧
          t.cnt = s.cnt.set (schCnt 0) (satAdd 0xFFFFFFFF (s.cnt.get (schCnt 0)) 1) ∧ OnlyChanges [.dq, .fe, .sch, .cnt] s.toChip t))) ∧
  (∀ (c : CmdRef) (m : Cmd) (n : Nat) (s : State), runnable c 0x0207 s.toChip = some m → rd m.params 32 1 = n →
    let old := s.time.beacons.get n
    let res := wr 4 old.sent ++ wr 4 old.skipped ++ wr 4 old.suppressed
    let now := (tdGet s.toChip (b2n (bitOf (rd m.params 4 1) 4))).ns
    ((∀ x ∈ beaconChecks m.params s.toChip, x.2 = true) → rd m.params 33 1 = 1 → Does (.beaconSet c) s fun t =>
      (∃ b : Beacon, t.time = { s.time with beacons := s.time.beacons.set n b } ∧ b.en = true ∧ b.psdu = m.params.drop 40 ∧ b.offset = rd m.params 34 2 ∧
        b.period = rd m.params 36 4 ∧ b.sent = 0 ∧ b.skipped = 0 ∧ b.suppressed = 0 ∧ now + leadMin s.toChip + nsMs ≤ b.tAt b.k ∧
        (0 < b.k → b.tAt (b.k - 1) < now + leadMin s.toChip + nsMs)) ∧ Completed c stOk res t ∧ OnlyChanges [.time, .ubfen] s.toChip t) ∧
    (rd m.params 33 1 = 0 → (∀ x ∈ offChecks m.params, x.2 = true) → (∀ e ∈ launches s.toChip, e.2.src ≠ .beacon) → Does (.beaconSet c) s fun t =>
      (t.time.beacons.get n).en = false ∧ (∀ j, j ≠ n → t.time.beacons.get j = s.time.beacons.get j) ∧ Completed c stOk res t ∧
      OnlyChanges [.time, .ubfen] s.toChip t)) ∧
  (∀ (n : Fin 8) (b : Beacon) (s : State), s.time.beacons.get n.val = b → b.en = true → s.boot.service = true → pdOn s.toChip 11 = true →
    pdOn s.toChip 7 = true → b.period ≠ 0 → notOwner s.toChip = false →
    let d := b2n (bitOf (rd b.desc 4 1) 4)
    let lead := leadMin s.toChip + nsMs
    b.tAt b.k ≤ (tdGet s.toChip d).ns + lead → (tdGet s.toChip d).ns + lead ≤ b.tAt (b.k + 1) →
    ((tdGet s.toChip d).st ≠ 1 → Does (.beaconBuild n) s fun t => t.time = { s.time with
        beacons := s.time.beacons.set n.val { b with k := b.k + 1, suppressed := b.suppressed + 1 } } ∧ OnlyChanges [.time] s.toChip t) ∧
    ((tdGet s.toChip d).st = 1 → ∀ e,
      let t16 := ns16 (b.tAt b.k) + rd b.desc 12 2
      let l0 := { descLaunch .beacon (b.desc ++ b.psdu) with id := 0xFFFFFF00 + n.val, t := t16 }
      let psdu := l0.psdu.take b.offset ++ meshTime (t16 + refDelay16 l0) (tdGet s.toChip d).epoch ++ l0.psdu.drop (b.offset + 12)
      let l := { l0 with psdu := psdu, len := psdu.length, airNs := airOf l0.fsk l0.phy psdu.length }
      ((parseMhr psdu).map Mhr.sec).getD false = false → tradeLenOk s.toChip l = true → l.asap = false → l.held = false → s.pair.st ≠ 3 →
      Accepts l e s.toChip → Does (.beaconBuild n) s fun t => Queued l e s.toChip t ∧
        t.time = { s.time with beacons := s.time.beacons.set n.val { b with k := b.k + 1 } } ∧ OnlyChanges [.time, .tx, .rf, .sch, .ev] s.toChip t))

/-- With no packet waiting a READ_PACKET returns the 20 bytes of the empty packet, whose first word is 0x000003FF, whose
other bytes are zero and whose VERSION byte is 0xFF. With a packet waiting it returns the packet's bytes from the
first on, and 0x00 after the last of them; it removes the packet only when every byte of it, trailer included, was
clocked out, and then the next READ_PACKET returns the next packet; otherwise the next one returns the same packet
again from its first byte. Nothing else changes. (R50, R54) -/
def Obligations.SpiReadsReturnPacketsInOrder : Prop :=
  ∀ (k : Nat) (s : State), pdOn s.toChip 1 = true →
    (s.ubfen.spiOut = [] → Does (.spiReadPacket k) s fun t => t.ubfen = { s.ubfen with spiRead := t.ubfen.spiRead } ∧
      t.ubfen.spiRead.length = k ∧ (∀ i, t.ubfen.spiRead.getD i 0 = if i = 0 ∧ 0 < k then 0xFF else if i = 1 ∧ 1 < k then 0x03 else 0) ∧
      (20 ≤ k → rd t.ubfen.spiRead 0 4 = 0x000003FF ∧ rd t.ubfen.spiRead 0 1 = 0xFF) ∧ OnlyChanges [.ubfen] s.toChip t) ∧
    (∀ p x rest, s.ubfen.spiOut = (p, x) :: rest →
      let shows := fun (n : Nat) (t : Chip) => t.ubfen.spiRead.length = n ∧ ∀ i, i < n → t.ubfen.spiRead.getD i 0 = p.getD i 0
      Does (.spiReadPacket k) s fun t => shows k t ∧ OnlyChanges [.ubfen] s.toChip t ∧
        (p.length ≤ k → t.ubfen = { s.ubfen with spiRead := t.ubfen.spiRead, spiOut := rest } ∧
          ∀ (n : Nat) (q : Bytes) (y : Option Nat × Nat) (r : List (Bytes × Option Nat × Nat)), rest = (q, y) :: r →
            Does (.spiReadPacket n) { s with toChip := t } fun u =>
              u.ubfen.spiRead.length = n ∧ ∀ i, i < n → u.ubfen.spiRead.getD i 0 = q.getD i 0) ∧
        (k < p.length → t.ubfen = { s.ubfen with spiRead := t.ubfen.spiRead } ∧ ∀ n, Does (.spiReadPacket n) { s with toChip := t } (shows n)))

/-- From the end of wake stage 4 on, READ_STATUS returns four bytes: READY, HOLD, EVENTS (set while the ring holds an
unread record), OVERRUN and SHORT in bits 0 to 4, the packets waiting, 255 at most, in bits 15 to 8, and the free
bytes of the input queue in bits 31 to 16, all 16,384 of them between transactions. It clears OVERRUN and SHORT, and
changes nothing else. A transaction of fewer than 16 bytes sets SHORT and is discarded, one longer than the input
queue sets OVERRUN and is discarded, whatever READY is; a longer one while READY is 0 is discarded and changes
nothing. (02 R52, 02 R53, 02 Table 2.5) -/
def Obligations.SpiStatusShowsAndClears : Prop :=
  ∀ (s : State), pdOn s.toChip 1 = true → (Does .spiReadStatus s fun t =>
    let r := t.ubfen.spiRead
    r.length = 4 ∧ bitOf (rd r 0 1) 0 = s.ubfen.ready ∧ bitOf (rd r 0 1) 1 = s.boot.tamperHold ∧
    (bitOf (rd r 0 1) 2 = true ↔ ∃ e ∈ s.ev.ring, e.unread = true) ∧ bitOf (rd r 0 1) 3 = s.ubfen.spiOverrun ∧
    bitOf (rd r 0 1) 4 = s.ubfen.spiShort ∧ rd r 0 1 / 32 = 0 ∧ rd r 1 1 = min 255 s.ubfen.spiOut.length ∧ rd r 2 2 = 16384 ∧
    t.ubfen = { s.ubfen with spiRead := r, spiOverrun := false, spiShort := false } ∧ OnlyChanges [.ubfen] s.toChip t) ∧
  (∀ d : Bytes,
    (d.length < 16 → Does (.spiWritePacket d) s fun t => t = { s.toChip with ubfen := { s.ubfen with spiShort := true } }) ∧
    (16384 < d.length → Does (.spiWritePacket d) s fun t => t = { s.toChip with ubfen := { s.ubfen with spiOverrun := true } }) ∧
    (s.ubfen.ready = false → 16 ≤ d.length → d.length ≤ 16384 → Does (.spiWritePacket d) s fun t => t = s.toChip))

/-- From every state in which LPDDR4X lists rising addresses and no byte that equals what an unlisted address reads as,
a step, of whatever command waits in front or of the clock alone, leads to a state of which the same holds. So equal
contents of LPDDR4X stay equal data. (17 R478, 17 R483, 18 R512, assumption 7) -/
def Obligations.EveryStepKeepsMemoryForm : Prop :=
  ∀ s t : State, DramWf s → step s = .next t → DramWf t

/-- From every state in which the valid node entries stand in rising index, each index once, and the prefix memory holds
its entries longest first, none longer than 128 bits and no two of one TABLE, LEN and prefix, a step, of whatever
command waits in front or of the clock alone, leads to a state of which the same holds. So a lookup keeps finding
the longest match first. (10 R279, 10 R283, 10 R298, 10 R301) -/
def Obligations.EveryStepKeepsForwardingOrder : Prop :=
  ∀ s t : State, FeWf s → step s = .next t → FeWf t
end

