-- ==== Sys2Proof/Laws/Bytes.lean ====
section
/-! SUPPORT. Byte strings: fields read back what was written, and the reserved bytes of a parameter field. -/

namespace Sys2Proof.Machine

@[simp] theorem wr_length (n v : Nat) : (wr n v).length = n := by
  induction n generalizing v with
  | zero => rfl
  | succ n ih => simp [wr, ih]

@[simp] theorem zeros_length (n : Nat) : (zeros n).length = n := by simp [zeros]

/-- The value of `n` bytes written little-endian. -/
theorem leNat_wr (n v : Nat) : leNat (wr n v) = v % 256 ^ n := by
  induction n generalizing v with
  | zero => simp [wr, leNat, Nat.mod_one]
  | succ n ih =>
    simp only [wr, leNat, ih, BitVec.toNat_ofNat]
    have h : 256 ^ (n + 1) = 256 * 256 ^ n := by rw [Nat.pow_succ, Nat.mul_comm]
    rw [h, Nat.mod_mul]

theorem leNat_zeros (n : Nat) : leNat (zeros n) = 0 := by
  induction n with
  | zero => rfl
  | succ n ih => simp [zeros, List.replicate_succ, leNat] at ih ⊢; simp [ih]

/-- The field at the start of a byte string. -/
theorem rd_here (n v : Nat) (bs : Bytes) : rd (wr n v ++ bs) 0 n = v % 256 ^ n := by
  simp [rd, leNat_wr]

/-- A field behind `n` written bytes. -/
theorem rd_skip (n v k off : Nat) (bs : Bytes) (h : n ≤ off) : rd (wr n v ++ bs) off k = rd bs (off - n) k := by
  simp [rd, List.drop_append, List.drop_eq_nil_of_le, h]

/-- A field behind zeros. -/
theorem rd_skip_zeros (n k off : Nat) (bs : Bytes) (h : n ≤ off) : rd (zeros n ++ bs) off k = rd bs (off - n) k := by
  simp [rd, List.drop_append, List.drop_eq_nil_of_le, h]

/-- A field that ends a byte string. -/
theorem rd_last (n v : Nat) : rd (wr n v) 0 n = v % 256 ^ n := by
  simpa using rd_here n v []

/-- Reserved bytes that are zero pass their check. -/
theorem zeroAt_ok {p : Bytes} {off n : Nat} (h : ZeroBytes p off n) : ∀ x ∈ zeroAt p off n, x.2 = true := by
  intro x hx
  simp only [zeroAt, List.mem_map, List.mem_range] at hx
  obtain ⟨i, hi, rfl⟩ := hx
  simpa [ck] using h i hi

end Sys2Proof.Machine
end

