-- ==== Sys2Proof/Laws/Commands.lean ====
section
/-! SUPPORT. What the shared operations on Ubfen commands do: finding a command, running it, its checks, and its
completion. -/

namespace Sys2Proof.Machine

theorem findCmd_some {c : CmdRef} {s : Chip} {m : Cmd} (h : findCmd c s = some m) :
    m ∈ s.ubfen.cmds ∧ NamesCmd c m := by
  unfold findCmd at h
  refine ⟨List.mem_of_find?_eq_some h, ?_⟩
  have := List.find?_some h
  simp at this
  exact ⟨this.1.1, this.1.2, this.2⟩

theorem findCmd_congr {c : CmdRef} {s t : Chip} (h : t.ubfen.cmds = s.ubfen.cmds) : findCmd c t = findCmd c s := by
  simp [findCmd, h]

/-- The command that runs is named, started, not yet accepted, and of the opcode. -/
theorem runnable_some {c : CmdRef} {op : Nat} {s : Chip} {m : Cmd} (h : runnable c op s = some m) :
    findCmd c s = some m ∧ m.startedAt.isSome = true ∧ m.accepted = false ∧ m.opcode = op := by
  unfold runnable at h
  split at h
  · split at h
    · simp_all
    · simp at h
  · simp at h

theorem runCmd_eq {c : CmdRef} {op : Nat} {s : Chip} {m : Cmd} (h : runnable c op s = some m) (f : Cmd → Chip → Chip) :
    runCmd c op s f = .next (f m s) := by
  simp [runCmd, h]

theorem firstBad_none {l : List (Nat × Bool)} : firstBad l = none ↔ ∀ x ∈ l, x.2 = true := by
  induction l with
  | nil => simp [firstBad]
  | cons a l ih =>
    obtain ⟨o, b⟩ := a
    cases b <;> simp [firstBad, ih]

theorem checked_ok {c : CmdRef} {l : List (Nat × Bool)} (h : ∀ x ∈ l, x.2 = true) (f : Chip → Chip) (s : Chip) :
    checked c l f s = f s := by
  simp [checked, firstBad_none.2 h]

theorem checked_bad {c : CmdRef} {l : List (Nat × Bool)} {off : Nat} (h : firstBad l = some off) (f : Chip → Chip)
    (s : Chip) : checked c l f s = badParam c off s := by
  simp [checked, h]

/-- Keeping a reply leaves the commands as they are. -/
@[simp] theorem keepReply_cmds (m : Cmd) (st : Nat) (res : Bytes) (s : Chip) : (keepReply m st res s).ubfen.cmds = s.ubfen.cmds := rfl
@[simp] theorem noteAccept_cmds (m : Cmd) (s : Chip) : (noteAccept m s).ubfen.cmds = s.ubfen.cmds := rfl

/-- Completing a command changes nothing but that command and the protocol's bookkeeping. -/
theorem complete_just {c : CmdRef} {s : Chip} {m : Cmd} (h : findCmd c s = some m) (st : Nat) (res : Bytes) :
    JustCompletes c st res s (complete c st res s) := by
  obtain ⟨hm, hn⟩ := findCmd_some h
  have hc : (complete c st res s).ubfen.cmds = s.ubfen.cmds.map fun m =>
      if m.tr = c.tr.val && m.tag = c.tag && m.done.isNone then
        { m with accepted := true, done := some (st, pad4 res, s.ev.raiseNo) } else m := by
    unfold complete
    rw [h]
    by_cases ha : m.accepted = true <;> simp [ha, updCmd, noteAccept]
  refine ⟨⟨{ m with accepted := true, done := some (st, pad4 res, s.ev.raiseNo) }, ?_, hn.1, hn.2.1, rfl, _, rfl⟩, ?_, ?_, ?_⟩
  · rw [hc, List.mem_map]
    exact ⟨m, hm, by simp [hn.1, hn.2.1, hn.2.2]⟩
  · intro x hx hne
    rw [hc, List.mem_map]
    refine ⟨x, hx, ?_⟩
    have : ¬ ((decide (x.tr = c.tr.val) && decide (x.tag = c.tag) && x.done.isNone) = true) := by
      intro hb
      simp at hb
      exact hne ⟨hb.1.1, hb.1.2, hb.2⟩
    simp only [this]
    rfl
  · simp [hc]
  · unfold complete
    rw [h]
    by_cases ha : m.accepted = true <;> simp [ha, updCmd, noteAccept, keepReply]

/-- Completing the command that runs, in a state that holds the same commands. -/
theorem complete_at {c : CmdRef} {op : Nat} {s u : Chip} {m : Cmd} (h : runnable c op s = some m)
    (hu : u.ubfen.cmds = s.ubfen.cmds) (st : Nat) (res : Bytes) : JustCompletes c st res u (complete c st res u) :=
  complete_just (by rw [findCmd_congr hu]; exact (runnable_some h).1) st res

/-- What a meaning answers where its effect is a next state. -/
theorem on_next {s : State} {f : Chip → Eff} {t : Chip} (h : f s.toChip = .next t) :
    s.on f = .next { s with toChip := t } := by simp [State.on, h]

/-- A command of the protocol always answers a next state. -/
theorem runCmd_next (c : CmdRef) (op : Nat) (s : Chip) (f : Cmd → Chip → Chip) : ∃ t, runCmd c op s f = .next t := by
  unfold runCmd
  cases runnable c op s <;> exact ⟨_, rfl⟩

/-- A meaning that answers a next state, and what holds of it. -/
theorem does_on {i : Instr} {s : State} {f : Chip → Eff} {t : Chip} {P : Chip → Prop} (hi : exec i s = s.on f)
    (hf : f s.toChip = .next t) (hp : P t) : Does i s P := ⟨t, by rw [hi, on_next hf], hp⟩

/-- A command that runs: the state that its effect gives. -/
theorem does_run {i : Instr} {s : State} {c : CmdRef} {op : Nat} {m : Cmd} {f : Chip → Cmd → Chip → Chip} {P : Chip → Prop}
    (h : runnable c op s.toChip = some m) (hi : exec i s = s.on fun x => runCmd c op x (f x))
    (hp : P (f s.toChip m s.toChip)) : Does i s P :=
  does_on (f := fun x => runCmd c op x (f x)) hi (runCmd_eq h _) hp

/-- A command that runs and completes in the state `u`, which holds the same commands. -/
theorem does_complete {i : Instr} {s : State} {c : CmdRef} {op : Nat} {m : Cmd} {f : Chip → Cmd → Chip → Chip}
    {st : Nat} {res : Bytes} {u : Chip} (h : runnable c op s.toChip = some m)
    (hi : exec i s = s.on fun x => runCmd c op x (f x)) (hf : f s.toChip m s.toChip = complete c st res u)
    (hu : u.ubfen.cmds = s.ubfen.cmds) : Does i s (JustCompletes c st res u) := by
  refine does_run h hi ?_
  rw [hf]
  exact complete_just (by rw [findCmd_congr hu]; exact (runnable_some h).1) st res

end Sys2Proof.Machine
end

