-- ==== Sys2Proof/Laws/Mem.lean ====
section
/-! SUPPORT. LPDDR4X: every memory operation keeps the canonical form, a read gives what was written, and a write leaves
every other byte alone. -/

namespace Sys2Proof.Machine

theorem memAbove_mono {a b : Nat} (h : a ≤ b) : ∀ {m : List Host.Cell}, memAbove b m = true → memAbove a m = true
  | [], _ => rfl
  | (k, _) :: m, hm => by
    simp only [memAbove, Bool.and_eq_true, decide_eq_true_eq] at hm ⊢
    exact ⟨by omega, memAbove_mono h hm.2⟩

theorem memWf_tail {c : Host.Cell} {m : List Host.Cell} (h : memWf (c :: m) = true) : memWf m = true := by
  obtain ⟨k, v⟩ := c
  simp only [memWf, Bool.and_eq_true] at h
  exact h.2

theorem memAbove_write {b a : Nat} (hb : b < a) (v : Byte) :
    ∀ {m : List Host.Cell}, memAbove b m = true → memAbove b (memWrite m a v) = true
  | [], _ => by
    unfold memWrite
    split <;> simp [memAbove, hb]
  | (k, x) :: m, hm => by
    have h := hm
    simp only [memAbove, Bool.and_eq_true, decide_eq_true_eq] at h
    unfold memWrite
    split
    · split
      · exact hm
      · simp [memAbove, hb, h.1, h.2]
    · split
      · split
        · exact h.2
        · simp [memAbove, h.1, h.2]
      · simp [memAbove, h.1, memAbove_write hb v h.2]

/-- A write keeps the canonical form. -/
theorem memWf_write (a : Nat) (v : Byte) : ∀ {m : List Host.Cell}, memWf m = true → memWf (memWrite m a v) = true
  | [], _ => by
    unfold memWrite
    split
    · rfl
    · next h => simp [memWf, memAbove, h]
  | (k, x) :: m, hm => by
    have h := hm
    simp only [memWf, Bool.and_eq_true, decide_eq_true_eq] at h
    unfold memWrite
    split
    · next hk =>
      split
      · exact hm
      · next hv => simp [memWf, memAbove, hk, hv, h.1.1, h.1.2, h.2, memAbove_mono (Nat.le_of_lt hk) h.1.1]
    · split
      · split
        · exact h.2
        · next hv => simp [memWf, h.1.1, hv, h.2]
      · next h1 h2 =>
        have hk : k < a := by omega
        simp [memWf, memAbove_write hk v h.1.1, h.1.2, memWf_write a v h.2]

theorem memWf_writeBytes (bs : Bytes) : ∀ (m : List Host.Cell) (a : Nat), memWf m = true → memWf (memWriteBytes m a bs) = true := by
  induction bs with
  | nil => exact fun m a h => h
  | cons b bs ih => exact fun m a h => ih _ _ (memWf_write a b h)

/-- An address below every listed one reads as an unlisted byte. -/
theorem memRead_above {a b : Nat} (hb : b ≤ a) : ∀ {m : List Host.Cell}, memAbove a m = true → memRead m b = memDflt
  | [], _ => rfl
  | (k, _) :: m, h => by
    simp only [memAbove, Bool.and_eq_true, decide_eq_true_eq] at h
    have : k ≠ b := by omega
    simp [memRead, this, memRead_above hb h.2]

/-- A byte written reads back. -/
theorem memRead_write_self (a : Nat) (v : Byte) : ∀ {m : List Host.Cell}, memWf m = true → memRead (memWrite m a v) a = v
  | [], _ => by
    unfold memWrite
    split
    · next h => simp [memRead, h]
    · simp [memRead]
  | (k, x) :: m, hm => by
    simp only [memWf, Bool.and_eq_true, decide_eq_true_eq] at hm
    unfold memWrite
    split
    · next hk =>
      split
      · next hv =>
        have : k ≠ a := by omega
        simp [memRead, this, memRead_above (Nat.le_of_lt hk) hm.1.1, hv]
      · simp [memRead]
    · split
      · next _ he =>
        subst he
        split
        · next hv => rw [memRead_above (Nat.le_refl _) hm.1.1, hv]
        · simp [memRead]
      · next h1 h2 =>
        have : k ≠ a := by omega
        simp [memRead, this, memRead_write_self a v hm.2]

/-- A write leaves every other byte alone. -/
theorem memRead_write_other {a b : Nat} (hab : a ≠ b) (v : Byte) :
    ∀ {m : List Host.Cell}, memWf m = true → memRead (memWrite m a v) b = memRead m b
  | [], _ => by
    unfold memWrite
    split <;> simp [memRead, hab]
  | (k, x) :: m, hm => by
    simp only [memWf, Bool.and_eq_true, decide_eq_true_eq] at hm
    unfold memWrite
    split
    · split
      · rfl
      · simp [memRead, hab]
    · split
      · next _ he =>
        subst he
        split
        · next hv =>
          have : ¬ a = b := hab
          simp [memRead, this]
        · simp [memRead, hab]
      · simp only [memRead]
        split
        · rfl
        · exact memRead_write_other hab v hm.2

/-- A byte outside those written stays. -/
theorem memRead_writeBytes_other {b : Nat} (bs : Bytes) : ∀ (m : List Host.Cell) (a : Nat), memWf m = true →
    (b < a ∨ a + bs.length ≤ b) → memRead (memWriteBytes m a bs) b = memRead m b := by
  induction bs with
  | nil => exact fun m a _ _ => rfl
  | cons x bs ih =>
    intro m a h hb
    simp only [List.length_cons] at hb
    simp only [memWriteBytes]
    rw [ih _ _ (memWf_write a x h) (by omega), memRead_write_other (by omega) x h]

/-- The bytes written read back. -/
theorem memRead_writeBytes (bs : Bytes) : ∀ (m : List Host.Cell) (a i : Nat), memWf m = true → i < bs.length →
    memRead (memWriteBytes m a bs) (a + i) = bs.getD i 0 := by
  induction bs with
  | nil => intro m a i _ h; simp at h
  | cons x bs ih =>
    intro m a i h hi
    simp only [memWriteBytes]
    cases i with
    | zero =>
      rw [memRead_writeBytes_other bs _ _ (memWf_write a x h) (by omega)]
      simpa using memRead_write_self a x h
    | succ j =>
      simp only [List.length_cons] at hi
      have := ih (memWrite m a x) (a + 1) j (memWf_write a x h) (by omega)
      rw [show a + (j + 1) = a + 1 + j by omega, this]
      simp

/-- LPDDR4X lists nothing after power-on. -/
theorem reset_dramWf : DramWf State.reset := by unfold DramWf; decide

end Sys2Proof.Machine
end

