-- ==== Sys2Proof/Laws/State.lean ====
section
/-! SUPPORT. The update operations of the state: each changes one part of the device, every other part reads as before. -/

namespace Sys2Proof.Machine

variable (s : Chip)

@[simp] theorem apcUpd_apc (f : Apc → Apc) : (apcUpd f s).apc = f s.apc := rfl
@[simp] theorem apcUpd_now (f : Apc → Apc) : (apcUpd f s).now = s.now := rfl
@[simp] theorem apcUpd_freeCtr (f : Apc → Apc) : (apcUpd f s).freeCtr = s.freeCtr := rfl
@[simp] theorem apcUpd_dq (f : Apc → Apc) : (apcUpd f s).dq = s.dq := rfl
@[simp] theorem apcUpd_ubfen (f : Apc → Apc) : (apcUpd f s).ubfen = s.ubfen := rfl
@[simp] theorem apcUpd_ev (f : Apc → Apc) : (apcUpd f s).ev = s.ev := rfl
@[simp] theorem apcUpd_boot (f : Apc → Apc) : (apcUpd f s).boot = s.boot := rfl
@[simp] theorem apcUpd_cfg (f : Apc → Apc) : (apcUpd f s).cfg = s.cfg := rfl
@[simp] theorem apcUpd_cal (f : Apc → Apc) : (apcUpd f s).cal = s.cal := rfl
@[simp] theorem apcUpd_sys (f : Apc → Apc) : (apcUpd f s).sys = s.sys := rfl
@[simp] theorem apcUpd_time (f : Apc → Apc) : (apcUpd f s).time = s.time := rfl
@[simp] theorem apcUpd_pd0 (f : Apc → Apc) : (apcUpd f s).pd0 = s.pd0 := rfl
@[simp] theorem apcUpd_pwr (f : Apc → Apc) : (apcUpd f s).pwr = s.pwr := rfl
@[simp] theorem apcUpd_health (f : Apc → Apc) : (apcUpd f s).health = s.health := rfl
@[simp] theorem apcUpd_scs (f : Apc → Apc) : (apcUpd f s).scs = s.scs := rfl
@[simp] theorem apcUpd_cnt (f : Apc → Apc) : (apcUpd f s).cnt = s.cnt := rfl
@[simp] theorem apcUpd_eth (f : Apc → Apc) : (apcUpd f s).eth = s.eth := rfl
@[simp] theorem apcUpd_rf (f : Apc → Apc) : (apcUpd f s).rf = s.rf := rfl
@[simp] theorem apcUpd_tx (f : Apc → Apc) : (apcUpd f s).tx = s.tx := rfl
@[simp] theorem apcUpd_chn (f : Apc → Apc) : (apcUpd f s).chn = s.chn := rfl
@[simp] theorem apcUpd_dem (f : Apc → Apc) : (apcUpd f s).dem = s.dem := rfl
@[simp] theorem apcUpd_rwd (f : Apc → Apc) : (apcUpd f s).rwd = s.rwd := rfl
@[simp] theorem apcUpd_dram (f : Apc → Apc) : (apcUpd f s).dram = s.dram := rfl
@[simp] theorem apcUpd_fe (f : Apc → Apc) : (apcUpd f s).fe = s.fe := rfl
@[simp] theorem apcUpd_sch (f : Apc → Apc) : (apcUpd f s).sch = s.sch := rfl
@[simp] theorem apcUpd_pair (f : Apc → Apc) : (apcUpd f s).pair = s.pair := rfl
@[simp] theorem apcUpd_sec (f : Apc → Apc) : (apcUpd f s).sec = s.sec := rfl
@[simp] theorem apcUpd_img (f : Apc → Apc) : (apcUpd f s).img = s.img := rfl

/-- `apcUpd` changes only `apc`. -/
theorem apcUpd_frame (f : Apc → Apc) : OnlyChanges [.apc] s (apcUpd f s) := by
  intro x hx
  cases x <;> first | rfl | exact absurd (List.mem_singleton.2 rfl) hx

@[simp] theorem rfUpd_rf (f : Rf → Rf) : (rfUpd f s).rf = f s.rf := rfl
@[simp] theorem rfUpd_now (f : Rf → Rf) : (rfUpd f s).now = s.now := rfl
@[simp] theorem rfUpd_freeCtr (f : Rf → Rf) : (rfUpd f s).freeCtr = s.freeCtr := rfl
@[simp] theorem rfUpd_dq (f : Rf → Rf) : (rfUpd f s).dq = s.dq := rfl
@[simp] theorem rfUpd_ubfen (f : Rf → Rf) : (rfUpd f s).ubfen = s.ubfen := rfl
@[simp] theorem rfUpd_ev (f : Rf → Rf) : (rfUpd f s).ev = s.ev := rfl
@[simp] theorem rfUpd_boot (f : Rf → Rf) : (rfUpd f s).boot = s.boot := rfl
@[simp] theorem rfUpd_cfg (f : Rf → Rf) : (rfUpd f s).cfg = s.cfg := rfl
@[simp] theorem rfUpd_cal (f : Rf → Rf) : (rfUpd f s).cal = s.cal := rfl
@[simp] theorem rfUpd_sys (f : Rf → Rf) : (rfUpd f s).sys = s.sys := rfl
@[simp] theorem rfUpd_time (f : Rf → Rf) : (rfUpd f s).time = s.time := rfl
@[simp] theorem rfUpd_pd0 (f : Rf → Rf) : (rfUpd f s).pd0 = s.pd0 := rfl
@[simp] theorem rfUpd_pwr (f : Rf → Rf) : (rfUpd f s).pwr = s.pwr := rfl
@[simp] theorem rfUpd_health (f : Rf → Rf) : (rfUpd f s).health = s.health := rfl
@[simp] theorem rfUpd_scs (f : Rf → Rf) : (rfUpd f s).scs = s.scs := rfl
@[simp] theorem rfUpd_cnt (f : Rf → Rf) : (rfUpd f s).cnt = s.cnt := rfl
@[simp] theorem rfUpd_eth (f : Rf → Rf) : (rfUpd f s).eth = s.eth := rfl
@[simp] theorem rfUpd_tx (f : Rf → Rf) : (rfUpd f s).tx = s.tx := rfl
@[simp] theorem rfUpd_chn (f : Rf → Rf) : (rfUpd f s).chn = s.chn := rfl
@[simp] theorem rfUpd_dem (f : Rf → Rf) : (rfUpd f s).dem = s.dem := rfl
@[simp] theorem rfUpd_rwd (f : Rf → Rf) : (rfUpd f s).rwd = s.rwd := rfl
@[simp] theorem rfUpd_dram (f : Rf → Rf) : (rfUpd f s).dram = s.dram := rfl
@[simp] theorem rfUpd_fe (f : Rf → Rf) : (rfUpd f s).fe = s.fe := rfl
@[simp] theorem rfUpd_sch (f : Rf → Rf) : (rfUpd f s).sch = s.sch := rfl
@[simp] theorem rfUpd_pair (f : Rf → Rf) : (rfUpd f s).pair = s.pair := rfl
@[simp] theorem rfUpd_sec (f : Rf → Rf) : (rfUpd f s).sec = s.sec := rfl
@[simp] theorem rfUpd_img (f : Rf → Rf) : (rfUpd f s).img = s.img := rfl
@[simp] theorem rfUpd_apc (f : Rf → Rf) : (rfUpd f s).apc = s.apc := rfl

/-- `rfUpd` changes only `rf`. -/
theorem rfUpd_frame (f : Rf → Rf) : OnlyChanges [.rf] s (rfUpd f s) := by
  intro x hx
  cases x <;> first | rfl | exact absurd (List.mem_singleton.2 rfl) hx

@[simp] theorem dqUpd_dq (n : Nat) (f : Dq → Dq) : (dqUpd n f s).dq = s.dq.upd n f := rfl
@[simp] theorem dqUpd_now (n : Nat) (f : Dq → Dq) : (dqUpd n f s).now = s.now := rfl
@[simp] theorem dqUpd_freeCtr (n : Nat) (f : Dq → Dq) : (dqUpd n f s).freeCtr = s.freeCtr := rfl
@[simp] theorem dqUpd_ubfen (n : Nat) (f : Dq → Dq) : (dqUpd n f s).ubfen = s.ubfen := rfl
@[simp] theorem dqUpd_ev (n : Nat) (f : Dq → Dq) : (dqUpd n f s).ev = s.ev := rfl
@[simp] theorem dqUpd_boot (n : Nat) (f : Dq → Dq) : (dqUpd n f s).boot = s.boot := rfl
@[simp] theorem dqUpd_cfg (n : Nat) (f : Dq → Dq) : (dqUpd n f s).cfg = s.cfg := rfl
@[simp] theorem dqUpd_cal (n : Nat) (f : Dq → Dq) : (dqUpd n f s).cal = s.cal := rfl
@[simp] theorem dqUpd_sys (n : Nat) (f : Dq → Dq) : (dqUpd n f s).sys = s.sys := rfl
@[simp] theorem dqUpd_time (n : Nat) (f : Dq → Dq) : (dqUpd n f s).time = s.time := rfl
@[simp] theorem dqUpd_pd0 (n : Nat) (f : Dq → Dq) : (dqUpd n f s).pd0 = s.pd0 := rfl
@[simp] theorem dqUpd_pwr (n : Nat) (f : Dq → Dq) : (dqUpd n f s).pwr = s.pwr := rfl
@[simp] theorem dqUpd_health (n : Nat) (f : Dq → Dq) : (dqUpd n f s).health = s.health := rfl
@[simp] theorem dqUpd_scs (n : Nat) (f : Dq → Dq) : (dqUpd n f s).scs = s.scs := rfl
@[simp] theorem dqUpd_cnt (n : Nat) (f : Dq → Dq) : (dqUpd n f s).cnt = s.cnt := rfl
@[simp] theorem dqUpd_eth (n : Nat) (f : Dq → Dq) : (dqUpd n f s).eth = s.eth := rfl
@[simp] theorem dqUpd_rf (n : Nat) (f : Dq → Dq) : (dqUpd n f s).rf = s.rf := rfl
@[simp] theorem dqUpd_tx (n : Nat) (f : Dq → Dq) : (dqUpd n f s).tx = s.tx := rfl
@[simp] theorem dqUpd_chn (n : Nat) (f : Dq → Dq) : (dqUpd n f s).chn = s.chn := rfl
@[simp] theorem dqUpd_dem (n : Nat) (f : Dq → Dq) : (dqUpd n f s).dem = s.dem := rfl
@[simp] theorem dqUpd_rwd (n : Nat) (f : Dq → Dq) : (dqUpd n f s).rwd = s.rwd := rfl
@[simp] theorem dqUpd_dram (n : Nat) (f : Dq → Dq) : (dqUpd n f s).dram = s.dram := rfl
@[simp] theorem dqUpd_fe (n : Nat) (f : Dq → Dq) : (dqUpd n f s).fe = s.fe := rfl
@[simp] theorem dqUpd_sch (n : Nat) (f : Dq → Dq) : (dqUpd n f s).sch = s.sch := rfl
@[simp] theorem dqUpd_pair (n : Nat) (f : Dq → Dq) : (dqUpd n f s).pair = s.pair := rfl
@[simp] theorem dqUpd_sec (n : Nat) (f : Dq → Dq) : (dqUpd n f s).sec = s.sec := rfl
@[simp] theorem dqUpd_img (n : Nat) (f : Dq → Dq) : (dqUpd n f s).img = s.img := rfl
@[simp] theorem dqUpd_apc (n : Nat) (f : Dq → Dq) : (dqUpd n f s).apc = s.apc := rfl

/-- `dqUpd` changes only `dq`. -/
theorem dqUpd_frame (n : Nat) (f : Dq → Dq) : OnlyChanges [.dq] s (dqUpd n f s) := by
  intro x hx
  cases x <;> first | rfl | exact absurd (List.mem_singleton.2 rfl) hx

@[simp] theorem ethUpd_eth (p : Nat) (f : EthPort → EthPort) : (ethUpd p f s).eth = s.eth.upd p f := rfl
@[simp] theorem ethUpd_now (p : Nat) (f : EthPort → EthPort) : (ethUpd p f s).now = s.now := rfl
@[simp] theorem ethUpd_freeCtr (p : Nat) (f : EthPort → EthPort) : (ethUpd p f s).freeCtr = s.freeCtr := rfl
@[simp] theorem ethUpd_dq (p : Nat) (f : EthPort → EthPort) : (ethUpd p f s).dq = s.dq := rfl
@[simp] theorem ethUpd_ubfen (p : Nat) (f : EthPort → EthPort) : (ethUpd p f s).ubfen = s.ubfen := rfl
@[simp] theorem ethUpd_ev (p : Nat) (f : EthPort → EthPort) : (ethUpd p f s).ev = s.ev := rfl
@[simp] theorem ethUpd_boot (p : Nat) (f : EthPort → EthPort) : (ethUpd p f s).boot = s.boot := rfl
@[simp] theorem ethUpd_cfg (p : Nat) (f : EthPort → EthPort) : (ethUpd p f s).cfg = s.cfg := rfl
@[simp] theorem ethUpd_cal (p : Nat) (f : EthPort → EthPort) : (ethUpd p f s).cal = s.cal := rfl
@[simp] theorem ethUpd_sys (p : Nat) (f : EthPort → EthPort) : (ethUpd p f s).sys = s.sys := rfl
@[simp] theorem ethUpd_time (p : Nat) (f : EthPort → EthPort) : (ethUpd p f s).time = s.time := rfl
@[simp] theorem ethUpd_pd0 (p : Nat) (f : EthPort → EthPort) : (ethUpd p f s).pd0 = s.pd0 := rfl
@[simp] theorem ethUpd_pwr (p : Nat) (f : EthPort → EthPort) : (ethUpd p f s).pwr = s.pwr := rfl
@[simp] theorem ethUpd_health (p : Nat) (f : EthPort → EthPort) : (ethUpd p f s).health = s.health := rfl
@[simp] theorem ethUpd_scs (p : Nat) (f : EthPort → EthPort) : (ethUpd p f s).scs = s.scs := rfl
@[simp] theorem ethUpd_cnt (p : Nat) (f : EthPort → EthPort) : (ethUpd p f s).cnt = s.cnt := rfl
@[simp] theorem ethUpd_rf (p : Nat) (f : EthPort → EthPort) : (ethUpd p f s).rf = s.rf := rfl
@[simp] theorem ethUpd_tx (p : Nat) (f : EthPort → EthPort) : (ethUpd p f s).tx = s.tx := rfl
@[simp] theorem ethUpd_chn (p : Nat) (f : EthPort → EthPort) : (ethUpd p f s).chn = s.chn := rfl
@[simp] theorem ethUpd_dem (p : Nat) (f : EthPort → EthPort) : (ethUpd p f s).dem = s.dem := rfl
@[simp] theorem ethUpd_rwd (p : Nat) (f : EthPort → EthPort) : (ethUpd p f s).rwd = s.rwd := rfl
@[simp] theorem ethUpd_dram (p : Nat) (f : EthPort → EthPort) : (ethUpd p f s).dram = s.dram := rfl
@[simp] theorem ethUpd_fe (p : Nat) (f : EthPort → EthPort) : (ethUpd p f s).fe = s.fe := rfl
@[simp] theorem ethUpd_sch (p : Nat) (f : EthPort → EthPort) : (ethUpd p f s).sch = s.sch := rfl
@[simp] theorem ethUpd_pair (p : Nat) (f : EthPort → EthPort) : (ethUpd p f s).pair = s.pair := rfl
@[simp] theorem ethUpd_sec (p : Nat) (f : EthPort → EthPort) : (ethUpd p f s).sec = s.sec := rfl
@[simp] theorem ethUpd_img (p : Nat) (f : EthPort → EthPort) : (ethUpd p f s).img = s.img := rfl
@[simp] theorem ethUpd_apc (p : Nat) (f : EthPort → EthPort) : (ethUpd p f s).apc = s.apc := rfl

/-- `ethUpd` changes only `eth`. -/
theorem ethUpd_frame (p : Nat) (f : EthPort → EthPort) : OnlyChanges [.eth] s (ethUpd p f s) := by
  intro x hx
  cases x <;> first | rfl | exact absurd (List.mem_singleton.2 rfl) hx

@[simp] theorem imgUpd_img (f : Img → Img) : (imgUpd f s).img = f s.img := rfl
@[simp] theorem imgUpd_now (f : Img → Img) : (imgUpd f s).now = s.now := rfl
@[simp] theorem imgUpd_freeCtr (f : Img → Img) : (imgUpd f s).freeCtr = s.freeCtr := rfl
@[simp] theorem imgUpd_dq (f : Img → Img) : (imgUpd f s).dq = s.dq := rfl
@[simp] theorem imgUpd_ubfen (f : Img → Img) : (imgUpd f s).ubfen = s.ubfen := rfl
@[simp] theorem imgUpd_ev (f : Img → Img) : (imgUpd f s).ev = s.ev := rfl
@[simp] theorem imgUpd_boot (f : Img → Img) : (imgUpd f s).boot = s.boot := rfl
@[simp] theorem imgUpd_cfg (f : Img → Img) : (imgUpd f s).cfg = s.cfg := rfl
@[simp] theorem imgUpd_cal (f : Img → Img) : (imgUpd f s).cal = s.cal := rfl
@[simp] theorem imgUpd_sys (f : Img → Img) : (imgUpd f s).sys = s.sys := rfl
@[simp] theorem imgUpd_time (f : Img → Img) : (imgUpd f s).time = s.time := rfl
@[simp] theorem imgUpd_pd0 (f : Img → Img) : (imgUpd f s).pd0 = s.pd0 := rfl
@[simp] theorem imgUpd_pwr (f : Img → Img) : (imgUpd f s).pwr = s.pwr := rfl
@[simp] theorem imgUpd_health (f : Img → Img) : (imgUpd f s).health = s.health := rfl
@[simp] theorem imgUpd_scs (f : Img → Img) : (imgUpd f s).scs = s.scs := rfl
@[simp] theorem imgUpd_cnt (f : Img → Img) : (imgUpd f s).cnt = s.cnt := rfl
@[simp] theorem imgUpd_eth (f : Img → Img) : (imgUpd f s).eth = s.eth := rfl
@[simp] theorem imgUpd_rf (f : Img → Img) : (imgUpd f s).rf = s.rf := rfl
@[simp] theorem imgUpd_tx (f : Img → Img) : (imgUpd f s).tx = s.tx := rfl
@[simp] theorem imgUpd_chn (f : Img → Img) : (imgUpd f s).chn = s.chn := rfl
@[simp] theorem imgUpd_dem (f : Img → Img) : (imgUpd f s).dem = s.dem := rfl
@[simp] theorem imgUpd_rwd (f : Img → Img) : (imgUpd f s).rwd = s.rwd := rfl
@[simp] theorem imgUpd_dram (f : Img → Img) : (imgUpd f s).dram = s.dram := rfl
@[simp] theorem imgUpd_fe (f : Img → Img) : (imgUpd f s).fe = s.fe := rfl
@[simp] theorem imgUpd_sch (f : Img → Img) : (imgUpd f s).sch = s.sch := rfl
@[simp] theorem imgUpd_pair (f : Img → Img) : (imgUpd f s).pair = s.pair := rfl
@[simp] theorem imgUpd_sec (f : Img → Img) : (imgUpd f s).sec = s.sec := rfl
@[simp] theorem imgUpd_apc (f : Img → Img) : (imgUpd f s).apc = s.apc := rfl

/-- `imgUpd` changes only `img`. -/
theorem imgUpd_frame (f : Img → Img) : OnlyChanges [.img] s (imgUpd f s) := by
  intro x hx
  cases x <;> first | rfl | exact absurd (List.mem_singleton.2 rfl) hx

@[simp] theorem txUpd_tx (f : Tx → Tx) : (txUpd f s).tx = f s.tx := rfl
@[simp] theorem txUpd_now (f : Tx → Tx) : (txUpd f s).now = s.now := rfl
@[simp] theorem txUpd_freeCtr (f : Tx → Tx) : (txUpd f s).freeCtr = s.freeCtr := rfl
@[simp] theorem txUpd_dq (f : Tx → Tx) : (txUpd f s).dq = s.dq := rfl
@[simp] theorem txUpd_ubfen (f : Tx → Tx) : (txUpd f s).ubfen = s.ubfen := rfl
@[simp] theorem txUpd_ev (f : Tx → Tx) : (txUpd f s).ev = s.ev := rfl
@[simp] theorem txUpd_boot (f : Tx → Tx) : (txUpd f s).boot = s.boot := rfl
@[simp] theorem txUpd_cfg (f : Tx → Tx) : (txUpd f s).cfg = s.cfg := rfl
@[simp] theorem txUpd_cal (f : Tx → Tx) : (txUpd f s).cal = s.cal := rfl
@[simp] theorem txUpd_sys (f : Tx → Tx) : (txUpd f s).sys = s.sys := rfl
@[simp] theorem txUpd_time (f : Tx → Tx) : (txUpd f s).time = s.time := rfl
@[simp] theorem txUpd_pd0 (f : Tx → Tx) : (txUpd f s).pd0 = s.pd0 := rfl
@[simp] theorem txUpd_pwr (f : Tx → Tx) : (txUpd f s).pwr = s.pwr := rfl
@[simp] theorem txUpd_health (f : Tx → Tx) : (txUpd f s).health = s.health := rfl
@[simp] theorem txUpd_scs (f : Tx → Tx) : (txUpd f s).scs = s.scs := rfl
@[simp] theorem txUpd_cnt (f : Tx → Tx) : (txUpd f s).cnt = s.cnt := rfl
@[simp] theorem txUpd_eth (f : Tx → Tx) : (txUpd f s).eth = s.eth := rfl
@[simp] theorem txUpd_rf (f : Tx → Tx) : (txUpd f s).rf = s.rf := rfl
@[simp] theorem txUpd_chn (f : Tx → Tx) : (txUpd f s).chn = s.chn := rfl
@[simp] theorem txUpd_dem (f : Tx → Tx) : (txUpd f s).dem = s.dem := rfl
@[simp] theorem txUpd_rwd (f : Tx → Tx) : (txUpd f s).rwd = s.rwd := rfl
@[simp] theorem txUpd_dram (f : Tx → Tx) : (txUpd f s).dram = s.dram := rfl
@[simp] theorem txUpd_fe (f : Tx → Tx) : (txUpd f s).fe = s.fe := rfl
@[simp] theorem txUpd_sch (f : Tx → Tx) : (txUpd f s).sch = s.sch := rfl
@[simp] theorem txUpd_pair (f : Tx → Tx) : (txUpd f s).pair = s.pair := rfl
@[simp] theorem txUpd_sec (f : Tx → Tx) : (txUpd f s).sec = s.sec := rfl
@[simp] theorem txUpd_img (f : Tx → Tx) : (txUpd f s).img = s.img := rfl
@[simp] theorem txUpd_apc (f : Tx → Tx) : (txUpd f s).apc = s.apc := rfl

/-- `txUpd` changes only `tx`. -/
theorem txUpd_frame (f : Tx → Tx) : OnlyChanges [.tx] s (txUpd f s) := by
  intro x hx
  cases x <;> first | rfl | exact absurd (List.mem_singleton.2 rfl) hx

@[simp] theorem pairUpd_pair (f : Pair → Pair) : (pairUpd f s).pair = f s.pair := rfl
@[simp] theorem pairUpd_now (f : Pair → Pair) : (pairUpd f s).now = s.now := rfl
@[simp] theorem pairUpd_freeCtr (f : Pair → Pair) : (pairUpd f s).freeCtr = s.freeCtr := rfl
@[simp] theorem pairUpd_dq (f : Pair → Pair) : (pairUpd f s).dq = s.dq := rfl
@[simp] theorem pairUpd_ubfen (f : Pair → Pair) : (pairUpd f s).ubfen = s.ubfen := rfl
@[simp] theorem pairUpd_ev (f : Pair → Pair) : (pairUpd f s).ev = s.ev := rfl
@[simp] theorem pairUpd_boot (f : Pair → Pair) : (pairUpd f s).boot = s.boot := rfl
@[simp] theorem pairUpd_cfg (f : Pair → Pair) : (pairUpd f s).cfg = s.cfg := rfl
@[simp] theorem pairUpd_cal (f : Pair → Pair) : (pairUpd f s).cal = s.cal := rfl
@[simp] theorem pairUpd_sys (f : Pair → Pair) : (pairUpd f s).sys = s.sys := rfl
@[simp] theorem pairUpd_time (f : Pair → Pair) : (pairUpd f s).time = s.time := rfl
@[simp] theorem pairUpd_pd0 (f : Pair → Pair) : (pairUpd f s).pd0 = s.pd0 := rfl
@[simp] theorem pairUpd_pwr (f : Pair → Pair) : (pairUpd f s).pwr = s.pwr := rfl
@[simp] theorem pairUpd_health (f : Pair → Pair) : (pairUpd f s).health = s.health := rfl
@[simp] theorem pairUpd_scs (f : Pair → Pair) : (pairUpd f s).scs = s.scs := rfl
@[simp] theorem pairUpd_cnt (f : Pair → Pair) : (pairUpd f s).cnt = s.cnt := rfl
@[simp] theorem pairUpd_eth (f : Pair → Pair) : (pairUpd f s).eth = s.eth := rfl
@[simp] theorem pairUpd_rf (f : Pair → Pair) : (pairUpd f s).rf = s.rf := rfl
@[simp] theorem pairUpd_tx (f : Pair → Pair) : (pairUpd f s).tx = s.tx := rfl
@[simp] theorem pairUpd_chn (f : Pair → Pair) : (pairUpd f s).chn = s.chn := rfl
@[simp] theorem pairUpd_dem (f : Pair → Pair) : (pairUpd f s).dem = s.dem := rfl
@[simp] theorem pairUpd_rwd (f : Pair → Pair) : (pairUpd f s).rwd = s.rwd := rfl
@[simp] theorem pairUpd_dram (f : Pair → Pair) : (pairUpd f s).dram = s.dram := rfl
@[simp] theorem pairUpd_fe (f : Pair → Pair) : (pairUpd f s).fe = s.fe := rfl
@[simp] theorem pairUpd_sch (f : Pair → Pair) : (pairUpd f s).sch = s.sch := rfl
@[simp] theorem pairUpd_sec (f : Pair → Pair) : (pairUpd f s).sec = s.sec := rfl
@[simp] theorem pairUpd_img (f : Pair → Pair) : (pairUpd f s).img = s.img := rfl
@[simp] theorem pairUpd_apc (f : Pair → Pair) : (pairUpd f s).apc = s.apc := rfl

/-- `pairUpd` changes only `pair`. -/
theorem pairUpd_frame (f : Pair → Pair) : OnlyChanges [.pair] s (pairUpd f s) := by
  intro x hx
  cases x <;> first | rfl | exact absurd (List.mem_singleton.2 rfl) hx

@[simp] theorem demUpd_dem (f : Dem → Dem) : (demUpd f s).dem = f s.dem := rfl
@[simp] theorem demUpd_now (f : Dem → Dem) : (demUpd f s).now = s.now := rfl
@[simp] theorem demUpd_freeCtr (f : Dem → Dem) : (demUpd f s).freeCtr = s.freeCtr := rfl
@[simp] theorem demUpd_dq (f : Dem → Dem) : (demUpd f s).dq = s.dq := rfl
@[simp] theorem demUpd_ubfen (f : Dem → Dem) : (demUpd f s).ubfen = s.ubfen := rfl
@[simp] theorem demUpd_ev (f : Dem → Dem) : (demUpd f s).ev = s.ev := rfl
@[simp] theorem demUpd_boot (f : Dem → Dem) : (demUpd f s).boot = s.boot := rfl
@[simp] theorem demUpd_cfg (f : Dem → Dem) : (demUpd f s).cfg = s.cfg := rfl
@[simp] theorem demUpd_cal (f : Dem → Dem) : (demUpd f s).cal = s.cal := rfl
@[simp] theorem demUpd_sys (f : Dem → Dem) : (demUpd f s).sys = s.sys := rfl
@[simp] theorem demUpd_time (f : Dem → Dem) : (demUpd f s).time = s.time := rfl
@[simp] theorem demUpd_pd0 (f : Dem → Dem) : (demUpd f s).pd0 = s.pd0 := rfl
@[simp] theorem demUpd_pwr (f : Dem → Dem) : (demUpd f s).pwr = s.pwr := rfl
@[simp] theorem demUpd_health (f : Dem → Dem) : (demUpd f s).health = s.health := rfl
@[simp] theorem demUpd_scs (f : Dem → Dem) : (demUpd f s).scs = s.scs := rfl
@[simp] theorem demUpd_cnt (f : Dem → Dem) : (demUpd f s).cnt = s.cnt := rfl
@[simp] theorem demUpd_eth (f : Dem → Dem) : (demUpd f s).eth = s.eth := rfl
@[simp] theorem demUpd_rf (f : Dem → Dem) : (demUpd f s).rf = s.rf := rfl
@[simp] theorem demUpd_tx (f : Dem → Dem) : (demUpd f s).tx = s.tx := rfl
@[simp] theorem demUpd_chn (f : Dem → Dem) : (demUpd f s).chn = s.chn := rfl
@[simp] theorem demUpd_rwd (f : Dem → Dem) : (demUpd f s).rwd = s.rwd := rfl
@[simp] theorem demUpd_dram (f : Dem → Dem) : (demUpd f s).dram = s.dram := rfl
@[simp] theorem demUpd_fe (f : Dem → Dem) : (demUpd f s).fe = s.fe := rfl
@[simp] theorem demUpd_sch (f : Dem → Dem) : (demUpd f s).sch = s.sch := rfl
@[simp] theorem demUpd_pair (f : Dem → Dem) : (demUpd f s).pair = s.pair := rfl
@[simp] theorem demUpd_sec (f : Dem → Dem) : (demUpd f s).sec = s.sec := rfl
@[simp] theorem demUpd_img (f : Dem → Dem) : (demUpd f s).img = s.img := rfl
@[simp] theorem demUpd_apc (f : Dem → Dem) : (demUpd f s).apc = s.apc := rfl

/-- `demUpd` changes only `dem`. -/
theorem demUpd_frame (f : Dem → Dem) : OnlyChanges [.dem] s (demUpd f s) := by
  intro x hx
  cases x <;> first | rfl | exact absurd (List.mem_singleton.2 rfl) hx

@[simp] theorem chanUpd_now (ch : Nat) (f : Chan → Chan) : (chanUpd ch f s).now = s.now := rfl
@[simp] theorem chanUpd_freeCtr (ch : Nat) (f : Chan → Chan) : (chanUpd ch f s).freeCtr = s.freeCtr := rfl
@[simp] theorem chanUpd_dq (ch : Nat) (f : Chan → Chan) : (chanUpd ch f s).dq = s.dq := rfl
@[simp] theorem chanUpd_ubfen (ch : Nat) (f : Chan → Chan) : (chanUpd ch f s).ubfen = s.ubfen := rfl
@[simp] theorem chanUpd_ev (ch : Nat) (f : Chan → Chan) : (chanUpd ch f s).ev = s.ev := rfl
@[simp] theorem chanUpd_boot (ch : Nat) (f : Chan → Chan) : (chanUpd ch f s).boot = s.boot := rfl
@[simp] theorem chanUpd_cfg (ch : Nat) (f : Chan → Chan) : (chanUpd ch f s).cfg = s.cfg := rfl
@[simp] theorem chanUpd_cal (ch : Nat) (f : Chan → Chan) : (chanUpd ch f s).cal = s.cal := rfl
@[simp] theorem chanUpd_sys (ch : Nat) (f : Chan → Chan) : (chanUpd ch f s).sys = s.sys := rfl
@[simp] theorem chanUpd_time (ch : Nat) (f : Chan → Chan) : (chanUpd ch f s).time = s.time := rfl
@[simp] theorem chanUpd_pd0 (ch : Nat) (f : Chan → Chan) : (chanUpd ch f s).pd0 = s.pd0 := rfl
@[simp] theorem chanUpd_pwr (ch : Nat) (f : Chan → Chan) : (chanUpd ch f s).pwr = s.pwr := rfl
@[simp] theorem chanUpd_health (ch : Nat) (f : Chan → Chan) : (chanUpd ch f s).health = s.health := rfl
@[simp] theorem chanUpd_scs (ch : Nat) (f : Chan → Chan) : (chanUpd ch f s).scs = s.scs := rfl
@[simp] theorem chanUpd_cnt (ch : Nat) (f : Chan → Chan) : (chanUpd ch f s).cnt = s.cnt := rfl
@[simp] theorem chanUpd_eth (ch : Nat) (f : Chan → Chan) : (chanUpd ch f s).eth = s.eth := rfl
@[simp] theorem chanUpd_rf (ch : Nat) (f : Chan → Chan) : (chanUpd ch f s).rf = s.rf := rfl
@[simp] theorem chanUpd_tx (ch : Nat) (f : Chan → Chan) : (chanUpd ch f s).tx = s.tx := rfl
@[simp] theorem chanUpd_dem (ch : Nat) (f : Chan → Chan) : (chanUpd ch f s).dem = s.dem := rfl
@[simp] theorem chanUpd_rwd (ch : Nat) (f : Chan → Chan) : (chanUpd ch f s).rwd = s.rwd := rfl
@[simp] theorem chanUpd_dram (ch : Nat) (f : Chan → Chan) : (chanUpd ch f s).dram = s.dram := rfl
@[simp] theorem chanUpd_fe (ch : Nat) (f : Chan → Chan) : (chanUpd ch f s).fe = s.fe := rfl
@[simp] theorem chanUpd_sch (ch : Nat) (f : Chan → Chan) : (chanUpd ch f s).sch = s.sch := rfl
@[simp] theorem chanUpd_pair (ch : Nat) (f : Chan → Chan) : (chanUpd ch f s).pair = s.pair := rfl
@[simp] theorem chanUpd_sec (ch : Nat) (f : Chan → Chan) : (chanUpd ch f s).sec = s.sec := rfl
@[simp] theorem chanUpd_img (ch : Nat) (f : Chan → Chan) : (chanUpd ch f s).img = s.img := rfl
@[simp] theorem chanUpd_apc (ch : Nat) (f : Chan → Chan) : (chanUpd ch f s).apc = s.apc := rfl

/-- `chanUpd` changes only `chn`. -/
theorem chanUpd_frame (ch : Nat) (f : Chan → Chan) : OnlyChanges [.chn] s (chanUpd ch f s) := by
  intro x hx
  cases x <;> first | rfl | exact absurd (List.mem_singleton.2 rfl) hx

@[simp] theorem feUpd_fe (f : Fe → Fe) : (feUpd f s).fe = f s.fe := rfl
@[simp] theorem feUpd_now (f : Fe → Fe) : (feUpd f s).now = s.now := rfl
@[simp] theorem feUpd_freeCtr (f : Fe → Fe) : (feUpd f s).freeCtr = s.freeCtr := rfl
@[simp] theorem feUpd_dq (f : Fe → Fe) : (feUpd f s).dq = s.dq := rfl
@[simp] theorem feUpd_ubfen (f : Fe → Fe) : (feUpd f s).ubfen = s.ubfen := rfl
@[simp] theorem feUpd_ev (f : Fe → Fe) : (feUpd f s).ev = s.ev := rfl
@[simp] theorem feUpd_boot (f : Fe → Fe) : (feUpd f s).boot = s.boot := rfl
@[simp] theorem feUpd_cfg (f : Fe → Fe) : (feUpd f s).cfg = s.cfg := rfl
@[simp] theorem feUpd_cal (f : Fe → Fe) : (feUpd f s).cal = s.cal := rfl
@[simp] theorem feUpd_sys (f : Fe → Fe) : (feUpd f s).sys = s.sys := rfl
@[simp] theorem feUpd_time (f : Fe → Fe) : (feUpd f s).time = s.time := rfl
@[simp] theorem feUpd_pd0 (f : Fe → Fe) : (feUpd f s).pd0 = s.pd0 := rfl
@[simp] theorem feUpd_pwr (f : Fe → Fe) : (feUpd f s).pwr = s.pwr := rfl
@[simp] theorem feUpd_health (f : Fe → Fe) : (feUpd f s).health = s.health := rfl
@[simp] theorem feUpd_scs (f : Fe → Fe) : (feUpd f s).scs = s.scs := rfl
@[simp] theorem feUpd_cnt (f : Fe → Fe) : (feUpd f s).cnt = s.cnt := rfl
@[simp] theorem feUpd_eth (f : Fe → Fe) : (feUpd f s).eth = s.eth := rfl
@[simp] theorem feUpd_rf (f : Fe → Fe) : (feUpd f s).rf = s.rf := rfl
@[simp] theorem feUpd_tx (f : Fe → Fe) : (feUpd f s).tx = s.tx := rfl
@[simp] theorem feUpd_chn (f : Fe → Fe) : (feUpd f s).chn = s.chn := rfl
@[simp] theorem feUpd_dem (f : Fe → Fe) : (feUpd f s).dem = s.dem := rfl
@[simp] theorem feUpd_rwd (f : Fe → Fe) : (feUpd f s).rwd = s.rwd := rfl
@[simp] theorem feUpd_dram (f : Fe → Fe) : (feUpd f s).dram = s.dram := rfl
@[simp] theorem feUpd_sch (f : Fe → Fe) : (feUpd f s).sch = s.sch := rfl
@[simp] theorem feUpd_pair (f : Fe → Fe) : (feUpd f s).pair = s.pair := rfl
@[simp] theorem feUpd_sec (f : Fe → Fe) : (feUpd f s).sec = s.sec := rfl
@[simp] theorem feUpd_img (f : Fe → Fe) : (feUpd f s).img = s.img := rfl
@[simp] theorem feUpd_apc (f : Fe → Fe) : (feUpd f s).apc = s.apc := rfl

/-- `feUpd` changes only `fe`. -/
theorem feUpd_frame (f : Fe → Fe) : OnlyChanges [.fe] s (feUpd f s) := by
  intro x hx
  cases x <;> first | rfl | exact absurd (List.mem_singleton.2 rfl) hx

@[simp] theorem scsUpd_scs (f : Scs → Scs) : (scsUpd f s).scs = f s.scs := rfl
@[simp] theorem scsUpd_now (f : Scs → Scs) : (scsUpd f s).now = s.now := rfl
@[simp] theorem scsUpd_freeCtr (f : Scs → Scs) : (scsUpd f s).freeCtr = s.freeCtr := rfl
@[simp] theorem scsUpd_dq (f : Scs → Scs) : (scsUpd f s).dq = s.dq := rfl
@[simp] theorem scsUpd_ubfen (f : Scs → Scs) : (scsUpd f s).ubfen = s.ubfen := rfl
@[simp] theorem scsUpd_ev (f : Scs → Scs) : (scsUpd f s).ev = s.ev := rfl
@[simp] theorem scsUpd_boot (f : Scs → Scs) : (scsUpd f s).boot = s.boot := rfl
@[simp] theorem scsUpd_cfg (f : Scs → Scs) : (scsUpd f s).cfg = s.cfg := rfl
@[simp] theorem scsUpd_cal (f : Scs → Scs) : (scsUpd f s).cal = s.cal := rfl
@[simp] theorem scsUpd_sys (f : Scs → Scs) : (scsUpd f s).sys = s.sys := rfl
@[simp] theorem scsUpd_time (f : Scs → Scs) : (scsUpd f s).time = s.time := rfl
@[simp] theorem scsUpd_pd0 (f : Scs → Scs) : (scsUpd f s).pd0 = s.pd0 := rfl
@[simp] theorem scsUpd_pwr (f : Scs → Scs) : (scsUpd f s).pwr = s.pwr := rfl
@[simp] theorem scsUpd_health (f : Scs → Scs) : (scsUpd f s).health = s.health := rfl
@[simp] theorem scsUpd_cnt (f : Scs → Scs) : (scsUpd f s).cnt = s.cnt := rfl
@[simp] theorem scsUpd_eth (f : Scs → Scs) : (scsUpd f s).eth = s.eth := rfl
@[simp] theorem scsUpd_rf (f : Scs → Scs) : (scsUpd f s).rf = s.rf := rfl
@[simp] theorem scsUpd_tx (f : Scs → Scs) : (scsUpd f s).tx = s.tx := rfl
@[simp] theorem scsUpd_chn (f : Scs → Scs) : (scsUpd f s).chn = s.chn := rfl
@[simp] theorem scsUpd_dem (f : Scs → Scs) : (scsUpd f s).dem = s.dem := rfl
@[simp] theorem scsUpd_rwd (f : Scs → Scs) : (scsUpd f s).rwd = s.rwd := rfl
@[simp] theorem scsUpd_dram (f : Scs → Scs) : (scsUpd f s).dram = s.dram := rfl
@[simp] theorem scsUpd_fe (f : Scs → Scs) : (scsUpd f s).fe = s.fe := rfl
@[simp] theorem scsUpd_sch (f : Scs → Scs) : (scsUpd f s).sch = s.sch := rfl
@[simp] theorem scsUpd_pair (f : Scs → Scs) : (scsUpd f s).pair = s.pair := rfl
@[simp] theorem scsUpd_sec (f : Scs → Scs) : (scsUpd f s).sec = s.sec := rfl
@[simp] theorem scsUpd_img (f : Scs → Scs) : (scsUpd f s).img = s.img := rfl
@[simp] theorem scsUpd_apc (f : Scs → Scs) : (scsUpd f s).apc = s.apc := rfl

/-- `scsUpd` changes only `scs`. -/
theorem scsUpd_frame (f : Scs → Scs) : OnlyChanges [.scs] s (scsUpd f s) := by
  intro x hx
  cases x <;> first | rfl | exact absurd (List.mem_singleton.2 rfl) hx

@[simp] theorem bootUpd_boot (f : Boot → Boot) : (bootUpd f s).boot = f s.boot := rfl
@[simp] theorem bootUpd_now (f : Boot → Boot) : (bootUpd f s).now = s.now := rfl
@[simp] theorem bootUpd_freeCtr (f : Boot → Boot) : (bootUpd f s).freeCtr = s.freeCtr := rfl
@[simp] theorem bootUpd_dq (f : Boot → Boot) : (bootUpd f s).dq = s.dq := rfl
@[simp] theorem bootUpd_ubfen (f : Boot → Boot) : (bootUpd f s).ubfen = s.ubfen := rfl
@[simp] theorem bootUpd_ev (f : Boot → Boot) : (bootUpd f s).ev = s.ev := rfl
@[simp] theorem bootUpd_cfg (f : Boot → Boot) : (bootUpd f s).cfg = s.cfg := rfl
@[simp] theorem bootUpd_cal (f : Boot → Boot) : (bootUpd f s).cal = s.cal := rfl
@[simp] theorem bootUpd_sys (f : Boot → Boot) : (bootUpd f s).sys = s.sys := rfl
@[simp] theorem bootUpd_time (f : Boot → Boot) : (bootUpd f s).time = s.time := rfl
@[simp] theorem bootUpd_pd0 (f : Boot → Boot) : (bootUpd f s).pd0 = s.pd0 := rfl
@[simp] theorem bootUpd_pwr (f : Boot → Boot) : (bootUpd f s).pwr = s.pwr := rfl
@[simp] theorem bootUpd_health (f : Boot → Boot) : (bootUpd f s).health = s.health := rfl
@[simp] theorem bootUpd_scs (f : Boot → Boot) : (bootUpd f s).scs = s.scs := rfl
@[simp] theorem bootUpd_cnt (f : Boot → Boot) : (bootUpd f s).cnt = s.cnt := rfl
@[simp] theorem bootUpd_eth (f : Boot → Boot) : (bootUpd f s).eth = s.eth := rfl
@[simp] theorem bootUpd_rf (f : Boot → Boot) : (bootUpd f s).rf = s.rf := rfl
@[simp] theorem bootUpd_tx (f : Boot → Boot) : (bootUpd f s).tx = s.tx := rfl
@[simp] theorem bootUpd_chn (f : Boot → Boot) : (bootUpd f s).chn = s.chn := rfl
@[simp] theorem bootUpd_dem (f : Boot → Boot) : (bootUpd f s).dem = s.dem := rfl
@[simp] theorem bootUpd_rwd (f : Boot → Boot) : (bootUpd f s).rwd = s.rwd := rfl
@[simp] theorem bootUpd_dram (f : Boot → Boot) : (bootUpd f s).dram = s.dram := rfl
@[simp] theorem bootUpd_fe (f : Boot → Boot) : (bootUpd f s).fe = s.fe := rfl
@[simp] theorem bootUpd_sch (f : Boot → Boot) : (bootUpd f s).sch = s.sch := rfl
@[simp] theorem bootUpd_pair (f : Boot → Boot) : (bootUpd f s).pair = s.pair := rfl
@[simp] theorem bootUpd_sec (f : Boot → Boot) : (bootUpd f s).sec = s.sec := rfl
@[simp] theorem bootUpd_img (f : Boot → Boot) : (bootUpd f s).img = s.img := rfl
@[simp] theorem bootUpd_apc (f : Boot → Boot) : (bootUpd f s).apc = s.apc := rfl

/-- `bootUpd` changes only `boot`. -/
theorem bootUpd_frame (f : Boot → Boot) : OnlyChanges [.boot] s (bootUpd f s) := by
  intro x hx
  cases x <;> first | rfl | exact absurd (List.mem_singleton.2 rfl) hx

@[simp] theorem pwrUpd_pwr (f : Pwr → Pwr) : (pwrUpd f s).pwr = f s.pwr := rfl
@[simp] theorem pwrUpd_now (f : Pwr → Pwr) : (pwrUpd f s).now = s.now := rfl
@[simp] theorem pwrUpd_freeCtr (f : Pwr → Pwr) : (pwrUpd f s).freeCtr = s.freeCtr := rfl
@[simp] theorem pwrUpd_dq (f : Pwr → Pwr) : (pwrUpd f s).dq = s.dq := rfl
@[simp] theorem pwrUpd_ubfen (f : Pwr → Pwr) : (pwrUpd f s).ubfen = s.ubfen := rfl
@[simp] theorem pwrUpd_ev (f : Pwr → Pwr) : (pwrUpd f s).ev = s.ev := rfl
@[simp] theorem pwrUpd_boot (f : Pwr → Pwr) : (pwrUpd f s).boot = s.boot := rfl
@[simp] theorem pwrUpd_cfg (f : Pwr → Pwr) : (pwrUpd f s).cfg = s.cfg := rfl
@[simp] theorem pwrUpd_cal (f : Pwr → Pwr) : (pwrUpd f s).cal = s.cal := rfl
@[simp] theorem pwrUpd_sys (f : Pwr → Pwr) : (pwrUpd f s).sys = s.sys := rfl
@[simp] theorem pwrUpd_time (f : Pwr → Pwr) : (pwrUpd f s).time = s.time := rfl
@[simp] theorem pwrUpd_pd0 (f : Pwr → Pwr) : (pwrUpd f s).pd0 = s.pd0 := rfl
@[simp] theorem pwrUpd_health (f : Pwr → Pwr) : (pwrUpd f s).health = s.health := rfl
@[simp] theorem pwrUpd_scs (f : Pwr → Pwr) : (pwrUpd f s).scs = s.scs := rfl
@[simp] theorem pwrUpd_cnt (f : Pwr → Pwr) : (pwrUpd f s).cnt = s.cnt := rfl
@[simp] theorem pwrUpd_eth (f : Pwr → Pwr) : (pwrUpd f s).eth = s.eth := rfl
@[simp] theorem pwrUpd_rf (f : Pwr → Pwr) : (pwrUpd f s).rf = s.rf := rfl
@[simp] theorem pwrUpd_tx (f : Pwr → Pwr) : (pwrUpd f s).tx = s.tx := rfl
@[simp] theorem pwrUpd_chn (f : Pwr → Pwr) : (pwrUpd f s).chn = s.chn := rfl
@[simp] theorem pwrUpd_dem (f : Pwr → Pwr) : (pwrUpd f s).dem = s.dem := rfl
@[simp] theorem pwrUpd_rwd (f : Pwr → Pwr) : (pwrUpd f s).rwd = s.rwd := rfl
@[simp] theorem pwrUpd_dram (f : Pwr → Pwr) : (pwrUpd f s).dram = s.dram := rfl
@[simp] theorem pwrUpd_fe (f : Pwr → Pwr) : (pwrUpd f s).fe = s.fe := rfl
@[simp] theorem pwrUpd_sch (f : Pwr → Pwr) : (pwrUpd f s).sch = s.sch := rfl
@[simp] theorem pwrUpd_pair (f : Pwr → Pwr) : (pwrUpd f s).pair = s.pair := rfl
@[simp] theorem pwrUpd_sec (f : Pwr → Pwr) : (pwrUpd f s).sec = s.sec := rfl
@[simp] theorem pwrUpd_img (f : Pwr → Pwr) : (pwrUpd f s).img = s.img := rfl
@[simp] theorem pwrUpd_apc (f : Pwr → Pwr) : (pwrUpd f s).apc = s.apc := rfl

/-- `pwrUpd` changes only `pwr`. -/
theorem pwrUpd_frame (f : Pwr → Pwr) : OnlyChanges [.pwr] s (pwrUpd f s) := by
  intro x hx
  cases x <;> first | rfl | exact absurd (List.mem_singleton.2 rfl) hx

@[simp] theorem pd0Upd_pd0 (f : Pd0 → Pd0) : (pd0Upd f s).pd0 = f s.pd0 := rfl
@[simp] theorem pd0Upd_now (f : Pd0 → Pd0) : (pd0Upd f s).now = s.now := rfl
@[simp] theorem pd0Upd_freeCtr (f : Pd0 → Pd0) : (pd0Upd f s).freeCtr = s.freeCtr := rfl
@[simp] theorem pd0Upd_dq (f : Pd0 → Pd0) : (pd0Upd f s).dq = s.dq := rfl
@[simp] theorem pd0Upd_ubfen (f : Pd0 → Pd0) : (pd0Upd f s).ubfen = s.ubfen := rfl
@[simp] theorem pd0Upd_ev (f : Pd0 → Pd0) : (pd0Upd f s).ev = s.ev := rfl
@[simp] theorem pd0Upd_boot (f : Pd0 → Pd0) : (pd0Upd f s).boot = s.boot := rfl
@[simp] theorem pd0Upd_cfg (f : Pd0 → Pd0) : (pd0Upd f s).cfg = s.cfg := rfl
@[simp] theorem pd0Upd_cal (f : Pd0 → Pd0) : (pd0Upd f s).cal = s.cal := rfl
@[simp] theorem pd0Upd_sys (f : Pd0 → Pd0) : (pd0Upd f s).sys = s.sys := rfl
@[simp] theorem pd0Upd_time (f : Pd0 → Pd0) : (pd0Upd f s).time = s.time := rfl
@[simp] theorem pd0Upd_pwr (f : Pd0 → Pd0) : (pd0Upd f s).pwr = s.pwr := rfl
@[simp] theorem pd0Upd_health (f : Pd0 → Pd0) : (pd0Upd f s).health = s.health := rfl
@[simp] theorem pd0Upd_scs (f : Pd0 → Pd0) : (pd0Upd f s).scs = s.scs := rfl
@[simp] theorem pd0Upd_cnt (f : Pd0 → Pd0) : (pd0Upd f s).cnt = s.cnt := rfl
@[simp] theorem pd0Upd_eth (f : Pd0 → Pd0) : (pd0Upd f s).eth = s.eth := rfl
@[simp] theorem pd0Upd_rf (f : Pd0 → Pd0) : (pd0Upd f s).rf = s.rf := rfl
@[simp] theorem pd0Upd_tx (f : Pd0 → Pd0) : (pd0Upd f s).tx = s.tx := rfl
@[simp] theorem pd0Upd_chn (f : Pd0 → Pd0) : (pd0Upd f s).chn = s.chn := rfl
@[simp] theorem pd0Upd_dem (f : Pd0 → Pd0) : (pd0Upd f s).dem = s.dem := rfl
@[simp] theorem pd0Upd_rwd (f : Pd0 → Pd0) : (pd0Upd f s).rwd = s.rwd := rfl
@[simp] theorem pd0Upd_dram (f : Pd0 → Pd0) : (pd0Upd f s).dram = s.dram := rfl
@[simp] theorem pd0Upd_fe (f : Pd0 → Pd0) : (pd0Upd f s).fe = s.fe := rfl
@[simp] theorem pd0Upd_sch (f : Pd0 → Pd0) : (pd0Upd f s).sch = s.sch := rfl
@[simp] theorem pd0Upd_pair (f : Pd0 → Pd0) : (pd0Upd f s).pair = s.pair := rfl
@[simp] theorem pd0Upd_sec (f : Pd0 → Pd0) : (pd0Upd f s).sec = s.sec := rfl
@[simp] theorem pd0Upd_img (f : Pd0 → Pd0) : (pd0Upd f s).img = s.img := rfl
@[simp] theorem pd0Upd_apc (f : Pd0 → Pd0) : (pd0Upd f s).apc = s.apc := rfl

/-- `pd0Upd` changes only `pd0`. -/
theorem pd0Upd_frame (f : Pd0 → Pd0) : OnlyChanges [.pd0] s (pd0Upd f s) := by
  intro x hx
  cases x <;> first | rfl | exact absurd (List.mem_singleton.2 rfl) hx

@[simp] theorem sysUpd_sys (f : Sys → Sys) : (sysUpd f s).sys = f s.sys := rfl
@[simp] theorem sysUpd_now (f : Sys → Sys) : (sysUpd f s).now = s.now := rfl
@[simp] theorem sysUpd_freeCtr (f : Sys → Sys) : (sysUpd f s).freeCtr = s.freeCtr := rfl
@[simp] theorem sysUpd_dq (f : Sys → Sys) : (sysUpd f s).dq = s.dq := rfl
@[simp] theorem sysUpd_ubfen (f : Sys → Sys) : (sysUpd f s).ubfen = s.ubfen := rfl
@[simp] theorem sysUpd_ev (f : Sys → Sys) : (sysUpd f s).ev = s.ev := rfl
@[simp] theorem sysUpd_boot (f : Sys → Sys) : (sysUpd f s).boot = s.boot := rfl
@[simp] theorem sysUpd_cfg (f : Sys → Sys) : (sysUpd f s).cfg = s.cfg := rfl
@[simp] theorem sysUpd_cal (f : Sys → Sys) : (sysUpd f s).cal = s.cal := rfl
@[simp] theorem sysUpd_time (f : Sys → Sys) : (sysUpd f s).time = s.time := rfl
@[simp] theorem sysUpd_pd0 (f : Sys → Sys) : (sysUpd f s).pd0 = s.pd0 := rfl
@[simp] theorem sysUpd_pwr (f : Sys → Sys) : (sysUpd f s).pwr = s.pwr := rfl
@[simp] theorem sysUpd_health (f : Sys → Sys) : (sysUpd f s).health = s.health := rfl
@[simp] theorem sysUpd_scs (f : Sys → Sys) : (sysUpd f s).scs = s.scs := rfl
@[simp] theorem sysUpd_cnt (f : Sys → Sys) : (sysUpd f s).cnt = s.cnt := rfl
@[simp] theorem sysUpd_eth (f : Sys → Sys) : (sysUpd f s).eth = s.eth := rfl
@[simp] theorem sysUpd_rf (f : Sys → Sys) : (sysUpd f s).rf = s.rf := rfl
@[simp] theorem sysUpd_tx (f : Sys → Sys) : (sysUpd f s).tx = s.tx := rfl
@[simp] theorem sysUpd_chn (f : Sys → Sys) : (sysUpd f s).chn = s.chn := rfl
@[simp] theorem sysUpd_dem (f : Sys → Sys) : (sysUpd f s).dem = s.dem := rfl
@[simp] theorem sysUpd_rwd (f : Sys → Sys) : (sysUpd f s).rwd = s.rwd := rfl
@[simp] theorem sysUpd_dram (f : Sys → Sys) : (sysUpd f s).dram = s.dram := rfl
@[simp] theorem sysUpd_fe (f : Sys → Sys) : (sysUpd f s).fe = s.fe := rfl
@[simp] theorem sysUpd_sch (f : Sys → Sys) : (sysUpd f s).sch = s.sch := rfl
@[simp] theorem sysUpd_pair (f : Sys → Sys) : (sysUpd f s).pair = s.pair := rfl
@[simp] theorem sysUpd_sec (f : Sys → Sys) : (sysUpd f s).sec = s.sec := rfl
@[simp] theorem sysUpd_img (f : Sys → Sys) : (sysUpd f s).img = s.img := rfl
@[simp] theorem sysUpd_apc (f : Sys → Sys) : (sysUpd f s).apc = s.apc := rfl

/-- `sysUpd` changes only `sys`. -/
theorem sysUpd_frame (f : Sys → Sys) : OnlyChanges [.sys] s (sysUpd f s) := by
  intro x hx
  cases x <;> first | rfl | exact absurd (List.mem_singleton.2 rfl) hx

@[simp] theorem rwdUpd_rwd (f : Rwd → Rwd) : (rwdUpd f s).rwd = f s.rwd := rfl
@[simp] theorem rwdUpd_now (f : Rwd → Rwd) : (rwdUpd f s).now = s.now := rfl
@[simp] theorem rwdUpd_freeCtr (f : Rwd → Rwd) : (rwdUpd f s).freeCtr = s.freeCtr := rfl
@[simp] theorem rwdUpd_dq (f : Rwd → Rwd) : (rwdUpd f s).dq = s.dq := rfl
@[simp] theorem rwdUpd_ubfen (f : Rwd → Rwd) : (rwdUpd f s).ubfen = s.ubfen := rfl
@[simp] theorem rwdUpd_ev (f : Rwd → Rwd) : (rwdUpd f s).ev = s.ev := rfl
@[simp] theorem rwdUpd_boot (f : Rwd → Rwd) : (rwdUpd f s).boot = s.boot := rfl
@[simp] theorem rwdUpd_cfg (f : Rwd → Rwd) : (rwdUpd f s).cfg = s.cfg := rfl
@[simp] theorem rwdUpd_cal (f : Rwd → Rwd) : (rwdUpd f s).cal = s.cal := rfl
@[simp] theorem rwdUpd_sys (f : Rwd → Rwd) : (rwdUpd f s).sys = s.sys := rfl
@[simp] theorem rwdUpd_time (f : Rwd → Rwd) : (rwdUpd f s).time = s.time := rfl
@[simp] theorem rwdUpd_pd0 (f : Rwd → Rwd) : (rwdUpd f s).pd0 = s.pd0 := rfl
@[simp] theorem rwdUpd_pwr (f : Rwd → Rwd) : (rwdUpd f s).pwr = s.pwr := rfl
@[simp] theorem rwdUpd_health (f : Rwd → Rwd) : (rwdUpd f s).health = s.health := rfl
@[simp] theorem rwdUpd_scs (f : Rwd → Rwd) : (rwdUpd f s).scs = s.scs := rfl
@[simp] theorem rwdUpd_cnt (f : Rwd → Rwd) : (rwdUpd f s).cnt = s.cnt := rfl
@[simp] theorem rwdUpd_eth (f : Rwd → Rwd) : (rwdUpd f s).eth = s.eth := rfl
@[simp] theorem rwdUpd_rf (f : Rwd → Rwd) : (rwdUpd f s).rf = s.rf := rfl
@[simp] theorem rwdUpd_tx (f : Rwd → Rwd) : (rwdUpd f s).tx = s.tx := rfl
@[simp] theorem rwdUpd_chn (f : Rwd → Rwd) : (rwdUpd f s).chn = s.chn := rfl
@[simp] theorem rwdUpd_dem (f : Rwd → Rwd) : (rwdUpd f s).dem = s.dem := rfl
@[simp] theorem rwdUpd_dram (f : Rwd → Rwd) : (rwdUpd f s).dram = s.dram := rfl
@[simp] theorem rwdUpd_fe (f : Rwd → Rwd) : (rwdUpd f s).fe = s.fe := rfl
@[simp] theorem rwdUpd_sch (f : Rwd → Rwd) : (rwdUpd f s).sch = s.sch := rfl
@[simp] theorem rwdUpd_pair (f : Rwd → Rwd) : (rwdUpd f s).pair = s.pair := rfl
@[simp] theorem rwdUpd_sec (f : Rwd → Rwd) : (rwdUpd f s).sec = s.sec := rfl
@[simp] theorem rwdUpd_img (f : Rwd → Rwd) : (rwdUpd f s).img = s.img := rfl
@[simp] theorem rwdUpd_apc (f : Rwd → Rwd) : (rwdUpd f s).apc = s.apc := rfl

/-- `rwdUpd` changes only `rwd`. -/
theorem rwdUpd_frame (f : Rwd → Rwd) : OnlyChanges [.rwd] s (rwdUpd f s) := by
  intro x hx
  cases x <;> first | rfl | exact absurd (List.mem_singleton.2 rfl) hx

@[simp] theorem schUpd_sch (f : Sch → Sch) : (schUpd f s).sch = f s.sch := rfl
@[simp] theorem schUpd_now (f : Sch → Sch) : (schUpd f s).now = s.now := rfl
@[simp] theorem schUpd_freeCtr (f : Sch → Sch) : (schUpd f s).freeCtr = s.freeCtr := rfl
@[simp] theorem schUpd_dq (f : Sch → Sch) : (schUpd f s).dq = s.dq := rfl
@[simp] theorem schUpd_ubfen (f : Sch → Sch) : (schUpd f s).ubfen = s.ubfen := rfl
@[simp] theorem schUpd_ev (f : Sch → Sch) : (schUpd f s).ev = s.ev := rfl
@[simp] theorem schUpd_boot (f : Sch → Sch) : (schUpd f s).boot = s.boot := rfl
@[simp] theorem schUpd_cfg (f : Sch → Sch) : (schUpd f s).cfg = s.cfg := rfl
@[simp] theorem schUpd_cal (f : Sch → Sch) : (schUpd f s).cal = s.cal := rfl
@[simp] theorem schUpd_sys (f : Sch → Sch) : (schUpd f s).sys = s.sys := rfl
@[simp] theorem schUpd_time (f : Sch → Sch) : (schUpd f s).time = s.time := rfl
@[simp] theorem schUpd_pd0 (f : Sch → Sch) : (schUpd f s).pd0 = s.pd0 := rfl
@[simp] theorem schUpd_pwr (f : Sch → Sch) : (schUpd f s).pwr = s.pwr := rfl
@[simp] theorem schUpd_health (f : Sch → Sch) : (schUpd f s).health = s.health := rfl
@[simp] theorem schUpd_scs (f : Sch → Sch) : (schUpd f s).scs = s.scs := rfl
@[simp] theorem schUpd_cnt (f : Sch → Sch) : (schUpd f s).cnt = s.cnt := rfl
@[simp] theorem schUpd_eth (f : Sch → Sch) : (schUpd f s).eth = s.eth := rfl
@[simp] theorem schUpd_rf (f : Sch → Sch) : (schUpd f s).rf = s.rf := rfl
@[simp] theorem schUpd_tx (f : Sch → Sch) : (schUpd f s).tx = s.tx := rfl
@[simp] theorem schUpd_chn (f : Sch → Sch) : (schUpd f s).chn = s.chn := rfl
@[simp] theorem schUpd_dem (f : Sch → Sch) : (schUpd f s).dem = s.dem := rfl
@[simp] theorem schUpd_rwd (f : Sch → Sch) : (schUpd f s).rwd = s.rwd := rfl
@[simp] theorem schUpd_dram (f : Sch → Sch) : (schUpd f s).dram = s.dram := rfl
@[simp] theorem schUpd_fe (f : Sch → Sch) : (schUpd f s).fe = s.fe := rfl
@[simp] theorem schUpd_pair (f : Sch → Sch) : (schUpd f s).pair = s.pair := rfl
@[simp] theorem schUpd_sec (f : Sch → Sch) : (schUpd f s).sec = s.sec := rfl
@[simp] theorem schUpd_img (f : Sch → Sch) : (schUpd f s).img = s.img := rfl
@[simp] theorem schUpd_apc (f : Sch → Sch) : (schUpd f s).apc = s.apc := rfl

/-- `schUpd` changes only `sch`. -/
theorem schUpd_frame (f : Sch → Sch) : OnlyChanges [.sch] s (schUpd f s) := by
  intro x hx
  cases x <;> first | rfl | exact absurd (List.mem_singleton.2 rfl) hx

@[simp] theorem secUpd_sec (f : Sec → Sec) : (secUpd f s).sec = f s.sec := rfl
@[simp] theorem secUpd_now (f : Sec → Sec) : (secUpd f s).now = s.now := rfl
@[simp] theorem secUpd_freeCtr (f : Sec → Sec) : (secUpd f s).freeCtr = s.freeCtr := rfl
@[simp] theorem secUpd_dq (f : Sec → Sec) : (secUpd f s).dq = s.dq := rfl
@[simp] theorem secUpd_ubfen (f : Sec → Sec) : (secUpd f s).ubfen = s.ubfen := rfl
@[simp] theorem secUpd_ev (f : Sec → Sec) : (secUpd f s).ev = s.ev := rfl
@[simp] theorem secUpd_boot (f : Sec → Sec) : (secUpd f s).boot = s.boot := rfl
@[simp] theorem secUpd_cfg (f : Sec → Sec) : (secUpd f s).cfg = s.cfg := rfl
@[simp] theorem secUpd_cal (f : Sec → Sec) : (secUpd f s).cal = s.cal := rfl
@[simp] theorem secUpd_sys (f : Sec → Sec) : (secUpd f s).sys = s.sys := rfl
@[simp] theorem secUpd_time (f : Sec → Sec) : (secUpd f s).time = s.time := rfl
@[simp] theorem secUpd_pd0 (f : Sec → Sec) : (secUpd f s).pd0 = s.pd0 := rfl
@[simp] theorem secUpd_pwr (f : Sec → Sec) : (secUpd f s).pwr = s.pwr := rfl
@[simp] theorem secUpd_health (f : Sec → Sec) : (secUpd f s).health = s.health := rfl
@[simp] theorem secUpd_scs (f : Sec → Sec) : (secUpd f s).scs = s.scs := rfl
@[simp] theorem secUpd_cnt (f : Sec → Sec) : (secUpd f s).cnt = s.cnt := rfl
@[simp] theorem secUpd_eth (f : Sec → Sec) : (secUpd f s).eth = s.eth := rfl
@[simp] theorem secUpd_rf (f : Sec → Sec) : (secUpd f s).rf = s.rf := rfl
@[simp] theorem secUpd_tx (f : Sec → Sec) : (secUpd f s).tx = s.tx := rfl
@[simp] theorem secUpd_chn (f : Sec → Sec) : (secUpd f s).chn = s.chn := rfl
@[simp] theorem secUpd_dem (f : Sec → Sec) : (secUpd f s).dem = s.dem := rfl
@[simp] theorem secUpd_rwd (f : Sec → Sec) : (secUpd f s).rwd = s.rwd := rfl
@[simp] theorem secUpd_dram (f : Sec → Sec) : (secUpd f s).dram = s.dram := rfl
@[simp] theorem secUpd_fe (f : Sec → Sec) : (secUpd f s).fe = s.fe := rfl
@[simp] theorem secUpd_sch (f : Sec → Sec) : (secUpd f s).sch = s.sch := rfl
@[simp] theorem secUpd_pair (f : Sec → Sec) : (secUpd f s).pair = s.pair := rfl
@[simp] theorem secUpd_img (f : Sec → Sec) : (secUpd f s).img = s.img := rfl
@[simp] theorem secUpd_apc (f : Sec → Sec) : (secUpd f s).apc = s.apc := rfl

/-- `secUpd` changes only `sec`. -/
theorem secUpd_frame (f : Sec → Sec) : OnlyChanges [.sec] s (secUpd f s) := by
  intro x hx
  cases x <;> first | rfl | exact absurd (List.mem_singleton.2 rfl) hx

@[simp] theorem beaconUpd_now (n : Nat) (f : Beacon → Beacon) : (beaconUpd n f s).now = s.now := rfl
@[simp] theorem beaconUpd_freeCtr (n : Nat) (f : Beacon → Beacon) : (beaconUpd n f s).freeCtr = s.freeCtr := rfl
@[simp] theorem beaconUpd_dq (n : Nat) (f : Beacon → Beacon) : (beaconUpd n f s).dq = s.dq := rfl
@[simp] theorem beaconUpd_ubfen (n : Nat) (f : Beacon → Beacon) : (beaconUpd n f s).ubfen = s.ubfen := rfl
@[simp] theorem beaconUpd_ev (n : Nat) (f : Beacon → Beacon) : (beaconUpd n f s).ev = s.ev := rfl
@[simp] theorem beaconUpd_boot (n : Nat) (f : Beacon → Beacon) : (beaconUpd n f s).boot = s.boot := rfl
@[simp] theorem beaconUpd_cfg (n : Nat) (f : Beacon → Beacon) : (beaconUpd n f s).cfg = s.cfg := rfl
@[simp] theorem beaconUpd_cal (n : Nat) (f : Beacon → Beacon) : (beaconUpd n f s).cal = s.cal := rfl
@[simp] theorem beaconUpd_sys (n : Nat) (f : Beacon → Beacon) : (beaconUpd n f s).sys = s.sys := rfl
@[simp] theorem beaconUpd_pd0 (n : Nat) (f : Beacon → Beacon) : (beaconUpd n f s).pd0 = s.pd0 := rfl
@[simp] theorem beaconUpd_pwr (n : Nat) (f : Beacon → Beacon) : (beaconUpd n f s).pwr = s.pwr := rfl
@[simp] theorem beaconUpd_health (n : Nat) (f : Beacon → Beacon) : (beaconUpd n f s).health = s.health := rfl
@[simp] theorem beaconUpd_scs (n : Nat) (f : Beacon → Beacon) : (beaconUpd n f s).scs = s.scs := rfl
@[simp] theorem beaconUpd_cnt (n : Nat) (f : Beacon → Beacon) : (beaconUpd n f s).cnt = s.cnt := rfl
@[simp] theorem beaconUpd_eth (n : Nat) (f : Beacon → Beacon) : (beaconUpd n f s).eth = s.eth := rfl
@[simp] theorem beaconUpd_rf (n : Nat) (f : Beacon → Beacon) : (beaconUpd n f s).rf = s.rf := rfl
@[simp] theorem beaconUpd_tx (n : Nat) (f : Beacon → Beacon) : (beaconUpd n f s).tx = s.tx := rfl
@[simp] theorem beaconUpd_chn (n : Nat) (f : Beacon → Beacon) : (beaconUpd n f s).chn = s.chn := rfl
@[simp] theorem beaconUpd_dem (n : Nat) (f : Beacon → Beacon) : (beaconUpd n f s).dem = s.dem := rfl
@[simp] theorem beaconUpd_rwd (n : Nat) (f : Beacon → Beacon) : (beaconUpd n f s).rwd = s.rwd := rfl
@[simp] theorem beaconUpd_dram (n : Nat) (f : Beacon → Beacon) : (beaconUpd n f s).dram = s.dram := rfl
@[simp] theorem beaconUpd_fe (n : Nat) (f : Beacon → Beacon) : (beaconUpd n f s).fe = s.fe := rfl
@[simp] theorem beaconUpd_sch (n : Nat) (f : Beacon → Beacon) : (beaconUpd n f s).sch = s.sch := rfl
@[simp] theorem beaconUpd_pair (n : Nat) (f : Beacon → Beacon) : (beaconUpd n f s).pair = s.pair := rfl
@[simp] theorem beaconUpd_sec (n : Nat) (f : Beacon → Beacon) : (beaconUpd n f s).sec = s.sec := rfl
@[simp] theorem beaconUpd_img (n : Nat) (f : Beacon → Beacon) : (beaconUpd n f s).img = s.img := rfl
@[simp] theorem beaconUpd_apc (n : Nat) (f : Beacon → Beacon) : (beaconUpd n f s).apc = s.apc := rfl

/-- `beaconUpd` changes only `time`. -/
theorem beaconUpd_frame (n : Nat) (f : Beacon → Beacon) : OnlyChanges [.time] s (beaconUpd n f s) := by
  intro x hx
  cases x <;> first | rfl | exact absurd (List.mem_singleton.2 rfl) hx

@[simp] theorem raise_now (src payload : Nat) : (raise src payload s).now = s.now := rfl
@[simp] theorem raise_freeCtr (src payload : Nat) : (raise src payload s).freeCtr = s.freeCtr := rfl
@[simp] theorem raise_dq (src payload : Nat) : (raise src payload s).dq = s.dq := rfl
@[simp] theorem raise_ubfen (src payload : Nat) : (raise src payload s).ubfen = s.ubfen := rfl
@[simp] theorem raise_boot (src payload : Nat) : (raise src payload s).boot = s.boot := rfl
@[simp] theorem raise_cfg (src payload : Nat) : (raise src payload s).cfg = s.cfg := rfl
@[simp] theorem raise_cal (src payload : Nat) : (raise src payload s).cal = s.cal := rfl
@[simp] theorem raise_sys (src payload : Nat) : (raise src payload s).sys = s.sys := rfl
@[simp] theorem raise_time (src payload : Nat) : (raise src payload s).time = s.time := rfl
@[simp] theorem raise_pd0 (src payload : Nat) : (raise src payload s).pd0 = s.pd0 := rfl
@[simp] theorem raise_pwr (src payload : Nat) : (raise src payload s).pwr = s.pwr := rfl
@[simp] theorem raise_health (src payload : Nat) : (raise src payload s).health = s.health := rfl
@[simp] theorem raise_scs (src payload : Nat) : (raise src payload s).scs = s.scs := rfl
@[simp] theorem raise_cnt (src payload : Nat) : (raise src payload s).cnt = s.cnt := rfl
@[simp] theorem raise_eth (src payload : Nat) : (raise src payload s).eth = s.eth := rfl
@[simp] theorem raise_rf (src payload : Nat) : (raise src payload s).rf = s.rf := rfl
@[simp] theorem raise_tx (src payload : Nat) : (raise src payload s).tx = s.tx := rfl
@[simp] theorem raise_chn (src payload : Nat) : (raise src payload s).chn = s.chn := rfl
@[simp] theorem raise_dem (src payload : Nat) : (raise src payload s).dem = s.dem := rfl
@[simp] theorem raise_rwd (src payload : Nat) : (raise src payload s).rwd = s.rwd := rfl
@[simp] theorem raise_dram (src payload : Nat) : (raise src payload s).dram = s.dram := rfl
@[simp] theorem raise_fe (src payload : Nat) : (raise src payload s).fe = s.fe := rfl
@[simp] theorem raise_sch (src payload : Nat) : (raise src payload s).sch = s.sch := rfl
@[simp] theorem raise_pair (src payload : Nat) : (raise src payload s).pair = s.pair := rfl
@[simp] theorem raise_sec (src payload : Nat) : (raise src payload s).sec = s.sec := rfl
@[simp] theorem raise_img (src payload : Nat) : (raise src payload s).img = s.img := rfl
@[simp] theorem raise_apc (src payload : Nat) : (raise src payload s).apc = s.apc := rfl

/-- `raise` changes only `ev`. -/
theorem raise_frame (src payload : Nat) : OnlyChanges [.ev] s (raise src payload s) := by
  intro x hx
  cases x <;> first | rfl | exact absurd (List.mem_singleton.2 rfl) hx

@[simp] theorem bump_cnt (addr k : Nat) : (bump addr k s).cnt = s.cnt.upd addr fun x => satAdd 0xFFFFFFFF x k := rfl
@[simp] theorem bump_now (addr k : Nat) : (bump addr k s).now = s.now := rfl
@[simp] theorem bump_freeCtr (addr k : Nat) : (bump addr k s).freeCtr = s.freeCtr := rfl
@[simp] theorem bump_dq (addr k : Nat) : (bump addr k s).dq = s.dq := rfl
@[simp] theorem bump_ubfen (addr k : Nat) : (bump addr k s).ubfen = s.ubfen := rfl
@[simp] theorem bump_ev (addr k : Nat) : (bump addr k s).ev = s.ev := rfl
@[simp] theorem bump_boot (addr k : Nat) : (bump addr k s).boot = s.boot := rfl
@[simp] theorem bump_cfg (addr k : Nat) : (bump addr k s).cfg = s.cfg := rfl
@[simp] theorem bump_cal (addr k : Nat) : (bump addr k s).cal = s.cal := rfl
@[simp] theorem bump_sys (addr k : Nat) : (bump addr k s).sys = s.sys := rfl
@[simp] theorem bump_time (addr k : Nat) : (bump addr k s).time = s.time := rfl
@[simp] theorem bump_pd0 (addr k : Nat) : (bump addr k s).pd0 = s.pd0 := rfl
@[simp] theorem bump_pwr (addr k : Nat) : (bump addr k s).pwr = s.pwr := rfl
@[simp] theorem bump_health (addr k : Nat) : (bump addr k s).health = s.health := rfl
@[simp] theorem bump_scs (addr k : Nat) : (bump addr k s).scs = s.scs := rfl
@[simp] theorem bump_eth (addr k : Nat) : (bump addr k s).eth = s.eth := rfl
@[simp] theorem bump_rf (addr k : Nat) : (bump addr k s).rf = s.rf := rfl
@[simp] theorem bump_tx (addr k : Nat) : (bump addr k s).tx = s.tx := rfl
@[simp] theorem bump_chn (addr k : Nat) : (bump addr k s).chn = s.chn := rfl
@[simp] theorem bump_dem (addr k : Nat) : (bump addr k s).dem = s.dem := rfl
@[simp] theorem bump_rwd (addr k : Nat) : (bump addr k s).rwd = s.rwd := rfl
@[simp] theorem bump_dram (addr k : Nat) : (bump addr k s).dram = s.dram := rfl
@[simp] theorem bump_fe (addr k : Nat) : (bump addr k s).fe = s.fe := rfl
@[simp] theorem bump_sch (addr k : Nat) : (bump addr k s).sch = s.sch := rfl
@[simp] theorem bump_pair (addr k : Nat) : (bump addr k s).pair = s.pair := rfl
@[simp] theorem bump_sec (addr k : Nat) : (bump addr k s).sec = s.sec := rfl
@[simp] theorem bump_img (addr k : Nat) : (bump addr k s).img = s.img := rfl
@[simp] theorem bump_apc (addr k : Nat) : (bump addr k s).apc = s.apc := rfl

/-- `bump` changes only `cnt`. -/
theorem bump_frame (addr k : Nat) : OnlyChanges [.cnt] s (bump addr k s) := by
  intro x hx
  cases x <;> first | rfl | exact absurd (List.mem_singleton.2 rfl) hx

@[simp] theorem cfgSet_now (type id v : Nat) : (cfgSet type id v s).now = s.now := rfl
@[simp] theorem cfgSet_freeCtr (type id v : Nat) : (cfgSet type id v s).freeCtr = s.freeCtr := rfl
@[simp] theorem cfgSet_dq (type id v : Nat) : (cfgSet type id v s).dq = s.dq := rfl
@[simp] theorem cfgSet_ubfen (type id v : Nat) : (cfgSet type id v s).ubfen = s.ubfen := rfl
@[simp] theorem cfgSet_ev (type id v : Nat) : (cfgSet type id v s).ev = s.ev := rfl
@[simp] theorem cfgSet_boot (type id v : Nat) : (cfgSet type id v s).boot = s.boot := rfl
@[simp] theorem cfgSet_cal (type id v : Nat) : (cfgSet type id v s).cal = s.cal := rfl
@[simp] theorem cfgSet_sys (type id v : Nat) : (cfgSet type id v s).sys = s.sys := rfl
@[simp] theorem cfgSet_time (type id v : Nat) : (cfgSet type id v s).time = s.time := rfl
@[simp] theorem cfgSet_pd0 (type id v : Nat) : (cfgSet type id v s).pd0 = s.pd0 := rfl
@[simp] theorem cfgSet_pwr (type id v : Nat) : (cfgSet type id v s).pwr = s.pwr := rfl
@[simp] theorem cfgSet_health (type id v : Nat) : (cfgSet type id v s).health = s.health := rfl
@[simp] theorem cfgSet_scs (type id v : Nat) : (cfgSet type id v s).scs = s.scs := rfl
@[simp] theorem cfgSet_cnt (type id v : Nat) : (cfgSet type id v s).cnt = s.cnt := rfl
@[simp] theorem cfgSet_eth (type id v : Nat) : (cfgSet type id v s).eth = s.eth := rfl
@[simp] theorem cfgSet_rf (type id v : Nat) : (cfgSet type id v s).rf = s.rf := rfl
@[simp] theorem cfgSet_tx (type id v : Nat) : (cfgSet type id v s).tx = s.tx := rfl
@[simp] theorem cfgSet_chn (type id v : Nat) : (cfgSet type id v s).chn = s.chn := rfl
@[simp] theorem cfgSet_dem (type id v : Nat) : (cfgSet type id v s).dem = s.dem := rfl
@[simp] theorem cfgSet_rwd (type id v : Nat) : (cfgSet type id v s).rwd = s.rwd := rfl
@[simp] theorem cfgSet_dram (type id v : Nat) : (cfgSet type id v s).dram = s.dram := rfl
@[simp] theorem cfgSet_fe (type id v : Nat) : (cfgSet type id v s).fe = s.fe := rfl
@[simp] theorem cfgSet_sch (type id v : Nat) : (cfgSet type id v s).sch = s.sch := rfl
@[simp] theorem cfgSet_pair (type id v : Nat) : (cfgSet type id v s).pair = s.pair := rfl
@[simp] theorem cfgSet_sec (type id v : Nat) : (cfgSet type id v s).sec = s.sec := rfl
@[simp] theorem cfgSet_img (type id v : Nat) : (cfgSet type id v s).img = s.img := rfl
@[simp] theorem cfgSet_apc (type id v : Nat) : (cfgSet type id v s).apc = s.apc := rfl

/-- `cfgSet` changes only `cfg`. -/
theorem cfgSet_frame (type id v : Nat) : OnlyChanges [.cfg] s (cfgSet type id v s) := by
  intro x hx
  cases x <;> first | rfl | exact absurd (List.mem_singleton.2 rfl) hx

@[simp] theorem updCmd_now (c : CmdRef) (f : Cmd → Cmd) : (updCmd c f s).now = s.now := rfl
@[simp] theorem updCmd_freeCtr (c : CmdRef) (f : Cmd → Cmd) : (updCmd c f s).freeCtr = s.freeCtr := rfl
@[simp] theorem updCmd_dq (c : CmdRef) (f : Cmd → Cmd) : (updCmd c f s).dq = s.dq := rfl
@[simp] theorem updCmd_ev (c : CmdRef) (f : Cmd → Cmd) : (updCmd c f s).ev = s.ev := rfl
@[simp] theorem updCmd_boot (c : CmdRef) (f : Cmd → Cmd) : (updCmd c f s).boot = s.boot := rfl
@[simp] theorem updCmd_cfg (c : CmdRef) (f : Cmd → Cmd) : (updCmd c f s).cfg = s.cfg := rfl
@[simp] theorem updCmd_cal (c : CmdRef) (f : Cmd → Cmd) : (updCmd c f s).cal = s.cal := rfl
@[simp] theorem updCmd_sys (c : CmdRef) (f : Cmd → Cmd) : (updCmd c f s).sys = s.sys := rfl
@[simp] theorem updCmd_time (c : CmdRef) (f : Cmd → Cmd) : (updCmd c f s).time = s.time := rfl
@[simp] theorem updCmd_pd0 (c : CmdRef) (f : Cmd → Cmd) : (updCmd c f s).pd0 = s.pd0 := rfl
@[simp] theorem updCmd_pwr (c : CmdRef) (f : Cmd → Cmd) : (updCmd c f s).pwr = s.pwr := rfl
@[simp] theorem updCmd_health (c : CmdRef) (f : Cmd → Cmd) : (updCmd c f s).health = s.health := rfl
@[simp] theorem updCmd_scs (c : CmdRef) (f : Cmd → Cmd) : (updCmd c f s).scs = s.scs := rfl
@[simp] theorem updCmd_cnt (c : CmdRef) (f : Cmd → Cmd) : (updCmd c f s).cnt = s.cnt := rfl
@[simp] theorem updCmd_eth (c : CmdRef) (f : Cmd → Cmd) : (updCmd c f s).eth = s.eth := rfl
@[simp] theorem updCmd_rf (c : CmdRef) (f : Cmd → Cmd) : (updCmd c f s).rf = s.rf := rfl
@[simp] theorem updCmd_tx (c : CmdRef) (f : Cmd → Cmd) : (updCmd c f s).tx = s.tx := rfl
@[simp] theorem updCmd_chn (c : CmdRef) (f : Cmd → Cmd) : (updCmd c f s).chn = s.chn := rfl
@[simp] theorem updCmd_dem (c : CmdRef) (f : Cmd → Cmd) : (updCmd c f s).dem = s.dem := rfl
@[simp] theorem updCmd_rwd (c : CmdRef) (f : Cmd → Cmd) : (updCmd c f s).rwd = s.rwd := rfl
@[simp] theorem updCmd_dram (c : CmdRef) (f : Cmd → Cmd) : (updCmd c f s).dram = s.dram := rfl
@[simp] theorem updCmd_fe (c : CmdRef) (f : Cmd → Cmd) : (updCmd c f s).fe = s.fe := rfl
@[simp] theorem updCmd_sch (c : CmdRef) (f : Cmd → Cmd) : (updCmd c f s).sch = s.sch := rfl
@[simp] theorem updCmd_pair (c : CmdRef) (f : Cmd → Cmd) : (updCmd c f s).pair = s.pair := rfl
@[simp] theorem updCmd_sec (c : CmdRef) (f : Cmd → Cmd) : (updCmd c f s).sec = s.sec := rfl
@[simp] theorem updCmd_img (c : CmdRef) (f : Cmd → Cmd) : (updCmd c f s).img = s.img := rfl
@[simp] theorem updCmd_apc (c : CmdRef) (f : Cmd → Cmd) : (updCmd c f s).apc = s.apc := rfl

/-- `updCmd` changes only `ubfen`. -/
theorem updCmd_frame (c : CmdRef) (f : Cmd → Cmd) : OnlyChanges [.ubfen] s (updCmd c f s) := by
  intro x hx
  cases x <;> first | rfl | exact absurd (List.mem_singleton.2 rfl) hx

@[simp] theorem noteAccept_now (m : Cmd) : (noteAccept m s).now = s.now := rfl
@[simp] theorem noteAccept_freeCtr (m : Cmd) : (noteAccept m s).freeCtr = s.freeCtr := rfl
@[simp] theorem noteAccept_dq (m : Cmd) : (noteAccept m s).dq = s.dq := rfl
@[simp] theorem noteAccept_ev (m : Cmd) : (noteAccept m s).ev = s.ev := rfl
@[simp] theorem noteAccept_boot (m : Cmd) : (noteAccept m s).boot = s.boot := rfl
@[simp] theorem noteAccept_cfg (m : Cmd) : (noteAccept m s).cfg = s.cfg := rfl
@[simp] theorem noteAccept_cal (m : Cmd) : (noteAccept m s).cal = s.cal := rfl
@[simp] theorem noteAccept_sys (m : Cmd) : (noteAccept m s).sys = s.sys := rfl
@[simp] theorem noteAccept_time (m : Cmd) : (noteAccept m s).time = s.time := rfl
@[simp] theorem noteAccept_pd0 (m : Cmd) : (noteAccept m s).pd0 = s.pd0 := rfl
@[simp] theorem noteAccept_pwr (m : Cmd) : (noteAccept m s).pwr = s.pwr := rfl
@[simp] theorem noteAccept_health (m : Cmd) : (noteAccept m s).health = s.health := rfl
@[simp] theorem noteAccept_scs (m : Cmd) : (noteAccept m s).scs = s.scs := rfl
@[simp] theorem noteAccept_cnt (m : Cmd) : (noteAccept m s).cnt = s.cnt := rfl
@[simp] theorem noteAccept_eth (m : Cmd) : (noteAccept m s).eth = s.eth := rfl
@[simp] theorem noteAccept_rf (m : Cmd) : (noteAccept m s).rf = s.rf := rfl
@[simp] theorem noteAccept_tx (m : Cmd) : (noteAccept m s).tx = s.tx := rfl
@[simp] theorem noteAccept_chn (m : Cmd) : (noteAccept m s).chn = s.chn := rfl
@[simp] theorem noteAccept_dem (m : Cmd) : (noteAccept m s).dem = s.dem := rfl
@[simp] theorem noteAccept_rwd (m : Cmd) : (noteAccept m s).rwd = s.rwd := rfl
@[simp] theorem noteAccept_dram (m : Cmd) : (noteAccept m s).dram = s.dram := rfl
@[simp] theorem noteAccept_fe (m : Cmd) : (noteAccept m s).fe = s.fe := rfl
@[simp] theorem noteAccept_sch (m : Cmd) : (noteAccept m s).sch = s.sch := rfl
@[simp] theorem noteAccept_pair (m : Cmd) : (noteAccept m s).pair = s.pair := rfl
@[simp] theorem noteAccept_sec (m : Cmd) : (noteAccept m s).sec = s.sec := rfl
@[simp] theorem noteAccept_img (m : Cmd) : (noteAccept m s).img = s.img := rfl
@[simp] theorem noteAccept_apc (m : Cmd) : (noteAccept m s).apc = s.apc := rfl

/-- `noteAccept` changes only `ubfen`. -/
theorem noteAccept_frame (m : Cmd) : OnlyChanges [.ubfen] s (noteAccept m s) := by
  intro x hx
  cases x <;> first | rfl | exact absurd (List.mem_singleton.2 rfl) hx

@[simp] theorem keepReply_now (m : Cmd) (st : Nat) (res : Bytes) : (keepReply m st res s).now = s.now := rfl
@[simp] theorem keepReply_freeCtr (m : Cmd) (st : Nat) (res : Bytes) : (keepReply m st res s).freeCtr = s.freeCtr := rfl
@[simp] theorem keepReply_dq (m : Cmd) (st : Nat) (res : Bytes) : (keepReply m st res s).dq = s.dq := rfl
@[simp] theorem keepReply_ev (m : Cmd) (st : Nat) (res : Bytes) : (keepReply m st res s).ev = s.ev := rfl
@[simp] theorem keepReply_boot (m : Cmd) (st : Nat) (res : Bytes) : (keepReply m st res s).boot = s.boot := rfl
@[simp] theorem keepReply_cfg (m : Cmd) (st : Nat) (res : Bytes) : (keepReply m st res s).cfg = s.cfg := rfl
@[simp] theorem keepReply_cal (m : Cmd) (st : Nat) (res : Bytes) : (keepReply m st res s).cal = s.cal := rfl
@[simp] theorem keepReply_sys (m : Cmd) (st : Nat) (res : Bytes) : (keepReply m st res s).sys = s.sys := rfl
@[simp] theorem keepReply_time (m : Cmd) (st : Nat) (res : Bytes) : (keepReply m st res s).time = s.time := rfl
@[simp] theorem keepReply_pd0 (m : Cmd) (st : Nat) (res : Bytes) : (keepReply m st res s).pd0 = s.pd0 := rfl
@[simp] theorem keepReply_pwr (m : Cmd) (st : Nat) (res : Bytes) : (keepReply m st res s).pwr = s.pwr := rfl
@[simp] theorem keepReply_health (m : Cmd) (st : Nat) (res : Bytes) : (keepReply m st res s).health = s.health := rfl
@[simp] theorem keepReply_scs (m : Cmd) (st : Nat) (res : Bytes) : (keepReply m st res s).scs = s.scs := rfl
@[simp] theorem keepReply_cnt (m : Cmd) (st : Nat) (res : Bytes) : (keepReply m st res s).cnt = s.cnt := rfl
@[simp] theorem keepReply_eth (m : Cmd) (st : Nat) (res : Bytes) : (keepReply m st res s).eth = s.eth := rfl
@[simp] theorem keepReply_rf (m : Cmd) (st : Nat) (res : Bytes) : (keepReply m st res s).rf = s.rf := rfl
@[simp] theorem keepReply_tx (m : Cmd) (st : Nat) (res : Bytes) : (keepReply m st res s).tx = s.tx := rfl
@[simp] theorem keepReply_chn (m : Cmd) (st : Nat) (res : Bytes) : (keepReply m st res s).chn = s.chn := rfl
@[simp] theorem keepReply_dem (m : Cmd) (st : Nat) (res : Bytes) : (keepReply m st res s).dem = s.dem := rfl
@[simp] theorem keepReply_rwd (m : Cmd) (st : Nat) (res : Bytes) : (keepReply m st res s).rwd = s.rwd := rfl
@[simp] theorem keepReply_dram (m : Cmd) (st : Nat) (res : Bytes) : (keepReply m st res s).dram = s.dram := rfl
@[simp] theorem keepReply_fe (m : Cmd) (st : Nat) (res : Bytes) : (keepReply m st res s).fe = s.fe := rfl
@[simp] theorem keepReply_sch (m : Cmd) (st : Nat) (res : Bytes) : (keepReply m st res s).sch = s.sch := rfl
@[simp] theorem keepReply_pair (m : Cmd) (st : Nat) (res : Bytes) : (keepReply m st res s).pair = s.pair := rfl
@[simp] theorem keepReply_sec (m : Cmd) (st : Nat) (res : Bytes) : (keepReply m st res s).sec = s.sec := rfl
@[simp] theorem keepReply_img (m : Cmd) (st : Nat) (res : Bytes) : (keepReply m st res s).img = s.img := rfl
@[simp] theorem keepReply_apc (m : Cmd) (st : Nat) (res : Bytes) : (keepReply m st res s).apc = s.apc := rfl

/-- `keepReply` changes only `ubfen`. -/
theorem keepReply_frame (m : Cmd) (st : Nat) (res : Bytes) : OnlyChanges [.ubfen] s (keepReply m st res s) := by
  intro x hx
  cases x <;> first | rfl | exact absurd (List.mem_singleton.2 rfl) hx

/-! ## Updates of one element of a part -/

@[simp] theorem coreUpd_eq (n : Nat) (f : Core → Core) : coreUpd n f s = apcUpd (fun a => { a with cores := a.cores.upd n f }) s := rfl
@[simp] theorem taskUpd_eq (t : Nat) (f : Task → Task) : taskUpd t f s = apcUpd (fun a => { a with tasks := a.tasks.upd t f }) s := rfl
@[simp] theorem bandUpd_eq (b : Nat) (f : RBand → RBand) : bandUpd b f s = rfUpd (fun r => { r with bands := r.bands.upd b f }) s := rfl
@[simp] theorem portUpd_eq (p : Nat) (f : AntPort → AntPort) : portUpd p f s = rfUpd (fun r => { r with ports := r.ports.upd p f }) s := rfl
@[simp] theorem carUpd_eq (k : Nat) (f : Carrier → Carrier) : carUpd k f s = rfUpd (fun r => { r with carriers := r.carriers.upd k f }) s := rfl
@[simp] theorem slotUpd_eq (t : Nat) (b : Bool) (f : ImgSlot → ImgSlot) : slotUpd t b f s = imgUpd (fun i => { i with slots := i.slots.upd (slotIx t b) f }) s := rfl
@[simp] theorem entryUpd_eq (e : Nat) (f : Launch → Launch) : entryUpd e f s = txUpd (fun t => { t with entries := t.entries.upd e (Option.map f) }) s := rfl
@[simp] theorem ctxUpd_eq (x : Nat) (f : Ctx → Ctx) : ctxUpd x f s = demUpd (fun d => { d with ctxs := d.ctxs.upd x f }) s := rfl
@[simp] theorem queueUpd_eq (n : Nat) (f : List TFrame → List TFrame) : queueUpd n f s = schUpd (fun r => { r with queues := r.queues.upd n f }) s := rfl
@[simp] theorem delaysUpd_eq (f : Delays → Delays) : delaysUpd f s = txUpd (fun t => { t with delays := f t.delays }) s := rfl
@[simp] theorem eddyUpd_eq (b : Nat) (f : Eddy → Eddy) : eddyUpd b f s = txUpd (fun t => { t with eddy := t.eddy.upd b f }) s := rfl
@[simp] theorem lockedUpd_eq (f : Locked → Locked) : lockedUpd f s = secUpd (fun v => { v with locked := f v.locked }) s := rfl

/-- A time domain changes; its part is the clocks'. -/
theorem tdUpd_frame (d : Nat) (f : TimeDom → TimeDom) : OnlyChanges [.time] s (tdUpd d f s) := by
  intro x hx
  unfold tdUpd
  split <;> cases x <;> first | rfl | exact absurd (List.mem_singleton.2 rfl) hx

theorem servoUpd_frame (d : Nat) (f : Servo → Servo) : OnlyChanges [.time] s (servoUpd d f s) := tdUpd_frame s d _

/-- Frames join. -/
theorem OnlyChanges.trans {ps qs : List Part} {s t u : Chip} (h : OnlyChanges ps s t) (k : OnlyChanges qs t u) :
    OnlyChanges (ps ++ qs) s u := by
  intro p hp
  have a := h p fun m => hp (List.mem_append.2 (.inl m))
  have b := k p fun m => hp (List.mem_append.2 (.inr m))
  cases p <;> exact Eq.trans b a

/-- A frame may name more parts. -/
theorem OnlyChanges.mono {ps qs : List Part} {s t : Chip} (h : OnlyChanges ps s t) (k : ps ⊆ qs) : OnlyChanges qs s t :=
  fun p hp => h p fun hm => hp (k hm)

theorem OnlyChanges.refl (ps : List Part) (s : Chip) : OnlyChanges ps s s := by
  intro p _
  cases p <;> rfl

end Sys2Proof.Machine
end

