-- ==== Sys2Proof/Laws/Tab.lean ====
section
/-! SUPPORT. Arrays: what a read gives after a write. -/

namespace Sys2Proof.Machine

theorem lookupIn_insertIn_self {α : Type} (l : List (Nat × α)) (i : Nat) (v : α) :
    lookupIn (insertIn l i v) i = some v := by
  induction l with
  | nil => simp [insertIn, lookupIn]
  | cons e l ih =>
    obtain ⟨k, x⟩ := e
    simp only [insertIn]
    split
    · simp [lookupIn]
    · split
      · simp [lookupIn]
      · have : k ≠ i := by omega
        simp [lookupIn, this, ih]

theorem lookupIn_insertIn_other {α : Type} (l : List (Nat × α)) {i j : Nat} (v : α) (h : i ≠ j) :
    lookupIn (insertIn l i v) j = lookupIn l j := by
  induction l with
  | nil => simp [insertIn, lookupIn, h]
  | cons e l ih =>
    obtain ⟨k, x⟩ := e
    simp only [insertIn]
    split
    · simp [lookupIn, h]
    · split
      · next hk => subst hk; simp [lookupIn, h]
      · simp only [lookupIn]
        split <;> simp_all

@[simp] theorem Tab.get_set_self {α : Type} (t : Tab α) (i : Nat) (v : α) : (t.set i v).get i = v := by
  simp [Tab.get, Tab.set, lookupIn_insertIn_self]

theorem Tab.get_set_other {α : Type} (t : Tab α) {i j : Nat} (v : α) (h : i ≠ j) : (t.set i v).get j = t.get j := by
  simp [Tab.get, Tab.set, lookupIn_insertIn_other _ _ h]

@[simp] theorem Tab.get_upd_self {α : Type} (t : Tab α) (i : Nat) (f : α → α) : (t.upd i f).get i = f (t.get i) := by
  simp [Tab.upd]

theorem Tab.get_upd_other {α : Type} (t : Tab α) {i j : Nat} (f : α → α) (h : i ≠ j) : (t.upd i f).get j = t.get j := by
  simp [Tab.upd, Tab.get_set_other _ _ h]

@[simp] theorem Tab.get_const {α : Type} (d : α) (i : Nat) : (Tab.const d).get i = d := rfl

end Sys2Proof.Machine
end

