-- ==== Sys2Proof/Tests/Slice0.lean ====
section
/-! SUPPORT. Small tests: ill-formed operands are refused, one fact per family on fixed values, and for every statement
with hypotheses a state and operands that meet them. -/

namespace Sys2Proof.Tests

open Sys2Proof.Machine

set_option Elab.async false

/-- The reference of the test command: transport 0, TAG 7. -/
def c0 : CmdRef := ⟨0, 7⟩

/-- A command that has started. -/
def tcmd (op : Nat) (params : Bytes) : Cmd :=
  { tr := 0, cls := 1, tag := 7, seq := 0, opcode := op, flags := 0, status := 0, outst := 0, params := params, back := []
    no := 5, admittedAt := 0, startedAt := some 0, accepted := false, done := none, work := 0 }

/-- The state in which that command runs. -/
def trun (op : Nat) (params : Bytes) (s : Chip) : Chip := { s with ubfen := { s.ubfen with cmds := [tcmd op params] } }

/-- The device after power-on, with no command waiting. -/
def chip0 : Chip := Chip.reset

/-- A state of the model around a device. -/
def st (c : Chip) : State := ⟨c, []⟩

/-- The device with its executive ready and every power domain on. -/
def up : Chip :=
  { chip0 with ubfen := { chip0.ubfen with ready := true }, pwr := { chip0.pwr with domOn := 0xFFF }
               boot := { chip0.boot with stage := 9, service := true, wait := .none, step := 0 } }

/-- `up`, port 1 with one permitted host. -/
def hostUp : Chip :=
  { up with cfg := { up.cfg with run := [(fkey 3 3, 0x1FFFF03), (fkey 0x0C01 (ethId 1 0), 0x25C), (fkey 0x0C01 (ethId 1 1), 1),
      (fkey 0x0C01 (ethId 1 12), 0x10200), (fkey 0x0C01 (ethId 1 13), 1)] } }

/-- SYS_NOP, class 1, TAG 7, SEQUENCE 0. -/
def nopPkt : Bytes := packet 0 0 7 1 0 0 0 []

/-- A command that has not started. -/
def waiting (op : Nat) : Cmd := { tcmd op [] with startedAt := none }

/-- `up` with one command in hand. -/
def hand (m : Cmd) : Chip := { up with ubfen := { up.ubfen with cmds := [m] } }

/-- The identity key. -/
def idKey : Key := ⟨8, 0x14, 0, 1, false, false, false, 0, 0, 0, 0, [1]⟩

/-- The vault unsealed with the identity key in it, and the DRBG running. -/
def openVault (s : Chip) : Chip := { s with sec := { s.sec with vault := 1, keys := [idKey], drbgOn := true } }

/-- An installation session at its start: the header announces a sealed body of 17 bytes. -/
def ses : ImgSession := ⟨3, 0, zeros 24 ++ wr 4 17 ++ zeros 356, true, [], 0⟩

/-- A state with that session. -/
def inSession (s : Chip) : Chip := { s with img := { s.img with session := some ses } }

/-- A transition to Breeze that takes PD10 down for the test command. -/
def goTrans : Trans := ⟨1, false, 0x400, 0xBFF, 0, 0, 0, false, some c0, 5, [], 0, false⟩

/-- A state in that transition, its command accepted and not completed. -/
def inTrans (t : Trans) (s : Chip) : Chip :=
  { s with pwr := { s.pwr with trans := some t, phase := 1 }
           ubfen := { s.ubfen with cmds := [{ tcmd 0x0101 [] with accepted := true }] } }

/-- A task with one activation, bound to queue 23. -/
def gustTask : Task := { Task.reset with en := true, prio := 7, allow := 255, depth := 256, bind := 23, ring := [(9, 0)] }

/-- Core 7 runs, and task 4095 waits. -/
def gustUp : Chip :=
  coreUpd 7 (fun c => { c with st := 2 }) { up with apc := { up.apc with tasks := (Tab.const Task.reset).set 4095 gustTask } }

/-- Domain 1 LOCKED by its servo, its instance on both ports with links up, one hour on. -/
def ptpUp : Chip :=
  let v := { up.time.td1.servo with gm := none, gmPort := 1, announce := (Tab.const none).set 1 (some 0) }
  { up with eth := Tab.const { EthPort.reset with link := true }, now := 3600 * nsSec
            cfg := { up.cfg with run := [(fkey 0x0201 0x120, 1), (fkey 0x0201 0x121, 3), (fkey 0x0201 0x12C, 1)] }
            time := { up.time with td1 := { up.time.td1 with st := 1, servo := v } } }


/-- A key without parent, exportable. -/
def keyOf (h typ attr level : Nat) : Key := ⟨h, typ, attr, level, false, true, false, 0, 0, 0, 0, [1]⟩

/-- `up` in a life-cycle state. -/
def lcUp (lc : Nat) (s : Chip) : Chip := { s with sec := { s.sec with locked := { s.sec.locked with lc := TwoCopy.both lc } } }

/-- `up` in PROVISION, its vault unsealed with these keys, the DRBG running. -/
def secUp (ks : List Key) : Chip :=
  lcUp 1 { up with sec := { up.sec with vault := 1, drbgOn := true, keys := ks } }

/-- Both loops armed with a base of 10 kΩ and 10 per cent. -/
def loopUp : Chip :=
  { secUp [] with sec := { (secUp []).sec with locked := { (secUp []).sec.locked with
      tamper := TwoCopy.both ⟨true, true, false, 10, 1000, 1000⟩ } } }

/-- A host launch on carrier 0, port 0, band A, 1 ms from the start of time. -/
def launch0 : Launch :=
  { no := 0, src := .host, id := 5, carrier := 0, port := 0, dom := 0, asap := false, simulcast := false, fsk := false, level := -100
    clamped := false, t := 1000000 * 65536, freq := 8680, len := 4, phy := 54, psdu := [1, 2, 3, 4], airNs := 200000, emitted := 0
    held := false, heldAt := 0, loaded := false, phase := 0, ended := none, stopped := false, suppressed := false, unlocked := false
    cmd := some c0, store := false, probe := none, measured := false, phyCfg := 0, biasAt := none, enAt := none, startAt := none
    frame := 0, node := 0 }

/-- A launch in entry 63. -/
def withLaunch (l : Launch) (s : Chip) : Chip := { s with tx := { s.tx with entries := s.tx.entries.set 63 (some l) } }

/-- `up` with output 2 locked, port 0 a monitored band-A port, and band A receiving. -/
def txUp : Chip :=
  bandUpd 0 (fun r => { r with state := 2, base := 2 })
    { up with scs := { up.scs with lock := 15 }, cfg := { up.cfg with run := [(fkey 0x0301 0x100, 1), (fkey 0x0301 0x101, 1)] } }

/-- `up` an hour on with band B receiving and channel 127 enabled in window 3 for Amconde and SUN-FSK. -/
def rxUp : Chip :=
  bandUpd 1 (fun r => { r with state := 2, base := 2, calValid := true })
    { up with now := 3600 * nsSec, scs := { up.scs with lock := 15 }
              cfg := { up.cfg with run := [(fkey 0x0601 6, 1), (fkey 0x0602 (0x100 + 127), 1 + 2 + 4 + 3 * 32 + 15 * 128)] } }

/-- `txUp` with Trade running. -/
def schUp : Chip := { txUp with cfg := { txUp.cfg with run := [(fkey 0x0D01 1, 0)] } }

/-- Settings for Trade: queue 4095 behind gate 0, channel 0 at 868 MHz. -/
def schRun : List (Nat × Nat) :=
  [(fkey 0x0301 0x100, 1), (fkey 0x0602 0x100, 1 + 8680 * 2 ^ 14), (fkey 0x0B40 0x100, 1), (fkey (0x0B40 + 63) (0x100 + 126), 1), (fkey 0x0D01 1, 0)]

/-- A node on channel 0, Amconde with K = 7 and 400 kHz. -/
def schEnt : NodeEnt :=
  { NodeEnt.fresh 5 (2 ^ 24) with locValid := true, locB := 7 + 2 * 16 }

/-- A state with that node. -/
def schNode (s : Chip) : Chip := { s with fe := { s.fe with nodes := [(4 * bucketOf s 5, schEnt)] } }

/-- A state with these gate lists. -/
def schGate (l : List Nat) (s : Chip) : Chip := schUpd (fun r => { r with gates := Tab.const ⟨some ⟨0, 0, l⟩, none, 0⟩ }) s

/-- `up` an hour on in lease mode, its pair link up. -/
def pairUp (code : Nat) (own : Bool) : Chip :=
  { up with now := 3600 * nsSec, cfg := { up.cfg with atBoot := [(fkey 1 2, 2)] }
            pair := { up.pair with st := code, owner := own, linkUp := true, lanes := 3 } }

/-- An uplink frame. -/
def upFrame0 : UpFrame := ⟨[1], false, 0, 5, 0, false, 1, 2, 1000, (1, 1)⟩

/-- A good descriptor of a frame. -/
def rx0 (f : Bytes) : RxDesc := ⟨[0, 0, 0, 0, 0, 0, 0, 0], f, none, 0⟩

/-- `up` with settings and descriptors in the frame engine. -/
def upRun (run : List (Nat × Nat)) (l : List RxDesc) : Chip :=
  { up with cfg := { up.cfg with run := run }, fe := { up.fe with uplink := l } }

/-- A beacon of 14 octets on carrier 0, 1.1 ms from the start of time, every hour. -/
def beacon0 : Beacon :=
  ⟨true, zeros 4 ++ [0, 0] ++ wr 2 (ofS 16 (-100)) ++ wr 4 1150000 ++ wr 2 0 ++ wr 6 0 ++ wr 2 8680 ++ wr 2 14 ++ wr 4 0x836 ++ zeros 4,
    zeros 14, 2, 3600000, 0, 0, 0, 0⟩

theorem test_witness_stepRunsFrontCommand :
    (State.reset.pending = [] ∧ ({ State.reset with pending := [Instr.vaonLoss] } : State).pending = Instr.vaonLoss :: []) := by decide

theorem test_witness_idleStepIsOneTick_1 :
    (State.reset.pending = [] ∧ State.reset.boot.wait ≠ .vaon ∧ pdOn State.reset.toChip 11 = false) := by decide

theorem test_witness_idleStepIsOneTick_2 :
    (({ chip0 with boot := { chip0.boot with wait := .vaon } } : Chip).boot.wait = .vaon) := by decide

theorem test_witness_stepNeverStopsAndKeepsQueue :
    ((st chip0).pending = [] ∧ ∀ i ∈ [Instr.sysNop c0, .dqPacketRead 40, .vaonLoss], i.wf = true) := by decide

theorem test_witness_illFormedOperandsFault_1 :
    (Instr.wf (.dqWordWrite 32 true 0 0 0 true) = false ∧ Instr.wf (.dqWordWrite 63 true 0 0 0 true) = false ∧
    Instr.wf (.dqWordWrite 31 true 0 0 0 true) = true ∧ Instr.wf (.dqWordWrite 64 true 0 0 0 true) = true) := by decide

theorem test_witness_illFormedOperandsFault_2 :
    (Instr.wf (.dqPacketRead 31) = false ∧ Instr.wf (.dqPacketRead 32) = true) := by decide

theorem test_witness_illFormedOperandsFault_3 :
    (Instr.wf (.channelBlockOut 0 []) = false ∧ Instr.wf (.calibrationDone .bandA (some 0) []) = false ∧
    Instr.wf (.calibrationDone .bandB (some 4) []) = false ∧ Instr.wf (.calibrationDone .bandA (some 4) []) = true ∧
    Instr.wf (.thermalSample []) = false ∧ Instr.wf (.railSample []) = false ∧ Instr.wf (.tamperArm c0 [] []) = false) := by decide

theorem test_witness_systemCommandsComplete_1 :
    (runnable c0 0x0000 (trun 0x0000 [] chip0) = some (tcmd 0x0000 []) ∧ runnable c0 0x0001 (trun 0x0001 [] chip0) = some (tcmd 0x0001 []) ∧
    runnable c0 0x0002 (trun 0x0002 [] chip0) = some (tcmd 0x0002 [])) := by decide

theorem test_witness_systemCommandsComplete_2 :
    (let m := tcmd 0x0006 (wr 1 2 ++ zeros 3 ++ wr 4 60000)
    runnable c0 0x0006 (trun 0x0006 m.params chip0) = some m ∧ rd m.params 0 1 = 2 ∧ (∀ i, i < 3 → rd m.params (1 + i) 1 = 0) ∧
    rd m.params 4 4 = 60000) := by decide

theorem test_witness_systemCommandsComplete_3 :
    (let m := tcmd 0x0007 [0xFF, 15, 0, 0]
    runnable c0 0x0007 (trun 0x0007 m.params chip0) = some m ∧ rd m.params 0 1 = 0xFF ∧ rd m.params 1 1 = 15 ∧
    (∀ i, i < 2 → rd m.params (2 + i) 1 = 0) ∧ flushNames m 0 15 = true) := by decide

theorem test_witness_eventCommandsComplete_1 :
    (let m := tcmd 0x0010 (wr 2 511 ++ [1, 0, 0, 0, 0, 0])
    runnable c0 0x0010 (trun 0x0010 m.params chip0) = some m ∧ rd m.params 0 2 = 511 ∧ rd m.params 2 1 = 1 ∧
    (∀ i, i < 1 → rd m.params (3 + i) 1 = 0) ∧ (∀ i, i < 2 → rd m.params (6 + i) 1 = 0)) := by decide

theorem test_witness_eventCommandsComplete_2 :
    (let m := tcmd 0x0011 [0, 127, 5, 2]
    runnable c0 0x0011 (trun 0x0011 m.params chip0) = some m ∧ rd m.params 0 1 = 0 ∧ rd m.params 1 1 = 127 ∧
    rd m.params 2 1 = 5 ∧ rd m.params 3 1 = 2 ∧ 5 &&& 7 = 5 ∧ 2 &&& 7 = 2 ∧ 5 &&& 2 = 0) := by decide

theorem test_witness_eventCommandsComplete_3 :
    (runnable c0 0x0012 (trun 0x0012 (zeros 16) chip0) = some (tcmd 0x0012 (zeros 16))) := by decide

theorem test_witness_eventCommandsComplete_4 :
    (let m := tcmd 0x0013 [0xFF, 64, 0, 0, 3, 0, 0, 0]
    runnable c0 0x0013 (trun 0x0013 m.params chip0) = some m ∧ rd m.params 0 1 = 0xFF ∧ rd m.params 1 1 = 64 ∧
    rd m.params 2 2 = 0 ∧ rd m.params 4 1 = 3 ∧ (∀ i, i < 3 → rd m.params (5 + i) 1 = 0)) := by decide

theorem test_witness_eventCommandsComplete_5 :
    (let m := tcmd 0x0014 ([127, 3] ++ zeros 14)
    runnable c0 0x0014 (trun 0x0014 m.params chip0) = some m ∧ rd m.params 0 1 = 127 ∧ evReserved 127 = false ∧
    rd m.params 1 1 = 3 ∧ (∀ i, i < 6 → rd m.params (2 + i) 1 = 0) ∧ chip0.sys.lc ≠ 2 ∧
    ({ chip0 with sys := { chip0.sys with lc := 2 } } : Chip).sys.lc = 2) := by decide

theorem test_witness_draughtWordsAndBanks_1 :
    (let q := chip0.dq.get 64
    q.skip = false ∧ q.loseRest = false ∧ q.credit ≠ 0 ∧ q.opn = none ∧ q.lost = 0) := by decide

theorem test_witness_draughtWordsAndBanks_2 :
    (let q := { chip0.dq.get 0 with en := true, opn := some ⟨1, 2, true, [5]⟩ }
    q.skip = false ∧ q.loseRest = false ∧ q.credit ≠ 0 ∧ q.opn = some ⟨1, 2, true, [5]⟩ ∧ q.lost = 0) := by decide

theorem test_witness_draughtWordsAndBanks_3 :
    (let q := { chip0.dq.get 0 with en := false }
    q.skip = false ∧ q.loseRest = false ∧ q.credit = 0 ∧ q.opn = none ∧ q.lost = 0) := by decide

theorem test_witness_draughtWordsAndBanks_4 :
    (let q := { chip0.dq.get 0 with fill := [⟨.data, 0, 0, 0, [5], 0, 0⟩] }
    q.drain = [] ∧ q.under = none ∧ q.fill ≠ [] ∧ q.opn = none ∧ q.flushing = false ∧ q.lost = 0 ∧ q.wait = []) := by decide

theorem test_witness_draughtWordsAndBanks_5 :
    (let q := { chip0.dq.get 0 with bankLog2 := 0, opn := some ⟨1, 2, false, [5]⟩ }
    q.depth ≤ q.used ∧ q.drain = [] ∧ q.under = none ∧ q.flushing = false ∧ q.wait = []) := by decide

theorem test_witness_draughtWordsAndBanks_6 :
    (let q := { chip0.dq.get 40 with drain := [⟨.data, 0, 0, 0, [5], 0, 0⟩, ⟨.abort, 7, 0, 0, [6], 0, 1⟩] }
    q.flushing = false ∧ selectPkt q.drain = some ⟨.abort, 7, 0, 0, [6], 0, 1⟩ ∧ complQueue 40 = none ∧
    selectPkt [(⟨.data, 0, 0, 0, [5], 0, 0⟩ : Pkt)] = some ⟨.data, 0, 0, 0, [5], 0, 0⟩) := by decide

theorem test_witness_draughtSoftwareSide_1 :
    (reaches .executive 0 chip0 = true ∧ reaches .executive 63 chip0 = true) := by decide

theorem test_witness_draughtSoftwareSide_2 :
    (let q := { chip0.dq.get 32 with en := true, sideEnd := true }
    q.skip = false ∧ q.loseRest = false ∧ q.credit ≠ 0 ∧ q.opn = none ∧ q.sideEnd = true ∧ q.flushing = false) := by decide

theorem test_witness_draughtSoftwareSide_3 :
    (let q := { chip0.dq.get 5 with en := false, flushing := true }
    q.en = false ∧ q.lost = 0 ∧ q.wait = [] ∧ q.flushing = true) := by decide

theorem test_witness_sideChangesApplyFromNextPacket_1 :
    (let q := { chip0.dq.get 32 with en := true, opn := some ⟨1, 2, true, [5]⟩ }
    reaches .executive 32 chip0 = true ∧ q.skip = false ∧ q.loseRest = false ∧ q.credit ≠ 0 ∧ q.opn = some ⟨1, 2, true, [5]⟩) := by decide

theorem test_witness_sideChangesApplyFromNextPacket_2 :
    (let q := { chip0.dq.get 63 with en := true }
    reaches .executive 63 chip0 = true ∧ q.skip = false ∧ q.loseRest = false ∧ q.credit ≠ 0 ∧ q.opn = none) := by decide

theorem test_witness_transportsAdmitCommands_1 :
    (pdOn up 1 = true ∧ up.ubfen.ready = true ∧ nopPkt.length ≤ 16384) := by decide

theorem test_witness_transportsAdmitCommands_2 :
    (Admissible 0 nopPkt up) := by unfold Admissible; decide +kernel

theorem test_witness_transportsAdmitCommands_3 :
    (∃ p : Bytes, p = bytesOf (wordsOf nopPkt) ∧ Admissible 3 p { up with cfg := { up.cfg with run := [(fkey 3 4, 0x1FFFF03)] } }) := by
    exact ⟨_, rfl, by unfold Admissible; decide +kernel⟩

theorem test_witness_transportsAdmitCommands_4 :
    (pdOn up 9 = true ∧ portMac 1 hostUp = [2, 0x5C, 0, 0, 0, 1] ∧ permittedHost 1 [2, 0, 0, 0, 0, 1] hostUp = true ∧
    onMgmtVlan 1 ([2, 0x5C, 0, 0, 0, 1] ++ [2, 0, 0, 0, 0, 1, 0x88, 0xB5, 0x55, 0x42, 0x01, 0x00] ++ nopPkt) hostUp = true) := by decide +kernel

theorem test_witness_transportsAdmitCommands_5 :
    (Admissible 2 nopPkt hostUp) := by unfold Admissible; decide +kernel

theorem test_witness_commandsStartAndRepliesLeave_1 :
    (startsNext (waiting 0x0000) (hand (waiting 0x0000)) = true ∧ findCmd c0 (hand (waiting 0x0000)) = some (waiting 0x0000) ∧
    startRefusal (waiting 0x0000) (hand (waiting 0x0000)) = none) := by decide

theorem test_witness_commandsStartAndRepliesLeave_2 :
    (startRefusal (waiting 0x00FF) (hand (waiting 0x00FF)) = some (stBadOpcode, []) ∧ startsNext (waiting 0x00FF) (hand (waiting 0x00FF)) = true) := by decide

theorem test_witness_commandsStartAndRepliesLeave_3 :
    (let m := { waiting 0x0000 with tr := 2 }
    knownOpcode 0 = true ∧ bitOf (trGroups (hand m) 2) 0 = false ∧ startsNext m (hand m) = true) := by decide

theorem test_witness_commandsStartAndRepliesLeave_4 :
    (let s := { hand (waiting 0x0003) with boot := { chip0.boot with tamperHold := true } }
    knownOpcode 3 = true ∧ bitOf (trGroups s 0) 0 = true ∧ holdSet 3 = false ∧ startsNext (waiting 3) s = true) := by decide

theorem test_witness_commandsStartAndRepliesLeave_5 :
    (findCmd c0 (hand (waiting 0x0000)) = some (waiting 0x0000)) := by decide

theorem test_witness_commandsStartAndRepliesLeave_6 :
    (let m := { waiting 0x0000 with done := some (0, [], 0) }
    (hand m).ubfen.cmds.find? (fun e => e.tr = 0 && e.cls = 1) = some m ∧ (hand m).ev.raised = []) := by decide

theorem test_witness_commandsStartAndRepliesLeave_7 :
    (let m := { waiting 0x0000 with tr := 1, done := some (0, [], 0), back := zeros 6 }
    let s := { hand m with pwr := { chip0.pwr with domOn := 0xFFFF }, eth := chip0.eth.upd 0 fun e => { e with link := true } }
    s.ubfen.cmds.find? (fun e => e.tr = 1 && e.cls = 1) = some m ∧ s.ev.raised = [] ∧ pdOn s 9 = true ∧ (s.eth.get 0).link = true ∧
    (mgmtFrame (m.back.take 6) (portMac 0 s) (m.back.drop 6)
      (packet 1 m.opcode m.tag.toNat m.cls m.seq.toNat 0 (uncompleted 1 s) [])).length + 4 ≤ cfgGet s 0x0C01 0x104) := by decide

theorem test_witness_eventRingRules_1 :
    (let s := raise 100 5 up
    takeRaise 100 s.ev.raised = some (⟨100, 5, 0, true, 0⟩, []) ∧ evLevel 100 = 3 ∧ s.ev.ringEn.getLsbD 100 = true ∧
    evFree s ≠ 0 ∧ inWrapOrder 100 s.ev.raised = true ∧ 16 < evFree s ∧ evLevel 1 ≠ 3 ∧ s.ev.ringEn.getLsbD 43 = false) := by decide

theorem test_witness_eventRingRules_2 :
    (let s := raise 16 0 (raise 100 5 up)
    (takeRaise 16 s.ev.raised).isSome = true ∧ inWrapOrder 16 s.ev.raised = false ∧ inWrapOrder 100 s.ev.raised = true) := by decide

theorem test_witness_eventRingRules_3 :
    (let s := { up with ev := { up.ev with overflow := true, lost := 3 } }
    s.ev.raised = [] ∧ s.ev.overflow = true ∧ 16 < evFree s ∧ s.ev.ring.length < 1024) := by decide

theorem test_witness_eventRingRules_4 :
    (let s := { up with ev := { up.ev with pushTr := 0, ring := [⟨1, 0, false, false, 0, 0, 0, true, 0⟩] } }
    pushDue s = true) := by decide

theorem test_witness_registerCommandsComplete_1 :
    (let m := tcmd 3 (wr 4 0x000000 ++ wr 2 256 ++ zeros 2)
    runnable c0 3 (trun 3 m.params up) = some m ∧ rd m.params 0 4 = 0 ∧ rd m.params 4 2 = 256 ∧
    (∀ i, i < 2 → rd m.params (6 + i) 1 = 0) ∧
    (∀ i, i < 256 → regOff up (4 * i) = false ∧ dqAt 0x0C (4 * i) = none ∧ mtimeAt (4 * i) = none)) := by decide +kernel

theorem test_witness_registerCommandsComplete_2 :
    (let m := tcmd 5 (wr 4 0x00000C ++ wr 4 0xFF ++ wr 4 1 ++ wr 4 10000000)
    runnable c0 5 (trun 5 m.params up) = some m ∧ rd m.params 0 4 = 12 ∧ dqAt 0x0C 12 = none ∧ mtimeAt 12 = none ∧
    rd m.params 12 4 = 10000000 ∧ regOff up 12 = false ∧ m.work = 0 ∧ regView up 12 &&& 0xFF ≠ 1 ∧ regView up 12 &&& 0xFF = 0) := by decide

theorem test_witness_registerCommandsComplete_3 :
    (let m := { tcmd 5 (wr 4 0x00000C ++ wr 4 0xFF ++ wr 4 1 ++ wr 4 1) with work := 3 + 2 ^ 32 * 1 }
    let s := { hand m with now := 10000 }
    runnable c0 5 s = some m ∧ m.work = 3 % 2 ^ 32 + 2 ^ 32 * (s.now + 1 - 10000) ∧ m.startedAt = some 0 ∧ 0 + 1 * nsUs ≤ s.now) := by decide

theorem test_witness_registerCommandsComplete_4 :
    (let m := tcmd 4 (wr 4 1 ++ wr 4 0x3C ++ wr 4 0xFFFFFFFF ++ wr 4 77)
    runnable c0 4 (trun 4 m.params up) = some m ∧ rd m.params 0 4 = 1 ∧ m.params.length = 16 ∧ rd m.params 4 4 = 0x30 + 4 * 3 ∧
    rd m.params 8 4 = 0xFFFFFFFF ∧ rd m.params 12 4 = 77 ∧ pdOn (trun 4 m.params up) 1 = true) := by decide

theorem test_witness_committedFieldsRefuseWrites_1 :
    (regOff up 0x0F0004 = false ∧ up.boot.committed = false) := by decide

theorem test_witness_committedFieldsRefuseWrites_2 :
    (let s := { up with boot := { up.boot with committed := true }, sys := { up.sys with lockAt := some 0 }, now := 1000000000 }
    regOff s 0x0F0004 = false ∧ s.boot.committed = true ∧ (5 : Nat) % 2 ^ 11 ≠ apcCfg s 6 ∧ (apcCfg s 6) % 2 ^ 11 = apcCfg s 6 ∧
    0 + nsSec ≤ s.now) := by decide

theorem test_witness_resetsRestartTheDevice_1 :
    (let s := { up with ubfen := { up.ubfen with resetWait := some ⟨1, 3, 0⟩ } }
    s.ubfen.resetWait = some ⟨1, 3, 0⟩ ∧ replyLeft 3 s = true) := by decide

theorem test_witness_resetsRestartTheDevice_2 :
    (let s := { up with ubfen := { up.ubfen with resetWait := some ⟨2, 3, 0⟩ } }
    s.ubfen.resetWait = some ⟨2, 3, 0⟩ ∧ replyLeft 3 s = true) := by decide

theorem test_witness_resetsRestartTheDevice_3 :
    (pdOn up 1 = true ∧ dueCauses up = [] ∧ dueCauses { up with ubfen := { up.ubfen with resetWait := some ⟨1, 3, 0⟩ } } = [3]) := by decide

theorem test_witness_resetsRestartTheDevice_4 :
    (up.boot.wait ≠ .vaon ∧ ¬ (up.boot.cause = 1 ∧ up.boot.start = up.now ∧ up.boot.stage = 0) ∧ chip0.boot.wait ≠ .vaon ∧
    chip0.boot.cause = 1 ∧ chip0.boot.start = chip0.now ∧ chip0.boot.stage = 0) := by decide

theorem test_witness_resetsRestartTheDevice_5 :
    (let s := { chip0 with boot := { chip0.boot with wait := .resetn } }
    s.boot.wait = .resetn) := by decide

theorem test_witness_resetsRestartTheDevice_6 :
    (let s := { chip0 with boot := { chip0.boot with wait := .thermal }, pwr := { chip0.pwr with coolSince := some 0 }, now := nsSec }
    s.boot.wait = .thermal ∧ s.pwr.coolSince = some 0 ∧ 0 + nsSec ≤ s.now) := by decide

theorem test_witness_resetsRestartTheDevice_7 :
    (chip0.pwr.wakeOut = true) := by decide

theorem test_witness_resetsRestartTheDevice_8 :
    (let s := { chip0 with boot := { chip0.boot with wait := .vaon } }
    s.boot.wait = .vaon ∧ lcNow s ≠ 2) := by decide

theorem test_witness_bootProceedsInStages_1 :
    (let s := { chip0 with pwr := { chip0.pwr with stage := 3 } }
    s.boot.wait = .wake ∧ s.pwr.stage = 3) := by decide

theorem test_witness_bootProceedsInStages_2 :
    (let s := { chip0 with pwr := { chip0.pwr with stage := 4 } }
    s.boot.wait = .wake ∧ s.pwr.stage = 4) := by decide

theorem test_witness_bootProceedsInStages_3 :
    (let s := { chip0 with now := stageLimit 1 }
    s.boot.wait = .wake ∧ 1 ≤ s.pwr.stage ∧ s.pwr.stageAt + stageLimit s.pwr.stage ≤ s.now ∧ s.pd0.attempts < 4) := by decide

theorem test_witness_bootProceedsInStages_4 :
    (let s := { chip0 with now := stageLimit 1, pd0 := { chip0.pd0 with attempts := 4 } }
    s.boot.wait = .wake ∧ 1 ≤ s.pwr.stage ∧ s.pwr.stageAt + stageLimit s.pwr.stage ≤ s.now ∧ 4 ≤ s.pd0.attempts) := by decide

theorem test_witness_bootProceedsInStages_5 :
    (let s := { chip0 with pwr := { chip0.pwr with stage := 0, backoff := some 0 } }
    s.boot.wait = .wake ∧ s.pwr.backoff = some 0 ∧ 0 ≤ s.now) := by decide

theorem test_witness_bootProceedsInStages_6 :
    (let s := { up with boot := { up.boot with wait := .none, step := 1 }, scs := { up.scs with lock := 15 } }
    s.boot.wait = .none ∧ s.boot.step = 1 ∧ s.scs.lock % 16 = 15 ∧ s.pd0.tampLatch = false ∧ up.scs.lock % 16 ≠ 15) := by decide

theorem test_witness_bootProceedsInStages_7 :
    (up.pd0.tampLatch = false ∧ ({ up with pair := { up.pair with settled := true } } : Chip).pair.settled = true ∧
    (stampTd { up with time := { up.time with td0 := { up.time.td0 with st := 1 } } }).st = 1 ∧ (∀ b, b < 2 → (band up b).cal = none)) := by decide

theorem test_witness_bootProceedsInStages_8 :
    (let e := up.eth.set 1 { up.eth.get 1 with link := true }
    let s := { up with boot := { up.boot with wait := .none, step := 6 }, eth := e, cfg := { up.cfg with run := [(fkey 0x0C01 (ethId 1 2), 1)] } }
    s.boot.wait = .none ∧ s.boot.step = 6 ∧ ethCfg s 1 2 = 1 ∧ (s.eth.get 1).link = true) := by decide

theorem test_witness_bootProceedsInStages_9 :
    (let s := { up with boot := { up.boot with wait := .none, step := 5 }, now := 5000 * nsMs }
    s.boot.wait = .none ∧ s.boot.step = 5 ∧ s.pair.settled = false ∧ s.boot.serdesAt + bootCfg s 3 * nsMs ≤ s.now) := by decide

theorem test_witness_bootProceedsInStages_10 :
    (let s0 := { up with sec := { up.sec with locked := { up.sec.locked with opKey := TwoCopy.both (some [1]) } } }
    let p : Bytes := [1, 0, 0, 0] ++ wr 4 0
    let m := tcmd 0x0B11 (p ++ (serialBytes s0 ++ wr 4 1 ++ zeros 4) ++ zeros 132)
    let s := trun 0x0B11 m.params s0
    (∃ x, runnable c0 0x0B11 s = some x ∧ x.params = m.params) ∧ underWay c0 s = false ∧ lcNow s ≤ 3 ∧ p.length = 8 ∧ opKey s = some [1] ∧
    later 32 1 (signedCtr s) = true ∧ rd p 0 1 = 1 ∧ (∀ i, i < 3 → rd p (1 + i) 1 = 0) ∧ rd p 4 4 = s.pd0.tampCount ∧
    s.boot.tamperHold = false ∧ (tampSet s).enA = false ∧ (tampSet s).enB = false) := by
    exact ⟨⟨_, rfl, rfl⟩, by decide⟩

theorem test_witness_configurationWriteClampsAndReports :
    (let head := wr 2 2 ++ [1, 1] ++ wr 4 0 ++ zeros 4
    let e := wr 2 1 ++ [0, 0] ++ wr 4 3601
    let p := head ++ wr 4 (crc32c head) ++ (wr 2 1 ++ [0, byte (entryCheck 0 e)] ++ wr 4 3601)
    runnable c0 0x0F01 (trun 0x0F01 p up) = some (tcmd 0x0F01 p) ∧ fN 1 60 3600 600 ∈ fieldsOf 2 ∧
    (fN 1 60 3600 600).legal.fix 3601 = (3600, 0x02) ∧ (fN 1 60 3600 600).legal.fix 3600 = (3600, 0)) := by decide +kernel

theorem test_witness_configurationCommandsComplete_1 :
    (let m := tcmd 0x0F02 [0, 0, 0, 0]
    let s := trun 0x0F02 m.params up
    runnable c0 0x0F02 s = some m ∧ rd m.params 0 1 = 0 ∧ (∀ i, i < 3 → rd m.params (1 + i) 1 = 0) ∧ s.boot.committed = false ∧
    s.boot.wait ≠ .commit ∧ ({ s with boot := { s.boot with committed := true } } : Chip).boot.committed = true) := by decide

theorem test_witness_configurationCommandsComplete_2 :
    (let m := tcmd 0x0F03 [0xFF, 0xFF, 0, 0]
    let s := { trun 0x0F03 m.params up with cfg := { up.cfg with reports := [⟨1, 0, 0, []⟩] } }
    runnable c0 0x0F03 s = some m ∧
    s.cfg.reports.find? (fun r => decide (rd m.params 0 2 = 0xFFFF ∨ r.no = rd m.params 0 2)) = some ⟨1, 0, 0, []⟩ ∧ up.cfg.reports = []) := by decide

theorem test_witness_configurationCommandsComplete_3 :
    (let m := tcmd 0x0F04 [2, 0, 0, 0]
    runnable c0 0x0F04 (trun 0x0F04 m.params up) = some m ∧ rd m.params 0 2 = 2 ∧ (∀ i, i < 2 → rd m.params (2 + i) 1 = 0) ∧
    knownType 2 = true ∧ knownType 4 = false) := by decide +kernel

theorem test_witness_configurationCommandsComplete_4 :
    (let m := tcmd 0x0F05 [0xFF, 0xFF, 0, 0]
    runnable c0 0x0F05 (trun 0x0F05 m.params up) = some m ∧ rd m.params 0 2 = 0xFFFF ∧ (∀ i, i < 2 → rd m.params (2 + i) 1 = 0) ∧
    knownType 0x0F01 = true ∧ knownType 0xFFFE = false) := by decide

theorem test_witness_configurationCommandsComplete_5 :
    (let m := tcmd 0x0F11 ([7, 2] ++ wr 2 4 ++ zeros 16)
    let s := trun 0x0F11 m.params up
    runnable c0 0x0F11 s = some m ∧ rd m.params 0 1 = 7 ∧ rd m.params 2 2 = 4 ∧ 16 + 4 ≤ m.params.length ∧ lcNow s ≠ 4 ∧
    (∀ b ∈ sectionBands 7, bandUsed s b = false) ∧ (∀ b ∈ sectionBands 4, bandUsed s b = false)) := by decide +kernel

theorem test_witness_configurationCommandsComplete_6 :
    (let m := tcmd 0x0F10 [8, 0, 0, 0]
    let s := openVault (trun 0x0F10 m.params up)
    runnable c0 0x0F10 s = some m ∧ underWay c0 s = false ∧ rd m.params 0 1 ≤ 8 ∧ (∀ i, i < 3 → rd m.params (1 + i) 1 = 0) ∧
    keyUse s 0x08 0 = .inr idKey ∧ s.sec.drbgOn = true) := by decide

theorem test_witness_imageCommandsComplete_1 :
    (let m := tcmd 0x0E00 [3, 0, 0, 0]
    let s := trun 0x0E00 m.params up
    runnable c0 0x0E00 s = some m ∧ rd m.params 0 1 = 3 ∧ (∀ i, i < 3 → rd m.params (1 + i) 1 = 0) ∧ s.img.session = none) := by decide

theorem test_witness_imageCommandsComplete_2 :
    (let m := tcmd 0x0E01 (zeros 384)
    let s := trun 0x0E01 m.params up
    runnable c0 0x0E01 s = some m ∧ m.params.length = 384 ∧ lcNow s ≠ 4 ∧ s.img.session = none ∧ inTrial s = false) := by decide +kernel

theorem test_witness_imageCommandsComplete_3 :
    (let m := tcmd 0x0E02 (wr 4 0 ++ wr 2 1 ++ zeros 2 ++ [9])
    let s := inSession (trun 0x0E02 m.params up)
    runnable c0 0x0E02 s = some m ∧ s.img.session = some ses ∧ m.params = wr 4 ses.body.length ++ wr 2 1 ++ zeros 2 ++ [9] ∧
    ses.body.length + 1 ≤ hSealed ses.header) := by decide +kernel

theorem test_witness_imageCommandsComplete_4 :
    (let m := tcmd 0x0E03 (zeros 4)
    let g : ImgSession := { ses with body := zeros 17 }
    let s := { trun 0x0E03 m.params up with img := { up.img with session := some g } }
    runnable c0 0x0E03 s = some m ∧ rd m.params 0 1 = 0 ∧ (∀ i, i < 3 → rd m.params (1 + i) 1 = 0) ∧ g.body.length = hSealed g.header) := by decide +kernel

theorem test_witness_imageCommandsComplete_5 :
    (let m := tcmd 0x0E04 [3, 0, 0, 0]
    let s := { trun 0x0E04 m.params up with img := { up.img with trialOf := some 3 } }
    runnable c0 0x0E04 s = some m ∧ rd m.params 0 1 = 3 ∧ (∀ i, i < 3 → rd m.params (1 + i) 1 = 0) ∧ s.img.trialOf = some 3 ∧
    up.img.trialOf ≠ some 3) := by decide

theorem test_witness_imageCommandsComplete_6 :
    (let m := tcmd 0x0E05 (zeros 4)
    runnable c0 0x0E05 (inSession (trun 0x0E05 m.params up)) = some m ∧ (∀ i, i < 4 → rd m.params (0 + i) 1 = 0)) := by decide

theorem test_witness_imageCommandsComplete_7 :
    (let s := { inSession up with now := 60 * nsSec }
    s.img.session = some ses ∧ ses.at_ + 60 * nsSec ≤ s.now) := by decide +kernel

theorem test_witness_imageCommandsComplete_8 :
    (let s := { up with img := { up.img with trialOf := some 0 }, boot := { up.boot with loaded := true } }
    s.img.trialOf ≠ none ∧ s.boot.loaded = true ∧ s.img.confirmDue ≤ s.now) := by decide

theorem test_witness_imageCommandsComplete_9 :
    (let s := { up with img := { up.img with appLoad := 1, running := Tab.const (some false) }, sys := { up.sys with dramTrained := true } }
    s.img.appLoad = 1 ∧ pdOn s 10 = true ∧ bitOf s.pd0.latch 10 = false ∧ s.sys.dramTrained = true ∧
    appImage s = some ⟨[], [], true, false⟩) := by decide

theorem test_witness_powerAndRtcCommandsComplete_1 :
    (let m := tcmd 0x0100 (zeros 4)
    runnable c0 0x0100 (trun 0x0100 m.params up) = some m ∧ (∀ i, i < 4 → rd m.params (0 + i) 1 = 0)) := by decide

theorem test_witness_powerAndRtcCommandsComplete_2 :
    (let m := tcmd 0x0102 (zeros 6 ++ zeros 2)
    runnable c0 0x0102 (trun 0x0102 m.params up) = some m ∧ rd m.params 0 6 = 0 ∧ (∀ i, i < 2 → rd m.params (6 + i) 1 = 0)) := by decide

theorem test_witness_powerAndRtcCommandsComplete_3 :
    (let m := tcmd 0x0103 (wr 6 9 ++ [1, 0])
    runnable c0 0x0103 (trun 0x0103 m.params up) = some m ∧ rd m.params 0 6 = 9 ∧ rd m.params 6 1 = 1 ∧ (∀ i, i < 1 → rd m.params (7 + i) 1 = 0)) := by decide

theorem test_witness_powerAndRtcCommandsComplete_4 :
    (let m := tcmd 0x0104 ([0xFF, 0x0F] ++ zeros 2)
    let s := { trun 0x0104 m.params up with pd0 := { up.pd0 with latch := 0xFFF } }
    runnable c0 0x0104 s = some m ∧ rd m.params 0 2 = 0xFFF ∧ (∀ i, i < 2 → rd m.params (2 + i) 1 = 0) ∧ s.pd0.latch < 2 ^ 12) := by decide

theorem test_witness_powerAndRtcCommandsComplete_5 :
    (let m := tcmd 0x0105 ([255, 0] ++ zeros 2)
    runnable c0 0x0105 (trun 0x0105 m.params up) = some m ∧ rd m.params 0 2 = 255 ∧ (∀ i, i < 2 → rd m.params (2 + i) 1 = 0)) := by decide

theorem test_witness_powerAndRtcCommandsComplete_6 :
    (let m := tcmd 0x0106 (zeros 4)
    runnable c0 0x0106 (trun 0x0106 m.params up) = some m ∧ (∀ i, i < 4 → rd m.params (0 + i) 1 = 0) ∧ up.health.checked = none ∧ 4 ≤ up.boot.stage) := by decide

theorem test_witness_powerAndRtcCommandsComplete_7 :
    (let s := { up with health := { up.health with checked := some 0 }, pd0 := { up.pd0 with rtc := 86400 * nsSec } }
    s.health.checked = some 0 ∧ 0 + 86400 ≤ rtcSec s ∧ 4 ≤ s.boot.stage ∧ 1 ≤ rtcSec s ∧ rtcSec s < 1 + 86400) := by decide

theorem test_witness_monitorsAndVoltageLoop_1 :
    (let s := { up with pwr := { up.pwr with loopOn := true, voutCheck := some 800, fails := 2, above := 99 } }
    pdOn s 1 = true ∧ (∀ k, k < 6 → s.pwr.due.get k ≤ s.now) ∧ s.pwr.loopOn = true ∧ s.pwr.pmbusFault = false ∧ s.pwr.voutCheck = some 800 ∧ s.pwr.fails = 2 ∧
    limFree 12 0 nsSec s = true) := by decide

theorem test_witness_monitorsAndVoltageLoop_2 :
    (let s := { up with pwr := { up.pwr with pmbusFault := true } }
    s.pwr.pmbusFault = true ∧ limFree 12 1 (100 * nsMs) s = true) := by decide

theorem test_witness_monitorsAndVoltageLoop_3 :
    (up.pwr.hot = false ∧ pdOn up 1 = true ∧ [1, 2, 3, 4, 5, 6, 7, 8].length = 8) := by decide

theorem test_witness_monitorsAndVoltageLoop_4 :
    (let s := { up with cfg := { up.cfg with run := [(fkey 0x0101 2, 1)] }, now := nsSec }
    pdOn s 1 = true ∧ pwrCfg s 2 ≠ 0 ∧ (0x20 : Byte).getLsbD 5 ≠ s.pwr.uv ∧ (0 : Byte).getLsbD 5 = s.pwr.uv ∧ nsSec ≤ s.now) := by decide

theorem test_witness_powerTransitionsPrepareAndVote_1 :
    (let m := tcmd 0x0101 ([0, 0, 0, 0] ++ zeros 12)
    let s := trun 0x0101 m.params up
    runnable c0 0x0101 s = some m ∧ s.pwr.trans = none ∧ rd m.params 0 1 = 0 ∧ (∀ i, i < 3 → rd m.params (5 + i) 1 = 0) ∧
    (∀ i, i < 2 → rd m.params (14 + i) 1 = 0) ∧ powerSet m.params = powerNow s) := by decide

theorem test_witness_powerTransitionsPrepareAndVote_2 :
    (let m := tcmd 0x0101 ([1, 3, 0xFF, 0x7F, 3] ++ zeros 11)
    let s := trun 0x0101 m.params up
    runnable c0 0x0101 s = some m ∧ rd m.params 0 1 = 1 ∧ rd m.params 1 1 = 3 ∧ rd m.params 3 1 < 128 ∧ rd m.params 4 1 = 3 ∧
    (∀ n, n < 8 → (coreOf s n).st ≤ 1) ∧ goesDown (powerSet m.params) s ≠ (0, 0, 0)) := by decide

theorem test_witness_powerTransitionsPrepareAndVote_3 :
    (let m := tcmd 0x0101 ([3, 2] ++ zeros 14)
    let s := trun 0x0101 m.params up
    runnable c0 0x0101 s = some m ∧ rd m.params 0 1 = 3 ∧ calmAlarmBad m.params s = false ∧ goesDown (powerSet m.params) s ≠ (0, 0, 0)) := by decide

theorem test_witness_powerTransitionsPrepareAndVote_4 :
    (let s := { up with pwr := { up.pwr with uv := true }, now := 100000 * nsMs, cfg := { up.cfg with run := [(fkey 0x0101 2, 1)] } }
    pdOn s 1 = true ∧ pwrCfg s 2 = 1 ∧ s.pwr.uv = true ∧ s.pwr.uvSince + pwrCfg s 3 * nsMs ≤ s.now ∧ s.pwr.trans = none ∧ s.pwr.state < 2 ∧
    4 ≤ s.boot.stage ∧ s.pwr.domOn = 0xFFF ∧ pwrCfg s 5 ≤ 1) := by decide

theorem test_witness_powerTransitionsPrepareAndVote_5 :
    (let s := inTrans goTrans up
    s.pwr.trans = some goTrans ∧ 0 ∉ goTrans.yes ∧ 0 ∈ votersOf goTrans ∧ refuses goTrans s 0 = none ∧ drained goTrans s 0 = true ∧
    ∃ x, x ∈ votersOf goTrans ∧ x ≠ 0 ∧ x ∉ goTrans.yes) := by
    exact ⟨rfl, by decide, by decide, by decide, by decide, 13, by decide⟩

theorem test_witness_powerTransitionsPrepareAndVote_6 :
    (let t := { goTrans with yes := [0, 13, 14, 16] }
    let s := inTrans t up
    (∀ x, x ∈ votersOf t → x ≠ 17 → x ∈ t.yes) ∧ 17 ∉ t.yes ∧ 17 ∈ votersOf t ∧ refuses t s 17 = none ∧ drained t s 17 = true ∧
    (findCmd c0 s).isSome = true ∧ t.target ≠ 3) := by decide

theorem test_witness_powerTransitionsPrepareAndVote_7 :
    (let t := { goTrans with target := 3, down := 0xFFE }
    let s := inSession (inTrans t up)
    refuses t s 0 = some 5 ∧ t.force = false ∧ 0 ∈ votersOf t ∧ (findCmd c0 s).isSome = true) := by decide

theorem test_witness_powerTransitionsPrepareAndVote_8 :
    (let t := { goTrans with down := 0x202 }
    let s := { inTrans t up with pair := { up.pair with owner := true, st := 3 }, now := nsMs }
    voteLimit s 13 = some (nsMs, 8) ∧ drained t s 13 = false ∧ t.startedAt + nsMs ≤ s.now ∧ 13 ∈ votersOf t ∧ t.force = false ∧
    (findCmd c0 s).isSome = true ∧ (∀ x, x < 18 → refuses t s x = none)) := by decide

theorem test_witness_powerTransitionsPrepareAndVote_9 :
    (let t := { goTrans with target := 3, voted := true }
    let s := { inTrans t up with ubfen := up.ubfen }
    s.pwr.trans = some t ∧ replyLeft t.cmdNo s = true) := by decide

theorem test_witness_powerTransitionsPrepareAndVote_10 :
    (let s := { chip0 with pd0 := { chip0.pd0 with alarmEn := true }, boot := { chip0.boot with wait := .calm } }
    s.pd0.alarmEn = true ∧ s.pd0.alarmDone = false ∧ s.pd0.alarmSec * nsSec ≤ s.pd0.rtc ∧ s.boot.wait = .calm ∧ s.pwr.faultn = false ∧
    ({ s with pwr := { s.pwr with faultn := true } } : Chip).pwr.faultn = true) := by decide

theorem test_witness_powerTransitionsPrepareAndVote_11 :
    (let s := { inTrans { goTrans with target := 3 } up with pd0 := { up.pd0 with alarmEn := true } }
    s.pd0.alarmEn = true ∧ s.pd0.alarmSec * nsSec ≤ s.pd0.rtc ∧ s.boot.wait ≠ .calm ∧ pdOn up 1 = true ∧ up.pwr.trans = none) := by decide

theorem test_witness_powerTransitionsPrepareAndVote_12 :
    (let s := { chip0 with pd0 := { chip0.pd0 with alarmHeld := true }, boot := { chip0.boot with wait := .calm }, now := nsMs }
    s.boot.wait = .calm ∧ s.pd0.alarmHeld = true ∧ s.pwr.wakeLow + nsMs ≤ s.now) := by decide

theorem test_witness_powerSetIsEntered_1 :
    (let t := { goTrans with voted := true, cmd := none }
    (inTrans t up).pwr.trans = some t ∧ t.target < 3) := by decide

theorem test_witness_powerSetIsEntered_2 :
    (let s := { up with pwr := { up.pwr with before := some (0, 0xFFF, 0, 0), autoLull := true, state := 2, portsOff := 7, coresOff := 0xFF }, now := 100000 * nsSec }
    s.pwr.uvSince + pwrCfg s 4 * nsSec ≤ s.now ∧ goesDown ⟨0, 0xFFF, 0, 0, 0, false⟩ s = (0, 0, 0)) := by decide

theorem test_witness_gustPostsAndDispatches_1 :
    (let s := gustUp
    coreLive s 7 = true ∧ (coreOf s 7).stop = none ∧ (coreOf s 7).act = none ∧ (coreOf s 7).hold = false ∧ pickTask s 7 = some (4095, gustTask) ∧
    gustTask.ring = [(9, 0)]) := by decide

theorem test_witness_gustPostsAndDispatches_2 :
    (coreLive gustUp 7 = true ∧ (task gustUp 4095).en = true ∧ (task gustUp 4095).ring.length < (task gustUp 4095).depth ∧ (task gustUp 0).en = false ∧
    pickTask { gustUp with apc := { gustUp.apc with tasks := Tab.const Task.reset } } 7 = none ∧
    lookupIn gustUp.ev.limits (limKey 119 799) = none) := by decide

theorem test_witness_gustPostsAndDispatches_3 :
    (let s := { gustUp with apc := { gustUp.apc with tasks := gustUp.apc.tasks.set 4095 { gustTask with depth := 1 }, unposted := Tab.const 1 } }
    let q := { s.dq.get 23 with fresh := 1 }
    boundTask s 23 = some (4095, { gustTask with depth := 1 }) ∧ 0 < q.fresh ∧ (task s 4095).depth ≤ (task s 4095).ring.length ∧
    pdOn s 2 = true ∧ s.apc.unposted.get 23 ≠ 0 ∧ boundTask gustUp 23 = some (4095, gustTask) ∧ gustUp.apc.unposted.get 23 = 0) := by decide

theorem test_witness_gustPostsAndDispatches_4 :
    (let m := tcmd 0x0C03 (wr 2 4095 ++ [3, 7, 255, 23] ++ wr 2 256 ++ zeros 8)
    let s := trun 0x0C03 m.params gustUp
    runnable c0 0x0C03 s = some m ∧ m.params = wr 2 4095 ++ wr 1 3 ++ wr 1 7 ++ wr 1 255 ++ wr 1 23 ++ wr 2 256 ++ m.params.drop 8 ∧
    depthOthers s 4095 + 256 ≤ 65536 ∧ (task s 4095).ring.length ≤ 256 ∧ (∀ e ∈ s.apc.tasks.ents, e.1 ≠ 4095 → e.2.bind ≠ 23)) := by decide

theorem test_witness_gustPostsAndDispatches_5 :
    (let m := tcmd 0x0C04 (wr 2 3596 ++ wr 2 500 ++ zeros 4)
    runnable c0 0x0C04 (trun 0x0C04 m.params up) = some m ∧ rd m.params 0 2 = 3596 ∧ rd m.params 2 2 = 500 ∧ rd m.params 4 1 = 0 ∧
    (∀ i, i < 3 → rd m.params (5 + i) 1 = 0)) := by decide

theorem test_witness_gustPostsAndDispatches_6 :
    (let m := tcmd 0x0C05 (wr 2 4095 ++ zeros 14)
    runnable c0 0x0C05 (trun 0x0C05 m.params gustUp) = some m ∧ rd m.params 0 2 = 4095 ∧ (∀ i, i < 6 → rd m.params (2 + i) 1 = 0) ∧
    (task up 4095).en = false ∧ (task gustUp 4095).en = true) := by decide

theorem test_witness_clusterCoresCountersAndTimer_1 :
    (let m := tcmd 0x0C00 (zeros 4)
    runnable c0 0x0C00 (trun 0x0C00 m.params up) = some m ∧ (∀ i, i < 4 → rd m.params (0 + i) 1 = 0)) := by decide

theorem test_witness_clusterCoresCountersAndTimer_2 :
    (let m := tcmd 0x0C06 [7, 0, 0, 0]
    runnable c0 0x0C06 (trun 0x0C06 m.params up) = some m ∧ rd m.params 0 1 = 7 ∧ (∀ i, i < 3 → rd m.params (1 + i) 1 = 0)) := by decide

theorem test_witness_clusterCoresCountersAndTimer_3 :
    (let m := tcmd 0x0C07 ([7, 0] ++ wr 2 514 ++ wr 2 510 ++ zeros 2)
    runnable c0 0x0C07 (trun 0x0C07 m.params up) = some m ∧ rd m.params 0 1 = 7 ∧ rd m.params 2 2 = 514 ∧ rd m.params 4 2 = 510 ∧
    rd m.params 1 1 = 0 ∧ (∀ i, i < 2 → rd m.params (6 + i) 1 = 0)) := by decide

theorem test_witness_clusterCoresCountersAndTimer_4 :
    (let m := tcmd 0x0C01 ([7] ++ zeros 7 ++ wr 8 0x80000000 ++ wr 8 1)
    let s := { trun 0x0C01 m.params up with sys := { up.sys with dramSize := 1 } }
    runnable c0 0x0C01 s = some m ∧ rd m.params 0 1 = 7 ∧ (∀ i, i < 7 → rd m.params (1 + i) 1 = 0) ∧ inDram s (rd m.params 8 8) = true ∧
    (coreOf s 7).st = 1 ∧ (coreOf gustUp 7).st ≠ 1 ∧ (coreOf gustUp 7).st ≠ 4) := by decide

theorem test_witness_clusterCoresCountersAndTimer_5 :
    (let m := tcmd 0x0C02 [7, 0, 0, 0]
    runnable c0 0x0C02 (trun 0x0C02 m.params gustUp) = some m ∧ rd m.params 0 1 = 7 ∧ rd m.params 1 1 = 0 ∧ (∀ i, i < 2 → rd m.params (2 + i) 1 = 0) ∧
    (coreOf gustUp 7).st = 2 ∧ (coreOf gustUp 7).stop = none ∧ rd [7, 1, 0, 0] 1 1 = 1 ∧ coreLive gustUp 7 = true ∧ (coreOf up 7).st = 1) := by decide

theorem test_witness_clusterCoresCountersAndTimer_6 :
    (let s := coreUpd 7 (fun k => { k with stop := some (c0, 0) }) { hand (tcmd 0x0C02 []) with now := nsSec }
    (coreOf s 7).stop = some (c0, 0) ∧ (findCmd c0 s).isSome = true ∧ 0 + nsSec ≤ s.now) := by decide

theorem test_witness_clusterCoresCountersAndTimer_7 :
    (let s := coreUpd 7 (fun k => { k with act := some ⟨4095, 9, 0⟩, sEn := true })
      { gustUp with now := 10 * nsMs, cfg := { up.cfg with run := [(fkey 0x0F01 4, 10), (fkey 0x0F01 5, 2)] } }
    coreLive s 7 = true ∧ (coreOf s 7).act = some ⟨4095, 9, 0⟩ ∧ (coreOf s 7).wd = false ∧ apcCfg s 4 = 10 ∧ 0 + apcCfg s 4 * nsMs ≤ s.now ∧
    apcCfg s 5 = 2 ∧ apcCfg gustUp 5 ≠ 2 ∧ (coreOf s 7).sEn = true ∧ (coreOf s 7).latch = none ∧ (coreOf s 7).samples.length < 1023) := by decide

theorem test_witness_clusterCoresCountersAndTimer_8 :
    (let c := { coreOf gustUp 7 with ev := Tab.const (2 ^ 11), ctr := Tab.const 0xFFFFFFFE }
    chained c 4 = true ∧ chained c 10 = true ∧ chained c 11 = false ∧ c.ctr.get 4 < 0xFFFFFFFF ∧ chained (coreOf gustUp 7) 4 = false ∧ ({ c with latch := some (4, 3) } : Core).latch = some (4, 3)) := by decide

theorem test_witness_clusterCoresCountersAndTimer_9 :
    (let s := { gustUp with apc := { gustUp.apc with loadSec := 1 } }
    pdOn s 2 = true ∧ (stampTd s).sec ≠ s.apc.loadSec) := by decide

theorem test_witness_clusterCoresCountersAndTimer_10 :
    (pdOn gustUp 2 = true ∧ (coreOf gustUp 7).mtimecmp.toNat ≤ (stampTd gustUp).ns % 2 ^ 64 ∧ mtimeReach .executive gustUp = true ∧
    mtimeReach (.core 7) gustUp = true ∧ gustUp.apc.held.get (mtimeKey (.core 7) 7) = none) := by decide

theorem test_witness_timeCommandsComplete_1 :
    (let m := tcmd 0x0200 (zeros 4)
    runnable c0 0x0200 (trun 0x0200 m.params up) = some m ∧ (∀ i, i < 4 → rd m.params (0 + i) 1 = 0)) := by decide

theorem test_witness_timeCommandsComplete_2 :
    (let m := tcmd 0x0201 [1, 0, 0, 0]
    runnable c0 0x0201 (trun 0x0201 m.params up) = some m ∧ rd m.params 0 1 = 1 ∧ (∀ i, i < 3 → rd m.params (1 + i) 1 = 0)) := by decide

theorem test_witness_timeCommandsComplete_3 :
    (let m := tcmd 0x0202 ([1, 0, 0, 0] ++ wr 6 3 ++ wr 4 999999999 ++ zeros 2)
    let s := trun 0x0202 m.params up
    runnable c0 0x0202 s = some m ∧ rd m.params 0 1 = 1 ∧ rd m.params 1 1 = 0 ∧ (∀ i, i < 2 → rd m.params (2 + i) 1 = 0) ∧ rd m.params 4 6 = 3 ∧
    rd m.params 10 4 = 999999999 ∧ (∀ i, i < 2 → rd m.params (14 + i) 1 = 0) ∧ launches s = [] ∧ (tdGet s 1).st ≠ 1 ∧
    ¬ ((((3 * nsSec + 999999999) * 2 ^ 32 : Nat) : Int) - ((tdGet s 1).t : Int)).natAbs ≤ cfgGet s 0x0201 (tdId 1 15) * 2 ^ 32) := by decide +kernel

theorem test_witness_timeCommandsComplete_4 :
    (let m := tcmd 0x0203 ([1, 1, 0, 0] ++ wr 8 1 ++ wr 4 10000000)
    let s := { trun 0x0203 m.params up with cfg := { up.cfg with run := [(fkey 0x0201 0x12C, 0)] } }
    runnable c0 0x0203 s = some m ∧ rd m.params 0 1 = 1 ∧ (∀ i, i < 1 → rd m.params (3 + i) 1 = 0) ∧ rd m.params 4 8 = 1 ∧ servoEn s 1 = false ∧
    rd m.params 12 4 = 10000000 ∧ rd m.params 1 1 = 1 ∧ rd m.params 2 1 = 0 ∧ (tdGet s 1).st ≠ 1) := by decide

theorem test_witness_timeCommandsComplete_5 :
    (let m := tcmd 0x0204 ([1, 1, 0, 0] ++ wr 6 0 ++ wr 4 5 ++ zeros 2)
    let s := trun 0x0204 m.params up
    runnable c0 0x0204 s = some m ∧ rd m.params 0 1 = 1 ∧ rd m.params 1 1 = 1 ∧ (∀ i, i < 2 → rd m.params (2 + i) 1 = 0) ∧
    rd m.params 10 4 < nsSec ∧ (∀ i, i < 2 → rd m.params (14 + i) 1 = 0) ∧ s.time.switch = none ∧ (tdGet s 1).st ≠ 1) := by decide

theorem test_witness_timeCommandsComplete_6 :
    (let s := { hand (tcmd 0x0204 []) with time := { up.time with switch := some ⟨1, 0, 0, 7⟩ } }
    0 ≤ (tdGet s 1).ns ∧ (findCmd c0 s).isSome = true) := by decide

theorem test_witness_timeCommandsComplete_7 :
    (let m := tcmd 0x0205 ([15, 3, 0, 0] ++ wr 6 0 ++ wr 4 5 ++ zeros 2 ++ wr 8 1000)
    runnable c0 0x0205 (trun 0x0205 m.params up) = some m ∧ rd m.params 0 1 = 15 ∧ rd m.params 1 1 = 3 ∧
    (∀ i, i < 2 → rd m.params (2 + i) 1 = 0) ∧ rd m.params 10 4 < nsSec ∧ (∀ i, i < 2 → rd m.params (14 + i) 1 = 0) ∧ rd m.params 16 8 = 1000) := by decide

theorem test_witness_timeCommandsComplete_8 :
    (let s := { up with time := { up.time with alarms := Tab.const ⟨true, 1, 0, 1000⟩ } }
    pdOn s 11 = true ∧ (s.time.alarms.get 15).en = true ∧ (s.time.alarms.get 15).at_ ≤ (tdGet s 1).ns ∧ (s.time.alarms.get 15).period ≠ 0) := by decide

theorem test_witness_ptpAndTimeKeeping_1 :
    (let s := { up with time := { up.time with wraps := 1 } }
    pdOn s 11 = true ∧ (stampTd s).ns / 2 ^ 32 % 2 ^ 32 ≠ s.time.wraps) := by decide

theorem test_witness_ptpAndTimeKeeping_2 :
    (let s := { up with time := { up.time with td0 := { up.time.td0 with st := 1, t := 30517 * 2 ^ 32 } } }
    pdOn s 11 = true ∧ (stampTd s).st = 1 ∧ (stampTd s).sec % 60 = 0 ∧ (stampTd s).nsPart = 30517) := by decide

theorem test_witness_ptpAndTimeKeeping_3 :
    (let s := { up with time := { up.time with td1 := { up.time.td1 with tempEnd := some 0 } } }
    (tdGet s 1).tempEnd = some 0 ∧ 0 ≤ s.now) := by decide

theorem test_witness_ptpAndTimeKeeping_4 :
    (let m := tcmd 0x0206 [1, 0, 0, 0]
    runnable c0 0x0206 (trun 0x0206 m.params up) = some m ∧ rd m.params 0 1 = 1 ∧ (∀ i, i < 3 → rd m.params (1 + i) 1 = 0)) := by decide

theorem test_witness_ptpAndTimeKeeping_5 :
    (ptpLink ptpUp 1 1 = true ∧ (tdGet ptpUp 1).servo.announce.get 1 = some 0 ∧
    0 + cfgGet ptpUp 0x0201 (tdId 1 8) * logInterval (cfgGetI ptpUp 0x0201 (tdId 1 7)) ≤ ptpUp.now ∧
    (tdGet ptpUp 1).servo.foreign.get 0 = none ∧ servoEn ptpUp 1 = true ∧ (tdGet ptpUp 1).st = 1 ∧
    (tdGet ptpUp 1).servo.lastSync + 4 * logInterval (cfgGetI ptpUp 0x0201 (tdId 1 6)) ≤ ptpUp.now) := by decide

theorem test_witness_ptpAndTimeKeeping_6 :
    (let a : Announce := ⟨0, 0, 0, 0, 0, 1, 255, 1, 1⟩
    let s := servoUpd 1 (fun v => { v with heard := v.heard.set 1 (some a) }) ptpUp
    (tdGet s 1).servo.heard.get 1 = some a ∧ 255 ≤ a.steps) := by decide

theorem test_witness_ptpAndTimeKeeping_7 :
    (∃ a : Announce, let s := servoUpd 1 (fun v => { v with heard := v.heard.set 1 (some a) }) ptpUp
    let v := (tdGet s 1).servo
    v.heard.get 1 = some a ∧ a.sender ≠ Config.clockId 1 ∧ a.steps < 255 ∧
    bestForeign { v with foreign := v.foreign.set 1 (some a) } = some (1, a) ∧ (ownSet s 1).better a = false) := by
    refine ⟨⟨0, 0, 0, 0, 0, Config.clockId 1 + 1, 0, Config.clockId 1 + 1, 1⟩, ?_, ?_, by decide, ?_, ?_⟩
    · rfl
    · intro h
      bv_omega
    · rfl
    · have h : ¬ (Config.clockId 1 = Config.clockId 1 + 1) := by
        intro h
        bv_omega
      have h2 : ¬ (Config.clockId 1 + 1 = Config.clockId 1) := by
        intro h
        bv_omega
      simp [Announce.better, ownSet, lexLess]

theorem test_witness_ptpAndTimeKeeping_8 :
    (∃ gm : BitVec 64, some gm ≠ some (Config.clockId 0) ∧ servoEn { up with cfg := { up.cfg with run := [(fkey 0x0201 0x10C, 0)] } } 0 = false) := by
    refine ⟨Config.clockId 0 + 1, ?_, by decide⟩
    intro h
    have := Option.some.inj h
    bv_omega

theorem test_witness_ptpAndTimeKeeping_9 :
    (let x : SyncIn := ⟨7, 1, 5 * 65536, 0, some 0⟩
    let s := servoUpd 1 (fun v => { v with sync := some x, gm := some 5 }) ptpUp
    ptpLink s 1 1 = true ∧ (tdGet s 1).servo.gmPort = 1 ∧ (tdGet s 1).servo.gm ≠ none ∧ (tdGet s 1).servo.sync = some x ∧ x.port = 1) := by decide

theorem test_witness_ptpAndTimeKeeping_10 :
    (let v := { (tdGet ptpUp 1).servo with gm := some (Config.clockId 1) }
    portState { ptpUp with time := { ptpUp.time with td1 := { ptpUp.time.td1 with servo := v } } } 1 1 = 6) := by
    simp [portState, tdGet, ptpUp, ptpOn]
    decide

theorem test_witness_ptpAndTimeKeeping_11 :
    (let e := Tab.const { EthPort.reset with link := true }
    let s := { up with eth := e, cfg := { up.cfg with run := [(fkey 0x0201 2, 1)] } }
    let f := zeros 12 ++ [0x88, 0xF7] ++ zeros 44
    tcActive s = true ∧ ptpTransport f = some 0 ∧
    ({ s with time := { s.time with tcIn := (Tab.const []).set 1 [(f, 0)] } }).time.tcIn.get 1 = [(f, 0)]) := by decide

theorem test_witness_securityReadsAndEntropy_1 :
    (let m := tcmd 0x0B00 (zeros 4)
    runnable c0 0x0B00 (trun 0x0B00 m.params up) = some m ∧ (∀ i, i < 4 → rd m.params (0 + i) 1 = 0)) := by decide

theorem test_witness_securityReadsAndEntropy_2 :
    (let m := tcmd 0x0B07 (wr 4 0x3FFFF)
    let s := trun 0x0B07 m.params (secUp [keyOf 0x3FFFF 3 0 3])
    runnable c0 0x0B07 s = some m ∧ underWay c0 s = false ∧ lcNow s = 1 ∧ rd m.params 0 4 = 0x3FFFF ∧ (findKey s 0x3FFFF).isSome = true ∧
    findKey (trun 0x0B07 m.params (secUp [])) 0x3FFFF = none) := by decide

theorem test_witness_securityReadsAndEntropy_3 :
    (let m := tcmd 0x0B0D (wr 4 0x10)
    let s := trun 0x0B0D m.params (secUp [{ keyOf 0x10 4 1 1 with mat := zeros 133 }])
    runnable c0 0x0B0D s = some m ∧ rd m.params 0 4 = 0x10 ∧ s.sec.vault = 1 ∧ (findKey s 0x10).any (fun k => k.typ = 4 ∧ k.mat.length = 133) = true ∧
    orphaned 5 s 0x10 = false ∧ up.sec.vault ≠ 1) := by decide +kernel

theorem test_witness_securityReadsAndEntropy_4 :
    (let m := tcmd 0x0B10 [31, 0, 0, 0]
    runnable c0 0x0B10 (trun 0x0B10 m.params up) = some m ∧ rd m.params 0 1 = 31 ∧ (∀ i, i < 3 → rd m.params (1 + i) 1 = 0)) := by decide

theorem test_witness_securityReadsAndEntropy_5 :
    (let m := tcmd 0x0B23 (zeros 4)
    runnable c0 0x0B23 (trun 0x0B23 m.params up) = some m ∧ (∀ i, i < 4 → rd m.params (0 + i) 1 = 0)) := by decide

theorem test_witness_securityReadsAndEntropy_6 :
    (let m := tcmd 0x0B0B [0, 16, 0, 0]
    let s := trun 0x0B0B m.params (secUp [])
    runnable c0 0x0B0B s = some m ∧ rd m.params 0 2 = 4096 ∧ (∀ i, i < 2 → rd m.params (2 + i) 1 = 0) ∧ s.sec.drbgOn = true ∧ up.sec.drbgOn = false) := by decide

theorem test_witness_securityReadsAndEntropy_7 :
    (let s := { secUp [] with sec := { (secUp []).sec with drbgReqs := 65536 } }
    s.sec.drbgOn = true ∧ 65536 ≤ s.sec.drbgReqs) := by decide

theorem test_witness_securityReadsAndEntropy_8 :
    (pdOn up 1 = true ∧ up.sec.drbgOn = false) := by decide

theorem test_witness_securityReadsAndEntropy_9 :
    (let s := { loopUp with sec := { loopUp.sec with loops := Tab.const ⟨0, 1, 2, 0⟩ } }
    s.boot.wait ≠ .vaon ∧ (tampSet s).enB = true ∧ loopClass 100001 (tampSet s).baseB (tampSet s).delta = 1 ∧ (s.sec.loops.get 1).cond = 1 ∧
    (s.sec.loops.get 1).row + 1 = 3 ∧ s.boot.tamperHold = false ∧ s.boot.step = 0 ∧ 4 ≤ s.boot.stage ∧ s.sec.vault = 1 ∧ pdOn s 1 = true ∧
    loopClass 1000 (tampSet s).baseB (tampSet s).delta = 0 ∧ loopClass 19 (tampSet s).baseB (tampSet s).delta = 2) := by decide

theorem test_witness_lockedRegionWrites_1 :
    (let m := tcmd 0x0B12 [3, 50, 0, 0]
    let s := trun 0x0B12 m.params (secUp [])
    runnable c0 0x0B12 s = some m ∧ underWay c0 s = false ∧ lcNow s = 1 ∧ rd m.params 0 1 = 3 ∧ rd m.params 1 1 = 50 ∧
    (∀ i, i < 2 → rd m.params (2 + i) 1 = 0) ∧ bitOf 3 0 = true ∧ bitOf 3 1 = true ∧
    (List.replicate 64 100).foldl (· + ·) 0 / 64 = 100 ∧ (List.replicate 64 5000).foldl (· + ·) 0 / 64 = 5000 ∧
    (List.replicate 64 99).foldl (· + ·) 0 / 64 < 100) := by decide +kernel

theorem test_witness_lockedRegionWrites_2 :
    (let m := tcmd 0x0B20 [4, 0, 0, 0]
    let s := trun 0x0B20 m.params (secUp [keyOf 64 3 0 3])
    runnable c0 0x0B20 s = some m ∧ underWay c0 s = false ∧ (∀ i, i < 3 → rd m.params (1 + i) 1 = 0) ∧ lcNow s = 1 ∧ rd m.params 0 1 = 4) := by decide

theorem test_witness_lockedRegionWrites_3 :
    (let m := tcmd 0x0B20 [1, 0, 0, 0]
    let s := lcUp 3 (trun 0x0B20 m.params (secUp []))
    runnable c0 0x0B20 s = some m ∧ underWay c0 s = false ∧ (∀ i, i < 3 → rd m.params (1 + i) 1 = 0) ∧ lcNow s = 3 ∧ rd m.params 0 1 = 1 ∧
    lcMove (lcNow (lcUp 2 s)) 1 = none) := by decide

theorem test_witness_lockedRegionWrites_4 :
    (let m := tcmd 0x0B20 ([2, 0, 0, 0] ++ wr 8 0 ++ wr 4 1 ++ zeros 136)
    let u := { secUp [] with sys := { (secUp []).sys with serial := 0 }
                             sec := { (secUp []).sec with locked := { (secUp []).sec.locked with opKey := TwoCopy.both (some [4]) } } }
    let s := trun 0x0B20 m.params u
    runnable c0 0x0B20 s = some m ∧ underWay c0 s = false ∧ lcNow s = 1 ∧ s.sys.debugRoot = false ∧ m.params.length = 152 ∧ rd m.params 0 1 = 2 ∧
    (∀ i, i < 3 → rd m.params (1 + i) 1 = 0) ∧ (m.params.drop 4).take 8 = wr 8 s.sys.serial.toNat ∧
    later 32 (rd m.params 12 4) (signedCtr s) = true ∧ opKey s = some [4]) := by decide +kernel

theorem test_witness_lockedRegionWrites_5 :
    (let m := tcmd 0x0B21 ([4] ++ zeros 135)
    let s := trun 0x0B21 m.params (secUp [])
    runnable c0 0x0B21 s = some m ∧ underWay c0 s = false ∧ lcNow s = 1 ∧ 133 ≤ m.params.length ∧ (∀ i, i < 3 → rd m.params (133 + i) 1 = 0) ∧
    s.sec.vault = 1) := by decide +kernel

theorem test_witness_lockedRegionWrites_6 :
    (let m := tcmd 0x0B22 [1, 0, 0, 0, 9]
    let s := trun 0x0B22 m.params (secUp [])
    runnable c0 0x0B22 s = some m ∧ underWay c0 s = false ∧ lcNow s = 1 ∧ rd m.params 0 2 = 1 ∧ 4 + 1 ≤ m.params.length ∧
    (∀ i, i < 2 → rd m.params (2 + i) 1 = 0)) := by decide

theorem test_witness_lockedRegionWrites_7 :
    (let m := tcmd 0x0B24 [1, 0, 0, 0]
    let s := trun 0x0B24 m.params (secUp [])
    runnable c0 0x0B24 s = some m ∧ underWay c0 s = false ∧ lcNow s = 1 ∧ rd m.params 0 1 = 1 ∧ (∀ i, i < 3 → rd m.params (1 + i) 1 = 0)) := by decide

theorem test_witness_keyOperationsAreSubmitted_1 :
    (let m := tcmd 0x0B01 ([3, 0, 1, 0] ++ wr 4 0)
    let s := trun 0x0B01 m.params (secUp [])
    runnable c0 0x0B01 s = some m ∧ underWay c0 s = false ∧ lcNow s = 1 ∧ rd m.params 0 1 = 3 ∧ rd m.params 1 1 = 0 ∧ rd m.params 2 1 = 1 ∧
    (∀ i, i < 1 → rd m.params (3 + i) 1 = 0) ∧ rd m.params 4 4 = 0 ∧ (keyOpts 3 0 1).fits = true ∧ childLevel s 0 = .inr 2 ∧
    persistSpan s + (keyOpts 3 0 1).span ≤ 2048 ∧ s.sec.drbgOn = true) := by decide

theorem test_witness_keyOperationsAreSubmitted_2 :
    (let m := tcmd 0x0B02 ([0, 1, 4, 64] ++ wr 4 0x40 ++ zeros 64)
    let s := trun 0x0B02 m.params (secUp [keyOf 0x40 2 3 3])
    runnable c0 0x0B02 s = some m ∧ underWay c0 s = false ∧ rd m.params 3 1 = 64 ∧ (keyOpts 0 1 4).fits = true ∧
    rd m.params 0 1 = 0 ∧ rd m.params 1 1 = 1 ∧ rd m.params 2 1 = 4 ∧ rd m.params 4 4 = 0x40 ∧ keyUse s 0x40 3 = .inr (keyOf 0x40 2 3 3)) := by decide

theorem test_witness_keyOperationsAreSubmitted_3 :
    (let m := tcmd 0x0B03 (wr 4 0x40 ++ wr 4 0 ++ [0, 0x20] ++ zeros 54)
    let s := trun 0x0B03 m.params (secUp [keyOf 0x40 1 2 3])
    runnable c0 0x0B03 s = some m ∧ rd m.params 0 4 = 0x40 ∧ (blobOpts (m.params.drop 4)).typ = 0 ∧ (blobOpts (m.params.drop 4)).fits = true ∧
    m.params.length = 48 + 16 * keySpan 0 ∧ keyUse s 0x40 2 = .inr (keyOf 0x40 1 2 3) ∧ (blobOpts (m.params.drop 4)).persist = false) := by decide

theorem test_witness_keyOperationsAreSubmitted_4 :
    (let m := tcmd 0x0B04 (wr 4 0x40 ++ wr 4 0x50)
    let s := trun 0x0B04 m.params (secUp [keyOf 0x40 1 2 3, keyOf 0x50 0 0 4])
    runnable c0 0x0B04 s = some m ∧ keyUse s (rd m.params 0 4) 2 = .inr (keyOf 0x40 1 2 3) ∧ rd m.params 4 4 = 0x50 ∧
    findKey s (rd m.params 4 4) = some (keyOf 0x50 0 0 4) ∧ orphaned 5 s 0x50 = false ∧ s.sec.drbgOn = true ∧ (keyOf 0x50 0 0 4).exprt = true) := by decide

theorem test_witness_keyOperationsAreSubmitted_5 :
    (let m := tcmd 0x0B08 (wr 4 0x20 ++ [0, 0, 1, 0] ++ zeros 136)
    let s := trun 0x0B08 m.params (secUp [keyOf 0x20 3 3 1])
    runnable c0 0x0B08 s = some m ∧ rd m.params 0 4 = 0x20 ∧ rd m.params 4 1 = 0 ∧ rd m.params 5 1 = 0 ∧ rd m.params 6 1 = 1 ∧
    (∀ i, i < 1 → rd m.params (7 + i) 1 = 0) ∧ (∀ i, i < 3 → rd m.params (141 + i) 1 = 0) ∧ (keyOpts 0 0 1).fits = true ∧
    (keyOpts 0 0 1).persist = true ∧ keyUse s 0x20 3 = .inr (keyOf 0x20 3 3 1) ∧ persistSpan s + (keyOpts 0 0 1).span ≤ 2048) := by decide

theorem test_witness_keyOperationsAreSubmitted_6 :
    (let m := tcmd 0x0B09 (wr 4 0x40 ++ zeros 64)
    let s := trun 0x0B09 m.params (secUp [keyOf 0x40 3 0 3])
    runnable c0 0x0B09 s = some m ∧ keyUse s (rd m.params 0 4) 0 = .inr (keyOf 0x40 3 0 3) ∧ s.sec.drbgOn = true ∧ lcNow s = 1) := by decide

theorem test_witness_keyOperationsAreSubmitted_7 :
    (let m := tcmd 0x0B0A (wr 4 0x40 ++ zeros 196)
    let s := trun 0x0B0A m.params (secUp [keyOf 0x40 4 1 3])
    runnable c0 0x0B0A s = some m ∧ keyUse s (rd m.params 0 4) 1 = .inr (keyOf 0x40 4 1 3) ∧ lcNow s = 1) := by decide +kernel

theorem test_witness_keyOperationsAreSubmitted_8 :
    (let m := tcmd 0x0B0C (zeros 32)
    let s := trun 0x0B0C m.params (secUp [keyOf 8 3 0 1])
    runnable c0 0x0B0C s = some m ∧ keyUse s 8 0 = .inr (keyOf 8 3 0 1) ∧ s.sec.drbgOn = true ∧ underWay c0 s = false) := by decide

theorem test_witness_keyOperationsAreSubmitted_9 :
    (let m := tcmd 0x0B09 (wr 4 0x40 ++ zeros 64)
    let s := trun 0x0B09 m.params (secUp [keyOf 0x40 4 1 3])
    runnable c0 0x0B09 s = some m ∧ underWay c0 s = false ∧ lcNow s = 1 ∧ s.sec.vault = 1 ∧ findKey s (rd m.params 0 4) = some (keyOf 0x40 4 1 3) ∧
    orphaned 5 s (rd m.params 0 4) = false ∧ (keyOf 0x40 4 1 3).attr ≠ 0 ∧ up.sec.vault ≠ 1) := by decide

theorem test_witness_keyOperationsEndAndKeysOrphan_1 :
    (let m := tcmd 0x0B09 (wr 4 0x40 ++ zeros 64)
    let u := secUp [keyOf 0x40 3 0 3]
    let s := trun 0x0B09 m.params { u with sec := { u.sec with ops := [⟨c0, true, [0x40]⟩] } }
    findCmd c0 s = some m ∧ opRuns c0 s = true ∧ keyUse s (rd m.params 0 4) 0 = .inr (keyOf 0x40 3 0 3)) := by decide

theorem test_witness_keyOperationsEndAndKeysOrphan_2 :
    (let m := tcmd 0x0B0A (wr 4 0x40 ++ zeros 196)
    let u := secUp [keyOf 0x40 4 1 3]
    let s := trun 0x0B0A m.params { u with sec := { u.sec with ops := [⟨c0, true, [0x40]⟩] } }
    findCmd c0 s = some m ∧ opRuns c0 s = true ∧ keyUse s (rd m.params 0 4) 1 = .inr (keyOf 0x40 4 1 3)) := by decide +kernel

theorem test_witness_keyOperationsEndAndKeysOrphan_3 :
    (let m := tcmd 0x0B01 ([0, 0, 4, 0] ++ wr 4 0x40)
    let u := secUp [keyOf 0x40 1 2 3]
    let s := trun 0x0B01 m.params { u with sec := { u.sec with ops := [⟨c0, false, [0x40]⟩] } }
    findCmd c0 s = some m ∧ opRuns c0 s = true ∧ childLevel s (rd m.params 4 4) = .inr 4 ∧ rd m.params 2 1 = 4 ∧
    (keyOpts 0 0 4).persist = false ∧ (freeRun (2 * (heldKeys s).length + 4) (heldKeys s) 2 true 64).isSome = true) := by decide

theorem test_witness_keyOperationsEndAndKeysOrphan_4 :
    (let u := secUp []
    let s := { trun 0x0B01 [] u with sec := { u.sec with commits := [⟨some c0, .create [keyOf 0x40 1 2 2]⟩] } }
    s.sec.commits = [⟨some c0, .create [keyOf 0x40 1 2 2]⟩] ∧ (findCmd c0 s).isSome = true) := by decide

theorem test_witness_keyOperationsEndAndKeysOrphan_5 :
    (let m := tcmd 0x0B05 (wr 4 0x40)
    let s := trun 0x0B05 m.params (secUp [keyOf 0x40 1 2 3, { keyOf 0x50 0 0 4 with parent := 0x40 }])
    runnable c0 0x0B05 s = some m ∧ underWay c0 s = false ∧ lcNow s = 1 ∧ s.sec.vault = 1 ∧ findKey s (rd m.params 0 4) = some (keyOf 0x40 1 2 3) ∧
    orphaned 5 s 0x40 = false ∧ (descendants s 0x40).length = 1 ∧ findKey (secUp [keyOf 0x40 1 2 2]) (rd m.params 0 4) = some (keyOf 0x40 1 2 2)) := by decide

theorem test_witness_keyOperationsEndAndKeysOrphan_6 :
    (let u := secUp [{ keyOf 0x40 1 2 3 with st := 1 }, { keyOf 0x50 0 0 4 with parent := 0x40 }]
    let s := { u with sec := { u.sec with sweeps := [(0x40, 1)] } }
    s.sec.sweeps = [(0x40, 1)] ∧ orphaned 5 s 0x50 = true ∧ below 5 s 0x40 0x50 = true) := by decide

theorem test_witness_keyOperationsEndAndKeysOrphan_7 :
    (let m := tcmd 0x0B06 (zeros 4)
    let s := trun 0x0B06 m.params (secUp [{ keyOf 0x40 1 2 3 with st := 1 }])
    runnable c0 0x0B06 s = some m ∧ underWay c0 s = false ∧ lcNow s = 1 ∧ (∀ i, i < 4 → rd m.params (0 + i) 1 = 0) ∧
    spanSum (s.sec.keys.filter fun k => orphaned 5 s k.handle) = 2) := by decide

theorem test_witness_clocksPinsBypassAndRffe_1 :
    (pdOn up 4 = true ∧ limFree 41 1 nsSec up = true) := by decide

theorem test_witness_clocksPinsBypassAndRffe_2 :
    (let s := { up with scs := { up.scs with lock := 15 } }
    bitOf s.scs.lock 2 = true ∧ bitOf s.scs.lock 3 = true ∧ launches s = [] ∧ s.scs.refOk = s.scs.refOk) := by decide

theorem test_witness_clocksPinsBypassAndRffe_3 :
    (let u := hand (tcmd 0x0307 [])
    let s := { u with scs := { up.scs with lock := 7, faults := 8 }, rf := { up.rf with relock := some (c0, 0) } }
    pdOn s 11 = true ∧ bitOf s.scs.lock 3 = false ∧ bitOf s.scs.faults 3 = true ∧ s.rf.relock = some (c0, 0) ∧ (findCmd c0 s).isSome = true ∧
    (∀ j, j < 4 → j ≠ 3 → bitOf s.scs.lock j = true) ∧ up.rf.relock = none) := by decide

theorem test_witness_clocksPinsBypassAndRffe_4 :
    (let m := tcmd 0x0307 (zeros 4)
    let s := trun 0x0307 m.params up
    runnable c0 0x0307 s = some m ∧ (∀ i, i < 4 → rd m.params (0 + i) 1 = 0) ∧ s.rf.relock = none ∧ launches s = [] ∧
    { s with rf := { s.rf with relock := some (⟨3, 7⟩, 0) } }.rf.relock = some (⟨3, 7⟩, 0) ∧ (⟨3, 7⟩ : CmdRef) ≠ c0) := by decide

theorem test_witness_clocksPinsBypassAndRffe_5 :
    ({ up.scs with refOk := true }.refOk = true ∧ { up.scs with steering := true }.steering = true ∧ { up.scs with refOk := false }.refOk = false ∧
    pdOn up 11 = true) := by decide

theorem test_witness_clocksPinsBypassAndRffe_6 :
    (let u := { up with cfg := { up.cfg with run := [(fkey 0x0301 9, 1)] } }
    let s := bandUpd 1 (fun r => { r with state := 2 }) u
    s.boot.service = true ∧ pdOn s (bandPd 1) = true ∧ bandRx s 1 = true ∧ 9999 < 1 * 10000 ∧ (band s 1).bypass = false ∧ feCfg s 9 ≠ 0) := by decide

theorem test_witness_clocksPinsBypassAndRffe_7 :
    (let s := bandUpd 0 (fun r => { r with bypass := true }) { up with now := 3600 * nsSec }
    (band s 0).bypass = true ∧ (band s 0).bypassAt + feCfg s 0xA * nsMs ≤ s.now ∧ (band s 0).clipAt + 10 * nsMs ≤ s.now) := by decide

theorem test_witness_clocksPinsBypassAndRffe_8 :
    (pinBad up 9 = false ∧ pinBad up 3 = false ∧ (∀ e ∈ launches up, e.2.ended.isSome = true)) := by decide

theorem test_witness_clocksPinsBypassAndRffe_9 :
    (let m := tcmd 0x0306 [255, 3, 0, 0]
    let s := trun 0x0306 m.params { up with rf := { up.rf with pinFault := 0x3FF } }
    runnable c0 0x0306 s = some m ∧ rd m.params 1 1 = 3 ∧ (∀ i, i < 2 → rd m.params (2 + i) 1 = 0)) := by decide

theorem test_witness_clocksPinsBypassAndRffe_10 :
    (let m := tcmd 0x0303 ([1, 15, 255, 16] ++ zeros 16)
    let s := trun 0x0303 m.params up
    runnable c0 0x0303 s = some m ∧ rd m.params 0 1 = 1 ∧ rd m.params 1 1 = 15 ∧ rd m.params 2 1 = 255 ∧ rd m.params 3 1 = 16 ∧
    rffeDown s 1 = false ∧ pdOn s 5 = true ∧ rffeDown { up with rf := { up.rf with pinFault := 0x300 } } 1 = true) := by decide

theorem test_witness_clocksPinsBypassAndRffe_11 :
    (let m := tcmd 0x0304 [1, 1, 0, 1]
    let s := trun 0x0304 m.params up
    runnable c0 0x0304 s = some m ∧ rd m.params 0 1 = 1 ∧ rd m.params 1 1 = 1 ∧ rd m.params 3 1 = 1 ∧ rffeDown s 1 = false ∧ pdOn s 5 = true) := by decide

theorem test_witness_bandStatesAndCalibration_1 :
    (let m := tcmd 0x0302 [1, 2, 0, 0]
    let s := bandUpd 1 (fun r => { r with state := 3, calValid := true }) (trun 0x0302 m.params up)
    let u := bandUpd 1 (fun r => { r with state := 1, calValid := true }) (trun 0x0302 m.params up)
    runnable c0 0x0302 s = some m ∧ rd m.params 0 1 = 1 ∧ rd m.params 1 1 = 2 ∧ (∀ i, i < 2 → rd m.params (2 + i) 1 = 0) ∧
    pdOn s (bandPd 1) = true ∧ (band s 1).drain = none ∧ (band s 1).cal = none ∧ (band s 1).rxCmd = none ∧ (band s 1).calValid = true ∧
    within 2 3 (band s 1).state = true ∧ (band s 1).target = none ∧ (band u 1).state < 2 ∧ (band u 1).calValid = true) := by decide

theorem test_witness_bandStatesAndCalibration_2 :
    (let m := tcmd 0x0302 [1, 2, 0, 0]
    let s := trun 0x0302 m.params up
    runnable c0 0x0302 s = some m ∧ (band s 1).calValid = false ∧ bandBusy s 1 = [] ∧ calBlocked s = false ∧ s.rf.paEn = 0 ∧ s.rf.biasOn = false ∧ (band s 1).drain = none ∧
    (band s 1).cal = none ∧ (band s 1).rxCmd = none) := by decide

theorem test_witness_bandStatesAndCalibration_3 :
    (let m := tcmd 0x0302 [0, 0, 0, 0]
    let s := trun 0x0302 m.params up
    runnable c0 0x0302 s = some m ∧ rd m.params 1 1 = 0 ∧ (∀ r ∈ s.dem.recs, r.ch / 64 ≠ 0) ∧ launches s = [] ∧ pdOn s (bandPd 0) = true) := by decide

theorem test_witness_bandStatesAndCalibration_4 :
    (let s := bandUpd 1 (fun r => { r with state := 2, drain := some (0, c0) }) (hand { tcmd 0x0302 [] with accepted := true })
    (band s 1).drain = some (0, c0) ∧ bandBusy s 1 = [] ∧ (findCmd c0 s).isSome = true ∧ (band s 1).state ≠ 0) := by decide

theorem test_witness_bandStatesAndCalibration_5 :
    (let s := bandUpd 1 (fun r => { r with target := some 2, rxCmd := some c0 }) (hand (tcmd 0x0302 []))
    (band s 1).target = some 2 ∧ (band s 1).rxCmd = some c0 ∧ (findCmd c0 s).isSome = true) := by decide

theorem test_witness_bandStatesAndCalibration_6 :
    (let m := tcmd 0x0301 [1, 3, 0, 0]
    let s := trun 0x0301 m.params up
    runnable c0 0x0301 s = some m ∧ rd m.params 0 1 = 1 ∧ rd m.params 1 1 = 3 ∧ (∀ i, i < 2 → rd m.params (2 + i) 1 = 0) ∧
    pdOn s (bandPd 1) = true ∧ (band s 1).cal = none ∧ (band s 1).drain = none ∧ (band s 1).rxCmd = none ∧ bandBusy s 1 = [] ∧
    calBlocked s = false ∧ s.rf.paEn = 0 ∧ s.rf.biasOn = false ∧ bitOf 3 1 = true ∧ calBlocked (withLaunch launch0 s) = true ∧ bandBusy (withLaunch launch0 s) 1 = [] ∧ { s.rf with biasOn := true }.biasOn = true) := by decide

theorem test_witness_bandStatesAndCalibration_7 :
    (let s := bandUpd 1 (fun r => { r with cal := some ⟨1, false, true, some c0, [], false, 0, 0⟩ }) up
    (band s 1).cal = some ⟨1, false, true, some c0, [], false, 0, 0⟩ ∧ bandBusy s 1 = [] ∧ calBlocked s = false ∧ s.rf.paEn = 0 ∧ s.rf.biasOn = false) := by decide

theorem test_witness_bandStatesAndCalibration_8 :
    (let s := bandUpd 1 (fun r => { r with cal := some ⟨2, true, true, some c0, [], false, 0, 0⟩ }) (hand (tcmd 0x0301 []))
    (band s 1).cal = some ⟨2, true, true, some c0, [], false, 0, 0⟩ ∧ (findCmd c0 s).isSome = true ∧ (band s 1).rxCmd = none) := by decide

theorem test_witness_bandStatesAndCalibration_9 :
    (let s := bandUpd 1 (fun r => { r with state := 2 }) up
    bandRx s 1 = true ∧ pdOn s (bandPd 1) = true) := by decide

theorem test_witness_bandStatesAndCalibration_10 :
    (let s := carUpd 3 (fun c => { c with st := 1, deadline := 0 }) up
    (s.rf.carriers.get 3).st = 1 ∧ (s.rf.carriers.get 3).deadline ≤ s.now ∧ (∀ e ∈ launches s, e.2.carrier ≠ 3)) := by decide

theorem test_witness_transmitCommandsComplete_1 :
    (let p := wr 4 5 ++ [0, 0] ++ wr 2 (ofS 16 (-100)) ++ wr 4 50000000 ++ wr 2 0 ++ wr 6 0 ++ wr 2 8680 ++ wr 2 4 ++ wr 4 0x836 ++ zeros 4 ++ [1, 2, 3, 4]
    let m := tcmd 0x0501 p
    let s := trun 0x0501 p txUp
    runnable c0 0x0501 s = some m ∧ rd p 0 4 < 2 ^ 31 ∧ (∀ x ∈ descChecks p s, x.2 = true) ∧
    Accepts { descLaunch .host p with cmd := some c0 } 0 s) := by
    unfold Accepts; decide +kernel

theorem test_witness_transmitCommandsComplete_2 :
    (let p := wr 4 5 ++ [3, 0] ++ wr 2 (ofS 16 (-100)) ++ wr 4 0 ++ wr 2 0 ++ wr 6 0 ++ wr 2 8680 ++ wr 2 4 ++ wr 4 0x836 ++ zeros 4 ++ [1, 2, 3, 4]
    let m := tcmd 0x0501 p
    let u := trun 0x0501 p txUp
    let s := { u with scs := { u.scs with lock := 11 } }
    let l := descLaunch .host p
    runnable c0 0x0501 s = some m ∧ (∀ x ∈ descChecks p s, x.2 = true) ∧ l.asap = true ∧ l.held = true ∧ synthLocked s = false ∧
    portBand s l.port = l.band + 1 ∧ disabledBy s l = none ∧ freeEntry s l = some 0) := by decide +kernel

theorem test_witness_transmitCommandsComplete_3 :
    (let p := wr 4 5 ++ [0, 0] ++ wr 2 (ofS 16 (-100)) ++ wr 4 0 ++ wr 2 0 ++ wr 6 0 ++ wr 2 8680 ++ wr 2 4 ++ wr 4 0x836 ++ zeros 4 ++ [1, 2, 3, 4]
    let m := tcmd 0x0501 p
    let s := trun 0x0501 p txUp
    let l := descLaunch .host p
    runnable c0 0x0501 s = some m ∧ (∀ x ∈ descChecks p s, x.2 = true) ∧ l.asap = false ∧ l.simulcast = false ∧
    portBand s l.port = l.band + 1 ∧ disabledBy s l = none ∧ calEnd s ≤ relT s l ∧ relT s l < (ns16 (leadMin s) : Int)) := by decide +kernel

theorem test_witness_transmitCommandsComplete_4 :
    (let m := tcmd 0x0500 [1, 0, 0, 0]
    runnable c0 0x0500 (trun 0x0500 m.params up) = some m ∧ rd m.params 0 1 = 1 ∧ (∀ i, i < 3 → rd m.params (1 + i) 1 = 0)) := by decide

theorem test_witness_transmitCommandsComplete_5 :
    (let m := tcmd 0x0503 ([0, 3, 1, 0] ++ wr 2 8680 ++ zeros 2)
    let s := trun 0x0503 m.params txUp
    let l := ownLaunch s .simcal (0xFFFFFD00 + 4 * rd m.params 0 1 + rd m.params 1 1) (rd m.params 1 1) (rd m.params 0 1) (rd m.params 4 2) 200000
      (some c0) (decide (rd m.params 2 1 = 1))
    runnable c0 0x0503 s = some m ∧ obsPort s (rd m.params 0 1) = true ∧ rd m.params 1 1 = 3 ∧ rd m.params 2 1 = 1 ∧
    (∀ i, i < 1 → rd m.params (3 + i) 1 = 0) ∧ bandLow 0 ≤ rd m.params 4 2 ∧ rd m.params 4 2 ≤ bandHigh 0 ∧
    (∀ i, i < 2 → rd m.params (6 + i) 1 = 0) ∧ Accepts l 0 s) := by
    unfold Accepts; decide +kernel

theorem test_witness_transmitCommandsComplete_6 :
    (let l := { launch0 with src := .simcal, phase := 3 }
    let s := withLaunch l (hand { tcmd 0x0503 [] with accepted := true })
    s.tx.entries.get 63 = some l ∧ l.cmd = some c0 ∧ (findCmd c0 s).isSome = true ∧ (∀ x ∈ launches s, x.2.carrier = l.carrier → x.1 = 63)) := by decide +kernel

theorem test_witness_transmitCommandsComplete_7 :
    (let m := tcmd 0x0504 ([3, 2, 3, 1] ++ wr 4 5)
    runnable c0 0x0504 (trun 0x0504 m.params up) = some m ∧ rd m.params 0 1 = 3 ∧ rd m.params 1 1 = 2 ∧ rd m.params 2 1 = 3 ∧ rd m.params 3 1 = 1) := by decide

theorem test_witness_transmitCommandsComplete_8 :
    (let m := tcmd 0x0505 [1, 0, 0, 0]
    let s := trun 0x0505 m.params up
    runnable c0 0x0505 s = some m ∧ rd m.params 0 1 = 1 ∧ (∀ i, i < 3 → rd m.params (1 + i) 1 = 0) ∧ bandActive s 1 = false ∧
    bandActive (carUpd 0 (fun c => { c with st := 2, band := 1, endAt := 1 }) s) 1 = true) := by decide

theorem test_witness_transmitCommandsComplete_9 :
    (let s := carUpd 0 (fun c => { c with st := 2, band := 1, endAt := 1 }) { up with cfg := { up.cfg with run := [(fkey 0x0501 7, 1)] } }
    txCfg s 7 ≠ 0 ∧ bandActive s 1 = true ∧ eddyHeld s 1 = false ∧ (s.tx.eddy.get 1).fitAt = none) := by decide

theorem test_witness_launchProgress_1 :
    (liveLaunch (withLaunch launch0 up) 63 = some launch0 ∧ launch0.loaded = false) := by decide

theorem test_witness_launchProgress_2 :
    (let l := { launch0 with loaded := true, t := 0 }
    let s := withLaunch l { up with cfg := { up.cfg with run := [(fkey 0x0D01 1, 0)] } }
    let u := withLaunch l { up with cfg := { up.cfg with run := [(fkey 0x0D01 1, 1)] } }
    liveLaunch s 63 = some l ∧ l.phase = 0 ∧ relT s l ≤ (ns16 (enLead s + biasLead s) : Int) ∧ ownsOutput s l = true ∧
    liveLaunch u 63 = some l ∧ ownsOutput u l = false) := by decide +kernel

theorem test_witness_launchProgress_3 :
    (let l := { launch0 with loaded := true, t := 0, phase := 1 }
    let s := withLaunch l txUp
    liveLaunch s 63 = some l ∧ relT s l ≤ (ns16 (enLead s) : Int) ∧ synthLocked s = true ∧ l.suppressed = false ∧ portBand s l.port = l.band + 1 ∧
    (∀ j, j < 4 → j ≠ l.port → bitOf s.rf.paEn j = true → portBand s j ≠ l.band + 1)) := by decide +kernel

theorem test_witness_launchProgress_4 :
    (let l := { launch0 with loaded := true, t := 0, phase := 2 }
    let s := withLaunch l up
    liveLaunch s 63 = some l ∧ relT s l ≤ 0) := by decide +kernel

theorem test_witness_launchProgress_5 :
    (let l := { launch0 with loaded := true, t := 0, phase := 3, airNs := 0 }
    let u := withLaunch l (hand { tcmd 0x0501 [] with accepted := true })
    let s := carUpd 0 (fun c => { c with st := 2 }) { u with time := { u.time with td0 := { u.time.td0 with t := 10 ^ 9 * 2 ^ 32 } } }
    liveLaunch s 63 = some l ∧ (findCmd c0 s).isSome = true ∧ relEnd s l + (ns16 (rampNs s) : Int) ≤ 0 ∧ s.sch.flushes = [] ∧
    (∀ x ∈ launches s, x.2.carrier = l.carrier → x.1 = 63) ∧ (s.rf.carriers.get 0).st = 2) := by decide +kernel

theorem test_witness_launchProgress_6 :
    (let s := portUpd 3 (fun p => { p with enFall := some 0 }) { up with rf := { up.rf with paEn := 8 } }
    bitOf s.rf.paEn 3 = true ∧ (s.rf.ports.get 3).enFall = some 0 ∧ 0 ≤ s.now ∧ driving s (fun l => l.port = 3 && decide (2 ≤ l.phase)) = false) := by decide

theorem test_witness_launchProgress_7 :
    (let s := { up with rf := { up.rf with paEn := 0, biasOn := true, biasFall := some 0 } }
    s.rf.biasOn = true ∧ s.rf.biasFall = some 0 ∧ 0 ≤ s.now ∧ s.rf.paEn = 0 ∧ driving s (fun _ => true) = false ∧ biasWanted s = false) := by decide

theorem test_witness_launchProgress_8 :
    (let l := { launch0 with held := true, asap := true }
    let s := withLaunch l txUp
    s.tx.entries.get 63 = some l ∧ synthLocked s = true ∧ (match placeLaunch l ((max (max (((l.heldAt + leadMin s : Nat) : Int) - (s.now : Int))
      (((s.scs.txLockAt + max (biasLead s + enLead s) (100 * nsUs) : Nat) : Int) - (s.now : Int)))
      ((biasLead s + enLead s : Nat) : Int)) * 2 ^ 16) s with
      | some l' => decide (calEnd s ≤ relT s l') && regAdmits s l'
      | none => false) = true) := by decide +kernel

theorem test_witness_launchProgress_9 :
    (let l := { launch0 with held := true, asap := true }
    let s := withLaunch l { hand { tcmd 0x0501 [] with accepted := true } with now := 3600 * nsSec }
    s.tx.entries.get 63 = some l ∧ (findCmd c0 s).isSome = true ∧ l.heldAt + txCfg s 3 * nsMs ≤ s.now ∧ s.sch.flushes = []) := by decide +kernel

theorem test_witness_cancellingLaunches_1 :
    (let m := tcmd 0x0502 (wr 4 5 ++ zeros 4)
    let s := withLaunch { launch0 with cmd := none } (trun 0x0502 m.params up)
    runnable c0 0x0502 s = some m ∧ rd m.params 4 1 = 0 ∧ rd m.params 5 1 ≤ 3 ∧ (∀ i, i < 2 → rd m.params (6 + i) 1 = 0) ∧
    rd m.params 0 4 / 2 ^ 30 ≠ 2 ∧ (∀ x ∈ launches s, x.2.cmd ≠ some c0) ∧ (∀ w ∈ s.sch.flushes, w.cmd ≠ c0) ∧
    (launches s).any (fun x => x.2.ended.isNone && x.2.id = rd m.params 0 4) = true) := by decide

theorem test_witness_cancellingLaunches_2 :
    (let m := tcmd 0x0502 (wr 4 4 ++ zeros 4)
    let s := withLaunch { launch0 with cmd := none } (trun 0x0502 m.params up)
    runnable c0 0x0502 s = some m ∧ (launches s).any (fun x => x.2.id = rd m.params 0 4) = false) := by decide

theorem test_witness_antennaMonitoring_1 :
    (let m := tcmd 0x0300 [1, 0, 0, 0]
    runnable c0 0x0300 (trun 0x0300 m.params up) = some m ∧ rd m.params 0 1 = 1 ∧ (∀ i, i < 3 → rd m.params (1 + i) 1 = 0)) := by decide

theorem test_witness_antennaMonitoring_2 :
    (let l := { launch0 with phase := 3, t := 0, startAt := some 20000 }
    let s := withLaunch l { txUp with now := 50000 }
    reverseWindow s 0 = some (63, l) ∧ portCfg s 0 4 = 0 ∧
    feCfg { s with cfg := { s.cfg with run := (fkey 0x0301 0xE, 0) :: s.cfg.run } } 0xE = 0) := by decide +kernel

theorem test_witness_antennaMonitoring_3 :
    (let l := { launch0 with phase := 3, t := 0, startAt := some 20000, src := .probe }
    let u := withLaunch l { txUp with now := 50000 }
    let s := { u with cfg := { u.cfg with run := [(fkey 0x0301 0xE, 1), (fkey 0x0301 0x100, 1), (fkey 0x0301 0x101, 1)] } }
    reverseWindow s 0 = some (63, l) ∧ portCfg s 0 4 = 0 ∧ feCfg s 0xE = 1 ∧
    (∀ x ∈ placed s, x.2.port = 0 → x.2.src = .probe)) := by decide +kernel

theorem test_witness_antennaMonitoring_4 :
    (let l := { launch0 with phase := 3, t := 0, startAt := some 20000 }
    let u := withLaunch l { txUp with now := 50000 }
    let s := { u with cfg := { u.cfg with run := [(fkey 0x0301 0xE, 0), (fkey 0x0301 0x100, 1), (fkey 0x0301 0x101, 1), (fkey 0x0301 0x104, 1)] } }
    reverseWindow s 0 = some (63, l) ∧ portCfg s 0 4 ≠ 0 ∧ feCfg s 0xE = 0 ∧ feCfg s 0x11 ≤ 300) := by decide +kernel

theorem test_witness_antennaMonitoring_5 :
    (let s := portUpd 3 (fun a => { a with toWrite := true }) up
    (s.rf.ports.get 3).toWrite = true ∧ driving s (fun l => l.port = 3) = false ∧ 3 ∉ s.rf.biasPorts ∧
    rffeDown s (fld (portCfg s 3 5) 4 1) = false) := by decide

theorem test_witness_antennaMonitoring_6 :
    (let m := tcmd 0x0305 [0, 0, 0, 0]
    let s := trun 0x0305 m.params txUp
    runnable c0 0x0305 s = some m ∧ rd m.params 0 1 = 0 ∧ obsPort s 0 = true ∧ (∀ i, i < 3 → rd m.params (1 + i) 1 = 0) ∧
    (band s 0).state ≠ 0 ∧ (band s 0).state ≠ 4 ∧ Accepts (probeLaunch s 0 (some c0)) 0 s ∧ Accepts (probeLaunch s 0 none) 0 s) := by
    unfold Accepts; decide +kernel

theorem test_witness_antennaMonitoring_7 :
    (let s := { txUp with now := 10 ^ 7 * nsSec }
    s.boot.service = true ∧ goingDown s 5 = false ∧ obsPort s 0 = true ∧ feCfg s 0xF ≠ 0 ∧
    (s.rf.ports.get 0).measuredAt + feCfg s 0xF * nsSec ≤ s.now ∧ (band s 0).state = 2 ∧ launches s = [] ∧ Accepts (probeLaunch s 0 none) 0 s) := by
    unfold Accepts; decide +kernel

theorem test_witness_channelBlocksAndDetection_1 :
    (bitOf (chCfg rxUp 127) 0 = true ∧ rxUp.boot.service = true ∧ bandRx rxUp 1 = true ∧ pdOn rxUp (bandPd 1) = true ∧
    bitOf rxUp.chn.replayRun 1 = false ∧ (rxUp.chn.chans.get 127).frozen = false ∧ (rxUp.chn.chans.get 127).recorded = false ∧
    bitOf rxUp.chn.replay 1 = false ∧ rxUp.rwd.mode ≠ 1 ∧ (rxUp.chn.chans.get 127).lastRise + chnCfg rxUp 2 * nsUs ≤ rxUp.now ∧
    (rxUp.chn.chans.get 127).byp = [] ∧ (let q := rxUp.dq.get 65
      q.en = true ∧ q.flushing = false ∧ q.skip = false ∧ q.loseRest = false ∧ q.opn = none ∧ q.used + 35 ≤ q.depth)) := by decide

theorem test_witness_channelBlocksAndDetection_2 :
    ((rxUp.chn.chans.get 127).lastIdle + 60 * nsSec ≤ rxUp.now) := by decide

theorem test_witness_channelBlocksAndDetection_3 :
    (let s := chanUpd 127 (fun c => { c with rangeCase := 2, rangeAt := 0 }) rxUp
    (s.chn.chans.get 127).rangeCase = 2 ∧ (s.chn.chans.get 127).rangeAt + nsSec ≤ s.now ∧ bandRx s 1 = true ∧
    limFree 42 127 (10 * nsSec) s = true ∧ bitOf (chCfg s 127) 0 = true) := by decide

theorem test_witness_channelBlocksAndDetection_4 :
    (let p : Pkt := ⟨.data, 0, 127, 0, [127, 0, 0], 0, 0⟩
    let s := { rxUp with dq := rxUp.dq.upd 65 fun q => { q with hand := [p] } }
    let d : Detection := ⟨.amconde, 6, 0, List.replicate 32 (63, 900), 0⟩
    let u := ctxUpd 95 (fun c => { c with st := 1, ch := 127, mode := 6, bin := 63 }) s
    pdOn s 6 = true ∧ (nextBlock 1 s).1 = some [127, 0, 0] ∧ bitOf s.chn.replayRun 1 = false ∧ bandDetects s 1 = true ∧
    chStopped s 127 = false ∧ scans s 127 d = true ∧ meets s 127 d = true ∧ chanBusy s 127 = [] ∧ 95 ∈ chanBusy u 127 ∧
    masks 127 (headStamp [127, 0, 0]) d (ctx u 95) = true) := by decide +kernel

theorem test_witness_channelBlocksAndDetection_5 :
    (chnCfg rxUp 6 = 1 ∧ bitOf (chCfg rxUp 127) 0 = true ∧ limFree 200 255 nsSec rxUp = true ∧ bitOf rxUp.chn.replay 1 = false) := by decide

theorem test_witness_channelSettingsComplete_1 :
    (let m := tcmd 0x0402 [127, 0, 3, 3, 0, 0, 15, 3]
    let s := trun 0x0402 m.params rxUp
    let u := ctxUpd 95 (fun c => { c with st := 1, ch := 127 }) s
    runnable c0 0x0402 s = some m ∧ rd m.params 0 1 = 127 ∧ rd m.params 1 1 = 0 ∧ rd m.params 4 2 = 0 ∧ rd m.params 6 1 = 15 ∧
    scanRates 3 3 15 = 15 ∧ (∀ g ∈ s.chn.changes, 127 ∉ g.all) ∧ (∀ r ∈ s.dem.recs, r.ch ≠ 127) ∧ bandRx s 1 = true ∧ chanLive s 127 = [] ∧
    chanLive u 127 ≠ [] ∧ mustDrain (chCfg u 127) 0 = true ∧ bandRx (bandUpd 1 (fun r => { r with state := 1 }) s) 1 = false) := by decide

theorem test_witness_channelSettingsComplete_2 :
    (let m := tcmd 0x0402 [126, 3, 0, 0, 192, 93, 0, 0]
    let s := { trun 0x0402 m.params rxUp with cfg := { rxUp.cfg with run := [(fkey 0x0601 0x14, 1 + 24000 * 256)] } }
    runnable c0 0x0402 s = some m ∧ rd m.params 4 2 = 24000 ∧ bitOf (rd m.params 1 1) 0 = true ∧ chFits s 126 (1 + 2 + 24000 * 2 ^ 14) = true ∧
    bitOf (chCfg s 126) 0 = false ∧ chanLive s 126 = [] ∧ bandRx s 1 = true) := by decide

theorem test_witness_channelSettingsComplete_3 :
    (let m := tcmd 0x0401 [1, 3, 0, 0, 0, 0, 0, 0]
    let s := trun 0x0401 m.params rxUp
    runnable c0 0x0401 s = some m ∧ rd m.params 0 1 = 1 ∧ rd m.params 1 1 = 3 ∧ (∀ i, i < 2 → rd m.params (6 + i) 1 = 0) ∧ s.chn.changes = [] ∧
    s.dem.recs = [] ∧ bandBusy s 1 = [] ∧ bandRx s 1 = true ∧ fld (chCfg s 127) 5 2 = 3 ∧ bitOf (chCfg s 127) 0 = true) := by decide

theorem test_witness_channelSettingsComplete_4 :
    (let g : ChnChange := ⟨[127], [127], none, [(127, 0)], c0, 0⟩
    let s := { trun 0x0402 [] rxUp with chn := { rxUp.chn with changes := [g] } }
    s.chn.changes.find? (fun g => g.chans.contains 127) = some g ∧ (findCmd c0 s).isSome = true ∧ chanLive s 127 = []) := by decide

theorem test_witness_channelSettingsComplete_5 :
    (let m := tcmd 0x0403 [0, 128, 0, 0]
    runnable c0 0x0403 (trun 0x0403 m.params up) = some m ∧ rd m.params 0 1 = 0 ∧ rd m.params 1 1 = 128 ∧ (∀ i, i < 2 → rd m.params (2 + i) 1 = 0)) := by decide

theorem test_witness_channelSettingsComplete_6 :
    (let m := tcmd 0x0404 ([127, 1] ++ wr 2 (chnCfg up 0xA))
    runnable c0 0x0404 (trun 0x0404 m.params up) = some m ∧ rd m.params 0 1 = 127 ∧ rd m.params 1 1 = 1 ∧ chnCfg up 9 ≤ rd m.params 2 2 ∧
    rd m.params 2 2 ≤ chnCfg up 0xA) := by decide

theorem test_witness_channelSettingsComplete_7 :
    (let m := tcmd 0x0405 [127, 1, 1, 0]
    runnable c0 0x0405 (trun 0x0405 m.params up) = some m ∧ rd m.params 0 1 = 127 ∧ rd m.params 1 1 = 1 ∧ rd m.params 2 1 = 1 ∧
    (∀ i, i < 1 → rd m.params (3 + i) 1 = 0)) := by decide

theorem test_witness_contextsAdvanceAndEnd_1 :
    (let r : DetRec := ⟨127, false, 7, 5, 6, 3, 0, 0, false, 0, 4, 0⟩
    let s := { rxUp with dem := { rxUp.dem with recs := [r] } }
    pdOn s 6 = true ∧ nextRec s.dem.recs = some r ∧ unmet s (1 - r.ch / 64) < 96 - (busyCtxs s).length ∧ freeCtx s = some 0 ∧ chanBusy s 127 = [] ∧ s.dem.past = []) := by decide

theorem test_witness_contextsAdvanceAndEnd_2 :
    (let r : DetRec := ⟨127, false, 7, 5, 6, 3, 0, 0, false, 0, 4, 0⟩
    let u := { rxUp with dem := { rxUp.dem with recs := [r], ctxs := Tab.const { Ctx.reset with st := 1 } } }
    let s := { u with cfg := { u.cfg with run := [(fkey 0x0702 1, 1)] } }
    pdOn s 6 = true ∧ nextRec s.dem.recs = some r ∧ freeCtx s = none ∧ demCfg s 1 = 1 ∧ s.dem.lastExhausted = none) := by decide

theorem test_witness_contextsAdvanceAndEnd_3 :
    (let c : Ctx := { Ctx.reset with st := 1, ch := 127, mode := 7, preMin := 4 }
    let m : AlignMeasure := ⟨255, true, 0, 255, 0, -900⟩
    let f := { c with fsk := true }
    (ctx (ctxUpd 95 (fun _ => c) rxUp) 95) = c ∧ m.found = true ∧ c.preMin ≤ m.symbols ∧ m.symbols ≤ 255 ∧ c.ended = none ∧ c.reportFalse = false ∧
    sfdFec f (fskSfd (bitOf f.phy 3) true) = some true ∧ fskSfd (bitOf f.phy 3) true < 2 ^ 16 ∧ fskPreMin f.mod ≤ m.np) := by decide

theorem test_witness_contextsAdvanceAndEnd_4 :
    (let c : Ctx := { Ctx.reset with st := 2, ch := 127, mode := 7, preMin := 4, align := 5 }
    let s := ctxUpd 95 (fun _ => c) { rxUp with cfg := { rxUp.cfg with run := [(fkey 0x0701 1, 1)] } }
    let u := ctxUpd 95 (fun _ => c) { rxUp with cfg := { rxUp.cfg with run := [(fkey 0x0701 1, 0)] } }
    (ctx s 95).st = 2 ∧ netidAccepted s (64 * syncHalf 7 0 + syncHalf 7 126) = true ∧ (ctx u 95).st = 2 ∧
    netidAccepted u (64 * syncHalf 7 0 + syncHalf 7 126) = false ∧ (ctx u 95).ended = none ∧ (ctx u 95).reportFalse = false ∧
    ((c.thr : Nat) : Int) ≤ 0 ∧ c.preMin < c.align) := by decide

theorem test_witness_contextsAdvanceAndEnd_5 :
    (let c : Ctx := { Ctx.reset with st := 3, ch := 127, mode := 7, bw := 3, align := 9 }
    let s := ctxUpd 95 (fun _ => c) rxUp
    let syms : List Bins := (headerShifts 255 7 3).map fun m => [(m, 1, 0)]
    let bits := (headerDecode c.mode (((syms.take 8).zipIdx).map fun p => strongest (cleanBins s c (c.align + 2 + p.2) p.1))).1
    (ctx s 95) = c ∧ natOfBits (bits.take 8) = 255 ∧ natOfBits ((bits.drop 8).take 8) = hcrc 255 7 3 ∧ c.ended = none ∧
    natOfBits ((headerDecode 7 []).1.take 8) = 0) := by decide +kernel

theorem test_witness_contextsAdvanceAndEnd_6 :
    (let s := ctxUpd 95 (fun _ => { Ctx.reset with st := 1, fsk := true, ch := 127 }) rxUp
    (ctx s 95).st = 1 ∧ (ctx s 95).fsk = true ∧ (ctx s 95).ended = none ∧ (ctx s 95).reportFalse = false) := by decide

theorem test_witness_contextsAdvanceAndEnd_7 :
    (let c : Ctx := { Ctx.reset with st := 3, fsk := true, ch := 127, phy := 2047 * 2 ^ 16 }
    let raw := (List.range 16).map fun i => bitOf 0x17FF (15 - i)
    let v := natOfMsb (fskInfo { c with bits := raw } 16).1
    (ctx (ctxUpd 95 (fun _ => c) rxUp) 95) = c ∧ v = 0x17FF ∧ bitOf v 15 = false ∧ bitOf v 12 = true ∧ fld v 0 11 ≤ fld c.phy 16 11 ∧
    2 ≤ fld v 0 11 ∧ bitOf 0x8000 15 = true ∧ c.ended = none ∧ c.reportFalse = false) := by decide

theorem test_witness_contextsAdvanceAndEnd_8 :
    (let z : Ctx := { Ctx.reset with st := 3, ch := 127, mode := 7 }
    let c : Ctx := { Ctx.reset with st := 4, ch := 127, mode := 7, len := 1, sources := [3], ns := 5 }
    let s := ctxUpd 3 (fun _ => z) (ctxUpd 95 (fun _ => c) rxUp)
    let u := ctxUpd 95 (fun _ => c) rxUp
    ctx s 95 = c ∧ (List.replicate 8 ([] : Bins)).length = 8 ∧ mustWait s c = true ∧ mustWait u c = false ∧
    mustWait u { c with sources := [] } = false) := by decide

theorem test_witness_contextsAdvanceAndEnd_9 :
    (let s := ctxUpd 95 (fun _ => { Ctx.reset with st := 5, ch := 127, mode := 7 }) { rxUp with cfg := { rxUp.cfg with run := [(fkey 0x0702 9, 0)] } }
    (ctx s 95).st = 5 ∧ (ctx s 95).ended = none ∧ (ctx s 95).collided = false ∧ (ctx s 95).sources = [] ∧ (ctx s 95).sic = false ∧
    (ctx s 95).replay = false ∧ s.pwr.state ≠ 2 ∧ (ctx s 95).mirror = false) := by decide

theorem test_witness_contextsAdvanceAndEnd_10 :
    (let s := ctxUpd 95 (fun _ => { Ctx.reset with st := 6, ch := 127, ended := some (0, 0) }) rxUp
    (ctx s 95).ended = some (0, 0) ∧ (band s 1).cal = none ∧ (ctx s 95).ch / 64 = 1 ∧ chanBusy (ctxUpd 95 (fun _ => Ctx.reset) s) 127 = []) := by decide

theorem test_witness_descriptorsStatusAndReplayStop_1 :
    (let d : RxDesc := ⟨[0, 0, 5, 0, 0, 0, 0, 9], [], none, 0⟩
    let s := { up with fe := { up.fe with held := [d] } }
    let u := ctxUpd 95 (fun _ => { Ctx.reset with st := 1, ns := 4 }) s
    (s.dq.get 87).items = 0 ∧ s.fe.held.find? (fun d => d.words.getD 7 0 = 9) = some d ∧ releasable s d = true ∧ releasable u d = false) := by decide

theorem test_witness_descriptorsStatusAndReplayStop_2 :
    (let m := tcmd 0x0410 [0, 96, 0, 0]
    runnable c0 0x0410 (trun 0x0410 m.params up) = some m ∧ rd m.params 0 1 = 0 ∧ rd m.params 1 1 = 96 ∧ (∀ i, i < 2 → rd m.params (2 + i) 1 = 0)) := by decide

theorem test_witness_descriptorsStatusAndReplayStop_3 :
    (let m := tcmd 0x0411 [1, 1, 0, 0]
    runnable c0 0x0411 (trun 0x0411 m.params up) = some m ∧ rd m.params 0 1 = 1 ∧ rd m.params 1 1 = 1 ∧ (∀ i, i < 2 → rd m.params (2 + i) 1 = 0)) := by decide

theorem test_witness_descriptorsStatusAndReplayStop_4 :
    (let m := tcmd 0x0D07 (zeros 4)
    let u := trun 0x0D07 m.params up
    let s := { u with rwd := { u.rwd with replay := some ⟨1, 0, 0, ⟨3, 7⟩, false, 0, 0, [], 0, 0⟩ }
                      ubfen := { u.ubfen with cmds := [m, { tcmd 0x0D06 [] with tr := 3, accepted := true }] } }
    runnable c0 0x0D07 s = some m ∧ (∀ i, i < 4 → rd m.params (0 + i) 1 = 0) ∧ u.rwd.replay = none ∧
    s.rwd.replay = some ⟨1, 0, 0, ⟨3, 7⟩, false, 0, 0, [], 0, 0⟩ ∧ (⟨3, 7⟩ : CmdRef) ≠ c0 ∧ (findCmd ⟨3, 7⟩ s).isSome = true ∧ s.dem.recs = [] ∧
    (∀ x ∈ busyCtxs s, (ctx s x).replay = false)) := by decide

theorem test_witness_rewindCapturesTriggersAndFreezes_1 :
    (let m := tcmd 0x0D01 ([1, 0, 0, 0] ++ wr 6 1 ++ wr 4 999999999 ++ zeros 2)
    let s := { trun 0x0D01 m.params up with cfg := { up.cfg with run := [(fkey 0x1001 2, 1)] } }
    runnable c0 0x0D01 s = some m ∧ rd m.params 0 1 = 1 ∧ (∀ i, i < 3 → rd m.params (1 + i) 1 = 0) ∧ rd m.params 10 4 < nsSec ∧
    (∀ i, i < 2 → rd m.params (14 + i) 1 = 0) ∧ s.rwd.st ≠ 4 ∧ cfgGet s 0x1001 2 ≠ 0) := by decide

theorem test_witness_rewindCapturesTriggersAndFreezes_2 :
    (let s := { up with rwd := { up.rwd with st := 1, ringLog2 := 24, mode := 0, wptr := 4194304 - 4096 } }
    rwdWriting s = true ∧ s.rwd.wptr % 4096 = 0 ∧ s.rwd.wptr < ringWords s.rwd.ringLog2 ∧ s.rwd.st = 1 ∧ s.rwd.mode = 0) := by decide

theorem test_witness_rewindCapturesTriggersAndFreezes_3 :
    (let s := { up with rwd := { up.rwd with fresh := Tab.const 2 } }
    s.rwd.fresh.get 15 = 2) := by decide

theorem test_witness_rewindCapturesTriggersAndFreezes_4 :
    (let s := { up with rwd := { up.rwd with st := 1, at_ := some 0 }, ev := { up.ev with trigs := [127] } }
    s.ev.trigs = [127] ∧ s.rwd.st = 1 ∧ s.rwd.at_ = some 0 ∧ 0 ≤ (stampTd s).ns) := by decide

theorem test_witness_rewindCapturesTriggersAndFreezes_5 :
    (let s := { up with rwd := { up.rwd with st := 3, at_ := some 0 } }
    s.rwd.st = 3 ∧ s.rwd.at_ = some 0 ∧ 0 ≤ (stampTd s).ns) := by decide

theorem test_witness_rewindCapturesTriggersAndFreezes_6 :
    (let u := hand { tcmd 0x0D02 [] with accepted := true }
    let s := { u with rwd := { u.rwd with st := 2, postLeft := 0, waiters := [c0] } }
    s.rwd.st = 2 ∧ s.rwd.postLeft = 0 ∧ s.rwd.waiters = [c0] ∧ (findCmd c0 s).isSome = true) := by decide

theorem test_witness_rewindCapturesTriggersAndFreezes_7 :
    (let m := tcmd 0x0D02 [1, 0, 0, 0]
    let u := trun 0x0D02 m.params up
    let s := { u with rwd := { u.rwd with st := 1 } }
    runnable c0 0x0D02 s = some m ∧ rd m.params 0 1 = 1 ∧ (∀ i, i < 3 → rd m.params (1 + i) 1 = 0) ∧ s.rwd.waiters = [] ∧ s.rwd.st = 1) := by decide

theorem test_witness_rewindCapturesTriggersAndFreezes_8 :
    (let m := tcmd 0x0D03 ([15, 1, 0, 0] ++ wr 6 0 ++ wr 4 5 ++ zeros 2)
    let s := trun 0x0D03 m.params up
    runnable c0 0x0D03 s = some m ∧ rd m.params 0 1 = 15 ∧ rd m.params 1 1 = 1 ∧ (∀ i, i < 2 → rd m.params (2 + i) 1 = 0) ∧
    rd m.params 10 4 < nsSec ∧ (∀ i, i < 2 → rd m.params (14 + i) 1 = 0) ∧ (stampTd s).ns < 5 ∧ 0 ≤ (stampTd s).ns ∧ markPast s 0 = none) := by decide

theorem test_witness_rewindReadsWritesAndReplays_1 :
    (let m := tcmd 0x0D00 [1, 0, 0, 0]
    runnable c0 0x0D00 (trun 0x0D00 m.params up) = some m ∧ rd m.params 0 1 = 1 ∧ (∀ i, i < 3 → rd m.params (1 + i) 1 = 0)) := by decide

theorem test_witness_rewindReadsWritesAndReplays_2 :
    (let m := tcmd 0x0D04 (wr 4 (4194304 - 2046) ++ wr 2 2046 ++ zeros 2)
    let u := trun 0x0D04 m.params up
    let s := { u with rwd := { u.rwd with ringLog2 := 24 } }
    runnable c0 0x0D04 s = some m ∧ rd m.params 0 4 = 4194304 - 2046 ∧ rd m.params 4 2 = 2046 ∧
    rd m.params 0 4 + 2046 ≤ ringWords s.rwd.ringLog2 ∧ (∀ i, i < 2 → rd m.params (6 + i) 1 = 0)) := by decide

theorem test_witness_rewindReadsWritesAndReplays_3 :
    (let m := tcmd 0x0D05 (wr 4 4194303 ++ wr 2 1 ++ [1, 7] ++ wr 4 4194303 ++ zeros 4 ++ [1, 2, 3, 4])
    let u := trun 0x0D05 m.params up
    let s := { u with rwd := { u.rwd with ringLog2 := 24, st := 3 } }
    memWf s.dram = true ∧ runnable c0 0x0D05 s = some m ∧ rd m.params 0 4 = 4194303 ∧ rd m.params 4 2 = 1 ∧
    rd m.params 0 4 < ringWords s.rwd.ringLog2 ∧ rd m.params 0 4 + 1 ≤ ringWords s.rwd.ringLog2 ∧ rd m.params 6 1 = 1 ∧ rd m.params 7 1 = 7 ∧
    rd m.params 8 4 < ringWords s.rwd.ringLog2 ∧ (∀ i, i < 4 → rd m.params (12 + i) 1 = 0) ∧ s.rwd.st = 3 ∧ bitOf 1 0 = true) := by decide

theorem test_witness_rewindReadsWritesAndReplays_4 :
    (let m := tcmd 0x0D08 (zeros 4)
    runnable c0 0x0D08 (trun 0x0D08 m.params up) = some m ∧ (∀ i, i < 4 → rd m.params (0 + i) 1 = 0)) := by decide

theorem test_witness_rewindReadsWritesAndReplays_5 :
    (let m := tcmd 0x0D06 (wr 4 (4194304 - 4096) ++ wr 4 1024 ++ [2, 0, 0, 0])
    let u := bandUpd 1 (fun r => { r with state := 2 }) (trun 0x0D06 m.params up)
    let s := { u with rwd := { u.rwd with ringLog2 := 24, st := 3 } }
    runnable c0 0x0D06 s = some m ∧ rd m.params 0 4 = 4194304 - 4096 ∧ rd m.params 4 4 = 1024 ∧ rd m.params 8 1 = 2 ∧
    rd m.params 0 4 % 4096 = 0 ∧ rd m.params 0 4 < ringWords s.rwd.ringLog2 ∧ 1024 * 4096 ≤ ringWords s.rwd.ringLog2 ∧
    (∀ i, i < 3 → rd m.params (9 + i) 1 = 0) ∧ s.rwd.replay = none ∧ s.rwd.st = 3 ∧ bandRx s 1 = true ∧ bitOf 2 0 = false) := by decide

theorem test_witness_rewindReadsWritesAndReplays_6 :
    (let u := hand { tcmd 0x0D06 [] with accepted := true }
    let s := { u with rwd := { u.rwd with replay := some ⟨3, 0, 0, c0, false, 0, 0, [], 0, 0⟩ } }
    s.rwd.replay = some ⟨3, 0, 0, c0, false, 0, 0, [], 0, 0⟩ ∧ (findCmd c0 s).isSome = true ∧ bandBusy s 0 = [] ∧ bandBusy s 1 = []) := by decide

theorem test_witness_rewindReadsWritesAndReplays_7 :
    (let u := hand { tcmd 0x0D06 [] with accepted := true }
    let s := { u with rwd := { u.rwd with mode := 0, sources := 3, replay := some ⟨3, 0, 0, c0, true, 0, u.now, [], 0, 0⟩ } }
    (findCmd c0 s).isSome = true ∧ s.now + wideNs s ⟨3, 0, 0, c0, true, 0, u.now, [], 0, 0⟩ ≤ s.now) := by decide

theorem test_witness_tradeQueuesAndGates_1 :
    (let f : TFrame := ⟨7, [1], 5, 5, 0, 0, 0, 0, false⟩
    let s := queueUpd 4095 (fun _ => [f]) { schUp with cfg := { schUp.cfg with run := [(fkey 0x0D01 1, 0)] } }
    tradeRuns s = true ∧ goingDown s 5 = false ∧ goingDown s 7 = false ∧ heads s = [(4095, f, .stale)]) := by decide +kernel

theorem test_witness_tradeQueuesAndGates_2 :
    (let f : TFrame := ⟨7, [1], 5, 5, 0, 0, 0, 0, false⟩
    let u := queueUpd 4095 (fun _ => [f]) (schNode (schGate [257, 256] { schUp with cfg := { schUp.cfg with run := schRun } }))
    tradeRuns u = true ∧ goingDown u 5 = false ∧ goingDown u 7 = false ∧ heads u = [(4095, f, .overrun)] ∧ limFree 85 4095 nsSec u = true) := by decide +kernel

theorem test_witness_tradeQueuesAndGates_3 :
    (let f : TFrame := ⟨7, [1], 5, 5, 0, 0, 0, 0, false⟩
    let u := queueUpd 4095 (fun _ => [f]) (schNode (schGate [257] { schUp with cfg := { schUp.cfg with run := schRun } }))
    let l := { tradeLaunch u 4095 f schEnt with t := 150000 * 2 ^ 16 }
    tradeRuns u = true ∧ heads u = [(4095, f, .plan l false)] ∧ tradeLenOk u l = true ∧ l.fsk = false ∧ l.asap = false ∧ l.clamped = false ∧
    Accepts l 0 u ∧ drawn u (qShaped u 4095) (qShaper u 4095) = false ∧ u.pair.st ≠ 3) := by
    unfold Accepts; decide +kernel

theorem test_witness_tradeQueuesAndGates_4 :
    (let s := queueUpd 4095 (fun _ => [⟨7, [1], 5, 5, 0, 0, 0, 0, false⟩]) { up with now := 3600 * nsSec, cfg := { up.cfg with run := [(fkey (0x0B40 + 63) (0x100 + 127), 1 + 65536)] } }
    (queue s 4095).length = 1 ∧ qMaxWait s 4095 ≠ 0 ∧ 0 + qMaxWait s 4095 * nsMs ≤ s.now) := by decide

theorem test_witness_tradeQueuesAndGates_5 :
    (let m := tcmd 0x0802 ([15, 1, 1, 0] ++ wr 6 0 ++ wr 4 999999999 ++ zeros 2 ++ wr 4 256)
    let s := trun 0x0802 m.params up
    runnable c0 0x0802 s = some m ∧ rd m.params 0 1 = 15 ∧ rd m.params 1 1 = 1 ∧ rd m.params 2 2 = 1 ∧ rd m.params 10 4 < nsSec ∧
    (∀ i, i < 2 → rd m.params (14 + i) 1 = 0) ∧ m.startedAt = some 0 ∧ s.now = 0 ∧ 256 ≤ rd m.params 16 4) := by decide

theorem test_witness_tradeQueuesAndGates_6 :
    (let s := schUpd (fun r => { r with gates := Tab.const ⟨none, some (⟨1, 0, [256]⟩, 0), 0⟩ }) up
    (s.sch.gates.get 15).next = some (⟨1, 0, [256]⟩, 0) ∧ pdOn s 7 = true ∧ 0 ≤ (tdGet s 1).ns) := by decide

theorem test_witness_tradeQueuesAndGates_7 :
    (let m := tcmd 0x0805 [255, 255, 0, 0]
    let s := trun 0x0805 m.params up
    runnable c0 0x0805 s = some m ∧ rd m.params 0 2 = 0xFFFF ∧ rd m.params 2 1 = 0 ∧ (∀ i, i < 1 → rd m.params (3 + i) 1 = 0)) := by decide

theorem test_witness_tradeQueuesAndGates_8 :
    (let m := tcmd 0x0800 [1, 0, 0, 0]
    runnable c0 0x0800 (trun 0x0800 m.params up) = some m ∧ rd m.params 0 1 = 1 ∧ (∀ i, i < 3 → rd m.params (1 + i) 1 = 0)) := by decide

theorem test_witness_tradeQueuesAndGates_9 :
    (let m := tcmd 0x0806 (wr 2 3072 ++ wr 2 1024)
    runnable c0 0x0806 (trun 0x0806 m.params up) = some m ∧ rd m.params 0 2 = 3072 ∧ rd m.params 2 2 = 1024) := by decide

theorem test_witness_tradeQueuesAndGates_10 :
    (let m := tcmd 0x0807 ([1, 126, 2, 0] ++ wr 2 255 ++ wr 2 0xFFFF)
    runnable c0 0x0807 (trun 0x0807 m.params up) = some m ∧ rd m.params 0 1 = 1 ∧ rd m.params 1 1 = 126 ∧ rd m.params 2 1 = 2 ∧
    (∀ i, i < 1 → rd m.params (3 + i) 1 = 0) ∧ rd m.params 4 2 ≤ 255 ∧ rd m.params 6 2 = 0xFFFF) := by decide

theorem test_witness_schedulerSettingsTakeEffect_1 :
    (let m := tcmd 0x0801 ([255, 1, 1, 0] ++ wr 4 1250000000 ++ wr 4 0x7FFFFFFF ++ wr 2 255 ++ zeros 2)
    runnable c0 0x0801 (trun 0x0801 m.params up) = some m ∧ rd m.params 0 1 = 255 ∧ rd m.params 1 1 = 1 ∧ rd m.params 2 1 = 1 ∧
    (∀ i, i < 1 → rd m.params (3 + i) 1 = 0) ∧ rd m.params 4 4 = (rateRange 1).2 ∧ rd m.params 8 4 = (burstRange 1).2 ∧
    toS 16 (rd m.params 12 2) = 255 ∧ (∀ i, i < 2 → rd m.params (14 + i) 1 = 0)) := by decide

theorem test_witness_schedulerSettingsTakeEffect_2 :
    (let m := tcmd 0x0803 (wr 2 255 ++ [31, 0] ++ wr 2 0xFFFF ++ wr 2 (ofS 16 (-32)) ++ wr 4 1250000000 ++ wr 4 0x7FFFFFFF ++ wr 4 0 ++ wr 4 0)
    runnable c0 0x0803 (trun 0x0803 m.params up) = some m ∧ rd m.params 0 2 = 255 ∧ rd m.params 2 1 = 31 ∧
    (∀ i, i < 1 → rd m.params (3 + i) 1 = 0) ∧ rd m.params 8 4 = 1250000000 ∧ rd m.params 12 4 = 0x7FFFFFFF ∧ rd m.params 4 2 ≠ 255 ∧
    toS 16 (rd m.params 6 2) = -32) := by decide

theorem test_witness_schedulerSettingsTakeEffect_3 :
    (let m := tcmd 0x0804 (wr 2 4095 ++ zeros 2 ++ wr 4 (2 ^ 13 * 16 + 1) ++ wr 4 1)
    runnable c0 0x0804 (trun 0x0804 m.params up) = some m ∧ rd m.params 0 2 = 4095 ∧ (∀ i, i < 2 → rd m.params (2 + i) 1 = 0) ∧
    rd m.params 4 4 < 2 ^ 25 ∧ fld (rd m.params 4 4) 13 5 = 16 ∧ fld (rd m.params 8 4) 0 12 = 1 ∧ fld (rd m.params 8 4) 12 4 = 0) := by decide

theorem test_witness_nodesAreAddedSetAndDeleted_1 :
    (let m := tcmd 0x0604 (zeros 7 ++ [9] ++ wr 2 0xFFFE ++ [15, 1] ++ wr 4 (2 ^ 18 - 1 + 255 * 2 ^ 24))
    let s := trun 0x0604 m.params up
    runnable c0 0x0604 s = some m ∧ rd m.params 10 1 = 15 ∧ rd m.params 11 1 = 1 ∧ fld (rd m.params 12 4) 18 6 = 0 ∧
    findNode s (euiAt m.params 0) = none ∧ shortTaken s 0xFFFE none = false ∧ freeWays s (bucketOf s (euiAt m.params 0)) ≠ []) := by decide +kernel

theorem test_witness_nodesAreAddedSetAndDeleted_2 :
    (let m := tcmd 0x0604 (zeros 7 ++ [5] ++ wr 2 0xFFFF ++ [15, 0] ++ zeros 4)
    let s := schNode (trun 0x0604 m.params up)
    runnable c0 0x0604 s = some m ∧ (findNode s (euiAt m.params 0)).isSome = true ∧ shortTaken s 0xFFFF (some 1) = false) := by decide +kernel

theorem test_witness_nodesAreAddedSetAndDeleted_3 :
    (let m := tcmd 0x0604 (zeros 7 ++ [9] ++ wr 2 0xFFFF ++ [15, 0] ++ zeros 4)
    let u := trun 0x0604 m.params up
    let e := { schEnt with prov := true }
    let b := 4 * bucketOf u 9
    let s := { u with fe := { u.fe with nodes := [(b, e), (b + 1, e), (b + 2, e), (b + 3, e)] } }
    runnable c0 0x0604 s = some m ∧ findNode s (euiAt m.params 0) = none ∧ shortTaken s 0xFFFF none = false ∧ limFree 76 0 nsSec s = true ∧
    (∀ w, w < 4 → ((nodeAt s (4 * bucketOf s (euiAt m.params 0) + w)).map fun n => n.prov) = some true)) := by decide +kernel

theorem test_witness_nodesAreAddedSetAndDeleted_4 :
    (let m := tcmd 0x0605 (zeros 7 ++ [5] ++ wr 2 0x1FF ++ zeros 2 ++ wr 2 7 ++ [0x20, 15] ++ zeros 42 ++ [1])
    let s := schNode (trun 0x0605 m.params up)
    runnable c0 0x0605 s = some m ∧ rd m.params 8 2 = 0x1FF ∧ rd m.params 9 1 ≤ 1 ∧ (∀ i, i < 2 → rd m.params (10 + i) 1 = 0) ∧
    rd m.params 15 1 = 15 ∧ fld (rd m.params 32 4) 18 6 = 0 ∧ rd m.params 58 1 = 1 ∧ (findNode s (euiAt m.params 0)).isSome = true ∧
    shortTaken s (rd m.params 12 2) (some 1) = false) := by decide +kernel

theorem test_witness_nodesAreAddedSetAndDeleted_5 :
    (let m := tcmd 0x0606 (zeros 7 ++ [5])
    runnable c0 0x0606 (schNode (trun 0x0606 m.params up)) = some m ∧ (findNode (schNode (trun 0x0606 m.params up)) (euiAt m.params 0)).isSome = true ∧
    findNode (trun 0x0606 m.params up) (euiAt m.params 0) = none) := by decide +kernel

theorem test_witness_nodesAreAddedSetAndDeleted_6 :
    (let m := tcmd 0x0603 [3, 0, 0, 0]
    let s := schNode (trun 0x0603 m.params up)
    runnable c0 0x0603 s = some m ∧ rd m.params 0 1 = 3 ∧ (∀ i, i < 3 → rd m.params (1 + i) 1 = 0) ∧ NodesRising (st s)) := by
    unfold NodesRising; decide +kernel

theorem test_witness_nodesAreAddedSetAndDeleted_7 :
    (let m := tcmd 0x0600 [1, 0, 0, 0]
    runnable c0 0x0600 (trun 0x0600 m.params up) = some m ∧ rd m.params 0 1 = 1 ∧ (∀ i, i < 3 → rd m.params (1 + i) 1 = 0)) := by decide

theorem test_witness_nodesAreFoundGroupedAndAged_1 :
    (let m := tcmd 0x0601 ([0, 0, 0, 0] ++ zeros 7 ++ [5])
    let s := schNode (trun 0x0601 m.params up)
    runnable c0 0x0601 s = some m ∧ (∀ i, i < 3 → rd m.params (1 + i) 1 = 0) ∧ rd m.params 0 1 = 0 ∧ (findNode s (euiAt m.params 4)).isSome = true ∧
    findNode (trun 0x0601 m.params up) (euiAt m.params 4) = none) := by decide +kernel

theorem test_witness_nodesAreFoundGroupedAndAged_2 :
    (let m := tcmd 0x0601 ([1, 0, 0, 0] ++ wr 4 131071)
    let u := trun 0x0601 m.params up
    let s := { u with fe := { u.fe with nodes := [(131071, schEnt)] } }
    runnable c0 0x0601 s = some m ∧ (∀ i, i < 3 → rd m.params (1 + i) 1 = 0) ∧ rd m.params 0 1 = 1 ∧ (nodeAt s (rd m.params 4 4)).isSome = true) := by decide

theorem test_witness_nodesAreFoundGroupedAndAged_3 :
    (let m := tcmd 0x0602 (wr 4 131071 ++ wr 2 120 ++ [15, 0xF3])
    runnable c0 0x0602 (trun 0x0602 m.params up) = some m ∧ rd m.params 0 4 = 131071 ∧ rd m.params 4 2 = 120 ∧ rd m.params 6 1 = 15 ∧
    rd m.params 7 1 = 0xF3 ∧ fld 0xF3 2 2 = 0) := by decide

theorem test_witness_nodesAreFoundGroupedAndAged_4 :
    (let n := { schEnt with groupOpen := true }
    let s := { up with fe := { up.fe with nodes := [(131071, n)] }
                       time := { up.time with td0 := { up.time.td0 with t := 3600 * nsSec * 2 ^ 32 } } }
    nodeAt s 131071 = some n ∧ pdOn s 7 = true ∧ n.grpAt + nodeCfg s 4 * nsMs + nodeCfg s 5 * nsMs ≤ (stampTd s).ns) := by decide

theorem test_witness_nodesAreFoundGroupedAndAged_5 :
    (let s := { up with fe := { up.fe with nodes := [(131068, { schEnt with marked := true }), (131071, schEnt)], sweepNext := 32767 }
                        time := { up.time with td0 := { up.time.td0 with t := 3600 * nsSec * 2 ^ 32 } } }
    pdOn s 7 = true ∧ pdOn s 8 = true ∧ s.fe.sweepNext = 32767 ∧
    s.fe.sweepStart * nsSec + 32767 * nodeCfg s 3 * nsSec / 32768 ≤ (stampTd s).ns) := by decide

theorem test_witness_routesAreAddedDeletedReadAndFound_1 :
    (let p := wr 2 9 ++ [2, 0] ++ [3, 128, 4, 23] ++ zeros 4 ++ zeros 15 ++ [1] ++ [3, 0, 0, 0] ++ zeros 20
    let m := tcmd 0x0701 p
    let s := trun 0x0701 p up
    runnable c0 0x0701 s = some m ∧ rd p 2 1 = 2 ∧ (∀ i, i < 1 → rd p (3 + i) 1 = 0) ∧
    (∀ i, i < 2 → (routeAt p (4 + 24 * i)).table ≤ 3 ∧ (routeAt p (4 + 24 * i)).len ≤ 128 ∧ (routeAt p (4 + 24 * i)).action ≤ 4 ∧
      (∀ j, j < 4 → rd p (4 + 24 * i + 4 + j) 1 = 0)) ∧ (routeAt p 4).nh = 23 ∧ FeWf (st s) ∧ s.fe.routes.length + 2 ≤ 16384) := by
    unfold FeWf NodesRising; decide +kernel

theorem test_witness_routesAreAddedDeletedReadAndFound_2 :
    (let p := wr 2 9 ++ [1, 0] ++ [0, 128, 1, 0] ++ zeros 20
    let u := trun 0x0701 p up
    let s := { u with fe := { u.fe with routes := List.replicate 16384 ⟨1, 0, 0, 0, 0⟩ } }
    runnable c0 0x0701 s = some (tcmd 0x0701 p) ∧ s.fe.routes.length = 16384 ∧ (∀ x ∈ s.fe.routes, x.same (routeAt p 4) = false)) := by
    refine ⟨by decide, List.length_replicate, fun x h => ?_⟩
    rw [List.eq_of_mem_replicate h]; decide

theorem test_witness_routesAreAddedDeletedReadAndFound_3 :
    (let p := wr 2 9 ++ [1, 0] ++ [3, 0, 255, 255] ++ zeros 20
    let m := tcmd 0x0702 p
    let u := trun 0x0702 p up
    let s := { u with fe := { u.fe with routes := [⟨3, 128, 1, 2, 5⟩, ⟨3, 0, 0, 1, 0⟩, ⟨2, 0, 0, 1, 0⟩] } }
    runnable c0 0x0702 s = some m ∧ rd p 2 1 = 1 ∧ (routeAt p 4).table = 3 ∧ (∀ i, i < 4 → rd p (8 + i) 1 = 0) ∧ FeWf (st s)) := by
    unfold FeWf NodesRising; decide +kernel

theorem test_witness_routesAreAddedDeletedReadAndFound_4 :
    (let m := tcmd 0x0703 (wr 2 16383 ++ wr 2 300)
    runnable c0 0x0703 (trun 0x0703 m.params up) = some m ∧ rd m.params 0 2 = 16383 ∧ rd m.params 2 2 = 300) := by decide

theorem test_witness_routesAreAddedDeletedReadAndFound_5 :
    (let p := [3, 0, 0, 0] ++ zeros 15 ++ [1]
    let m := tcmd 0x0705 p
    let u := trun 0x0705 p up
    let s := { u with fe := { u.fe with routes := [⟨3, 128, 2, 2, 5⟩, ⟨3, 0, 0, 1, 0⟩] } }
    runnable c0 0x0705 s = some m ∧ rd p 0 1 = 3 ∧ (∀ i, i < 3 → rd p (1 + i) 1 = 0) ∧
    netRd p 4 16 / 2 ^ (128 - 0) * 2 ^ (128 - 0) = 0 ∧ netRd p 4 16 ≠ 2) := by decide

theorem test_witness_routesAreAddedDeletedReadAndFound_6 :
    (let m := tcmd 0x0700 [1, 0, 0, 0]
    runnable c0 0x0700 (trun 0x0700 m.params up) = some m ∧ rd m.params 0 1 = 1 ∧ (∀ i, i < 3 → rd m.params (1 + i) 1 = 0)) := by decide

theorem test_witness_routesAreAddedDeletedReadAndFound_7 :
    (let m := tcmd 0x0704 ([255, 3] ++ wr 2 0x1FFF ++ [2, 0, 0, 0, 0, 1, 0, 0])
    runnable c0 0x0704 (trun 0x0704 m.params up) = some m ∧ rd m.params 0 1 = 255 ∧ rd m.params 1 1 = 3 ∧ rd m.params 3 1 = 31 ∧
    (∀ i, i < 2 → rd m.params (10 + i) 1 = 0)) := by decide

theorem test_witness_ethernetLinksAndSettings_1 :
    (pdOn up 9 = true ∧ ethCfg up 1 2 ≠ 0 ∧ (up.eth.get 1).link = false ∧ portHeld up 1 = false) := by decide

theorem test_witness_ethernetLinksAndSettings_2 :
    ((({ up with eth := Tab.const { EthPort.reset with link := true, egress := (Tab.const []).set 7 [([1], some (.item 4 9))] } } : Chip).eth.get 1).link = true) := by decide

theorem test_witness_ethernetLinksAndSettings_3 :
    (let s : Chip := { up with now := 5, eth := Tab.const { EthPort.reset with pauseEnd := some 5 } }
    (s.eth.get 1).pauseEnd = some 5 ∧ 5 ≤ s.now) := by decide

theorem test_witness_ethernetLinksAndSettings_4 :
    (let s : Chip := { up with now := 100 * nsMs, pair := { up.pair with rcvy := Tab.const ⟨false, 65535, [65535], 0⟩ } }
    (s.pair.rcvy.get 15).any = false ∧ (s.pair.rcvy.get 15).at_ + cfgGet s 0x0C01 2 * nsMs ≤ s.now) := by decide

theorem test_witness_ethernetLinksAndSettings_5 :
    (let m := tcmd 0x0900 [1, 1, 0, 0]
    runnable c0 0x0900 (trun 0x0900 m.params up) = some m ∧ rd m.params 0 1 = 1 ∧ rd m.params 1 1 = 1 ∧ (∀ i, i < 2 → rd m.params (2 + i) 1 = 0)) := by decide

theorem test_witness_ethernetLinksAndSettings_6 :
    (let m := tcmd 0x0901 ([1, 1, 6, 1] ++ wr 2 9216 ++ wr 2 0x1FFF ++ [7, 0, 0, 0])
    runnable c0 0x0901 (trun 0x0901 m.params up) = some m ∧ rd m.params 0 1 = 1 ∧ rd m.params 1 1 = 1 ∧ rd m.params 2 1 = 6 ∧ rd m.params 3 1 = 1 ∧
    rd m.params 4 2 = 9216 ∧ rd m.params 6 2 < 2 ^ 13 ∧ rd m.params 8 1 = 7 ∧ (∀ i, i < 3 → rd m.params (9 + i) 1 = 0) ∧ 6 ≠ ethCfg up 1 3) := by decide

theorem test_witness_ethernetLinksAndSettings_7 :
    (let m := tcmd 0x0901 ([0, 1, 0, 0] ++ wr 2 1518 ++ wr 2 0 ++ [0, 0, 0, 0])
    runnable c0 0x0901 (trun 0x0901 m.params up) = some m ∧ rd m.params 0 1 = 0 ∧ rd m.params 1 1 = 1 ∧ rd m.params 2 1 = ethCfg up 0 3 ∧
    rd m.params 4 2 = 1518 ∧ (∀ i, i < 3 → rd m.params (9 + i) 1 = 0)) := by decide

theorem test_witness_ethernetLinksAndSettings_8 :
    (let m := tcmd 0x0902 ([1, 3, 1, 0] ++ [255, 255, 255, 255, 255, 255] ++ [0, 0])
    runnable c0 0x0902 (trun 0x0902 m.params up) = some m ∧ rd m.params 0 1 = 1 ∧ rd m.params 1 1 = 3 ∧ rd m.params 2 1 = 1 ∧
    (∀ i, i < 1 → rd m.params (3 + i) 1 = 0) ∧ (∀ i, i < 2 → rd m.params (10 + i) 1 = 0)) := by decide

theorem test_witness_ethernetLinksAndSettings_9 :
    (let m := tcmd 0x0903 [15, 0, 0, 0]
    runnable c0 0x0903 (trun 0x0903 m.params up) = some m ∧ rd m.params 0 1 = 15 ∧ (∀ i, i < 3 → rd m.params (1 + i) 1 = 0)) := by decide

theorem test_witness_ethernetFramesAreReceivedAndSent_1 :
    (let s : Chip := { up with eth := Tab.const { EthPort.reset with link := true } }
    let f := [255, 255, 255, 255, 255, 255] ++ zeros 6 ++ [8, 6] ++ zeros 46
    let g := [1, 0, 0, 0, 0, 0] ++ zeros 6 ++ [0x88, 0x08, 0, 1, 255, 255] ++ zeros 42
    pdOn s 9 = true ∧ (s.eth.get 1).link = true ∧ limFree 90 1 nsSec s = true ∧ f.length = 60 ∧ badTags f = false ∧
    f.length + 4 ≤ ethCfg s 1 4 ∧ be16 f 12 ≠ 0x8808 ∧ forPort s 1 f = true ∧ elimStream s 1 f = none ∧ etherType f = 0x0806 ∧
    ptpTakes s 1 f = false ∧ g.length = 60 ∧ badTags g = false ∧ be16 g 12 = 0x8808 ∧ be16 g 14 = 1) := by decide

theorem test_witness_ethernetFramesAreReceivedAndSent_2 :
    (let s : Chip := { hostUp with eth := Tab.const { EthPort.reset with link := true }
                                   cfg := { up.cfg with run := [(fkey 0x0C01 (ethId 1 5), 1)] } }
    let f := [2, 0, 0, 0, 0, 0] ++ zeros 6 ++ [0x12, 0x34] ++ zeros 46
    let g := [3, 0, 0, 0, 0, 0] ++ zeros 6 ++ [0x12, 0x34] ++ zeros 46
    ethCfg s 1 5 = 1 ∧ be16 f 12 ≠ 0x8808 ∧ 60 ≤ f.length ∧ badTags f = false ∧ forPort s 1 f = false ∧ forPort s 1 g = true ∧ elimStream s 1 g = none ∧
    etherType g ∉ [0x88B5, 0x88F7, 0x86DD, 0x0806, 0x0800] ∧ badTags (zeros 12 ++ [0x88, 0xA8]) = true) := by decide

theorem test_witness_ethernetFramesAreReceivedAndSent_3 :
    (let s : Chip := { hostUp with eth := Tab.const { EthPort.reset with link := true }
                                   cfg := { up.cfg with run := [(fkey 0x0C01 (0x10 + 15), 0x2FFF), (fkey 0x0C01 (ethId 1 0), 0x200),
                                   (fkey 0x0C01 (ethId 1 1), 0)] }
                                   pair := { up.pair with rcvy := Tab.const ⟨false, 100, [85, 100], 0⟩ } }
    let f := [2, 0, 0, 0, 0, 0] ++ zeros 6 ++ [0x81, 0, 0x0F, 0xFF, 0xF1, 0xC1, 0, 0, 0, 85] ++ zeros 40
    let r := s.pair.rcvy.get 15
    f.length + 4 ≤ ethCfg s 1 4 ∧ 60 ≤ f.length ∧ badTags f = false ∧ forPort s 1 f = true ∧ elimStream s 1 f = some 15 ∧
    etherType f = 0xF1C1 ∧ be16 f (typeOff f + 4) = 85 ∧ r.any = false ∧
    100 - 85 < cfgGet s 0x0C01 1 ∧ cfgGet s 0x0C01 1 ≤ 32) := by decide

theorem test_witness_ethernetFramesAreReceivedAndSent_4 :
    (let k : Pkt := ⟨.data, 0, 0, 0, [1, 2, 3], 1, 0⟩
    let s : Chip := { up with dq := up.dq.set 34 { up.dq.get 34 with hand := [k] }, eth := Tab.const { EthPort.reset with link := true } }
    (nextItem 34 s).map Prod.fst = some k ∧ (bytesOf k.words).length + 4 ≤ ethCfg s 1 4 ∧ pdOn s 9 = true ∧ (s.eth.get 1).link = true) := by decide

theorem test_witness_ethernetFramesAreReceivedAndSent_5 :
    (let k : Pkt := ⟨.data, 0, 0, 0, List.replicate 550 0, 0, 0⟩
    let s : Chip := { up with dq := up.dq.set 34 { up.dq.get 34 with hand := [k] } }
    (nextItem 34 s).map Prod.fst = some k ∧ ethCfg s 1 4 < (bytesOf k.words).length + 4) := by decide +kernel

theorem test_witness_ethernetFramesAreReceivedAndSent_6 :
    (let e : EthPort := { EthPort.reset with link := true, egress := (Tab.const []).set 7 [([1], some (.item 4 9))] }
    let s : Chip := { up with eth := Tab.const e }
    pdOn s 9 = true ∧ (s.eth.get 1).link = true ∧ (s.eth.get 1).pauseEnd = none ∧ (s.eth.get 1).egress.get 7 = [([1], some (.item 4 9))]) := by decide

theorem test_witness_pairLinkClaimsAndLeases_1 :
    (let s := pairUp 1 false
    let u : Chip := { s with pair := { s.pair with linkUp := false } }
    pairRuns u = true ∧ u.pair.linkUp = false ∧ portHeld u 2 = false) := by decide

theorem test_witness_pairLinkClaimsAndLeases_2 :
    ((pairUp 3 true).pair.linkUp = true ∧ bitOf (pairUp 3 true).pair.lanes (1 - 1) = true ∧ bitOf (pairUp 3 true).pair.lanes (1 - 0) = true) := by decide

theorem test_witness_pairLinkClaimsAndLeases_3 :
    (let s := pairUp 3 true
    pairRuns s = true ∧ s.pair.silent = false ∧ (if true then s.pair.linkUp else hbPort s) = true) := by decide

theorem test_witness_pairLinkClaimsAndLeases_4 :
    (let s := { pairUp 3 true with ubfen := { up.ubfen with cmds := [{ tcmd 0x0A01 [] with accepted := false }] } }
    let u : Chip := { s with pair := { s.pair with yieldCmd := some c0, leaseEnd := some (s.now + 1), claim := 7 } }
    pairRuns u = true ∧ u.pair.linkUp = true ∧ later 32 8 u.pair.claim = true ∧ leaseMode u = true ∧ (findCmd c0 u).isSome = true ∧
    cfgGet u 0x0D01 1 = 0) := by decide

theorem test_witness_pairLinkClaimsAndLeases_5 :
    (let s := pairUp 3 false
    let u : Chip := { s with pair := { s.pair with heard := some 0, peerKnown := true, peerClaim := 7 } }
    pairRuns u = true ∧ 0 + pairCfg u 0xA * nsMs ≤ u.now ∧ peerOwns u = true ∧ guardPassed u = true ∧ u.pair.owner = false) := by decide

theorem test_witness_pairLinkClaimsAndLeases_6 :
    (let s := pairUp 4 false
    let u : Chip := { s with pair := { s.pair with peerKnown := true, peerClaim := 7, granted := some 0 } }
    pairRuns u = true ∧ leaseMode u = true ∧ u.pair.heard = none ∧ later 32 u.pair.claim u.pair.peerClaim = false ∧ u.pair.owner = false ∧
    0 + leaseGuard u ≤ u.now) := by decide

theorem test_witness_pairLinkClaimsAndLeases_7 :
    (let s := pairUp 3 true
    let u : Chip := { s with pair := { s.pair with leaseEnd := some s.now } }
    leaseMode u = true ∧ u.pair.leaseEnd = some u.now ∧ u.now ≤ u.now ∧ cfgGet u 0x0D01 1 = 0) := by decide

theorem test_witness_pairUplinkIsSequencedAndTrimmed_1 :
    (let s := pairUp 3 true
    let u : Chip := { s with pair := { s.pair with merge := (Tab.const []).set 15 [⟨2000, 9, some (0, upFrame0), false⟩] } }
    u.pair.st = 3 ∧ u.pair.seqSolo = false ∧ u.pair.restart ≤ 4000 ∧ u.pair.ready = [] ∧ min u.pair.wOwn u.pair.wPeer ≤ 2000 ∧
    (∀ e ∈ u.pair.merge.get 15, e.peer = false ∧ e.digest = 9 ∧ e.key ≤ 4000 + 2000 ∧ 4000 ≤ e.key + 2000)) := by decide

theorem test_witness_pairUplinkIsSequencedAndTrimmed_2 :
    (let s := pairUp 3 true
    let u : Chip := { s with pair := { s.pair with wOwn := 9000, wPeer := 9000 } }
    u.pair.st = 3 ∧ u.pair.merge.get 15 = [] ∧ u.pair.restart ≤ 6999 ∧ 6999 + 2000 < min u.pair.wOwn u.pair.wPeer) := by decide

theorem test_witness_pairUplinkIsSequencedAndTrimmed_3 :
    (let s := pairUp 3 true
    s.pair.linkUp = true ∧ s.pair.wPeerAt + pairCfg s 0xF * nsMs ≤ s.now ∧ bitOf s.pair.lanes 0 = true ∧ s.pair.trimAt + 100 * nsMs ≤ s.now) := by decide

theorem test_witness_pairUplinkIsSequencedAndTrimmed_4 :
    (let s := pairUp 3 true
    let u : Chip := { s with pair := { s.pair with wOwn := 9000, merge := (Tab.const []).set 15 [⟨6999, 9, none, true⟩], seqSolo := false } }
    u.pair.st = 3 ∧ u.pair.linkUp = true ∧ u.pair.ready = [] ∧ u.pair.merge.get 15 = [⟨6999, 9, none, true⟩] ∧
    (∀ k, k < 16 → k ≠ 15 → u.pair.merge.get k = []) ∧ 6999 + 2000 < min u.pair.wOwn (max u.pair.wPeer 9000) ∧ min u.pair.wOwn (max u.pair.wPeer 8999) ≤ 6999 + 2000) := by decide

theorem test_witness_pairUplinkIsSequencedAndTrimmed_5 :
    (let s := pairUp 4 true
    let u : Chip := { s with pair := { s.pair with settled := true } }
    u.pair.linkUp = true ∧ u.pair.settled = true ∧ u.pair.st = 4 ∧ u.pair.resumeSent = none ∧ u.pair.silent = false) := by decide

theorem test_witness_pairMirrorsTakeoversAndDrills_1 :
    (let p := wr 4 5 ++ [0, 0] ++ wr 2 (ofS 16 (-100)) ++ wr 4 999999999 ++ wr 2 0 ++ wr 6 0 ++ wr 2 8680 ++ wr 2 4 ++ wr 4 0x836 ++ zeros 4 ++ [1, 2, 3, 4]
    let s : Chip := { txUp with pair := { up.pair with st := 3 } }
    let l : Launch := { descLaunch .mirror p with id := 0xC0000005, asap := false, held := false }
    s.pair.owner = false ∧ (∀ x ∈ descChecks p s, x.2 = true) ∧ s.pair.trimValid = false ∧ 0xC0000000 + (descLaunch .mirror p).id % 2 ^ 29 = 0xC0000005 ∧
    (∃ x ∈ descChecks (zeros 4 ++ [0, 0] ++ zeros 30) s, x.2 = false) ∧ Accepts l 0 s) := by
    unfold Accepts; decide +kernel

theorem test_witness_pairMirrorsTakeoversAndDrills_2 :
    (let s := pairUp 3 false
    let u : Chip := { s with pair := { s.pair with held := [⟨0, [1], 9, 0⟩] } }
    u.pair.owner = false ∧ 0 + pairCfg u 0xD * nsMs ≤ u.now) := by decide

theorem test_witness_pairMirrorsTakeoversAndDrills_3 :
    (let s := pairUp 3 true
    let d : Drill := ⟨1, 0, 200, true, some c0, 0, 0, none, false⟩
    let u : Chip := { s with pair := { s.pair with drill := some d, visiting := true } }
    u.pair.visiting = true ∧ u.pair.drill = some d ∧ d.phase = 0 ∧ d.at_ ≤ ownerTime u (stampTd u).ns 0 ∧ u.pair.st = 3 ∧ d.tookAt = none) := by decide

theorem test_witness_pairMirrorsTakeoversAndDrills_4 :
    (let s := pairUp 3 true
    let d : Drill := ⟨1, 0, 200, true, some c0, 1, 0, some 5, false⟩
    let u : Chip := { s with pair := { s.pair with drill := some d }, ubfen := { up.ubfen with cmds := [{ tcmd 0x0A03 [] with accepted := true }] } }
    u.pair.drill = some d ∧ d.startedAt + d.dur * nsMs ≤ u.now ∧ u.pair.st = 3 ∧ u.pair.owner ≠ d.mine ∧ (findCmd c0 u).isSome = true) := by decide

theorem test_witness_pairMirrorsTakeoversAndDrills_5 :
    (let m := tcmd 0x0A00 [1, 0, 0, 0]
    runnable c0 0x0A00 (trun 0x0A00 m.params up) = some m ∧ rd m.params 0 1 = 1 ∧ (∀ i, i < 3 → rd m.params (1 + i) 1 = 0)) := by decide

theorem test_witness_pairMirrorsTakeoversAndDrills_6 :
    (let m := tcmd 0x0A01 [0, 0, 0, 0]
    let s := trun 0x0A01 m.params (pairUp 3 true)
    runnable c0 0x0A01 s = some m ∧ (∀ i, i < 4 → rd m.params (0 + i) 1 = 0) ∧ s.pair.st = 3 ∧ s.pair.owner = true ∧ s.pair.yieldCmd = none) := by decide

theorem test_witness_pairMirrorsTakeoversAndDrills_7 :
    (let m := tcmd 0x0A03 ([1, 1, 0, 0] ++ wr 6 5000 ++ wr 4 999999999 ++ zeros 2 ++ wr 4 60000)
    let s := trun 0x0A03 m.params (pairUp 3 true)
    runnable c0 0x0A03 s = some m ∧ rd m.params 0 1 = 1 ∧ rd m.params 1 1 = 1 ∧ (∀ i, i < 2 → rd m.params (2 + i) 1 = 0) ∧
    rd m.params 10 4 < nsSec ∧ (∀ i, i < 2 → rd m.params (14 + i) 1 = 0) ∧ rd m.params 16 4 = 60000 ∧ s.pair.st = 3 ∧ s.pair.drill = none ∧
    s.pair.silent = false) := by decide

theorem test_witness_uplinkFramesAreSecuredLearnedAndForwarded_1 :
    (let d : RxDesc := ⟨[0x50, 0, 0, 0, 0, 0, 0, 0], [], none, 0⟩
    let s := upRun [] [d]
    s.fe.uplink = [d] ∧ pdOn s 7 = true ∧ d.status ≠ 0 ∧ fwdCfg s 7 = 0) := by decide

theorem test_witness_uplinkFramesAreSecuredLearnedAndForwarded_2 :
    (let d := rx0 [1]
    let s := upRun [] [d]
    s.fe.uplink = [d] ∧ d.status = 0 ∧ parseMhr d.frame = none) := by decide

theorem test_witness_uplinkFramesAreSecuredLearnedAndForwarded_3 :
    (let d := rx0 (wr 2 0x2001 ++ zeros 20)
    let s := upRun [] [d]
    s.fe.uplink = [d] ∧ d.status = 0 ∧ (parseMhr d.frame).any (fun m => decide (m.srcMode < 2)) = true) := by decide

theorem test_witness_uplinkFramesAreSecuredLearnedAndForwarded_4 :
    (let d := rx0 (wr 2 60481 ++ [0] ++ zeros 8 ++ [5] ++ zeros 7)
    let s := upRun [] [d]
    s.fe.uplink = [d] ∧ frmCfg s 4 = 0 ∧ frmCfg s 3 = 0 ∧
    (parseMhr d.frame).any (fun m => decide (2 ≤ m.srcMode ∧ m.seqSupp = false ∧ m.level = 0)) = true) := by decide

theorem test_witness_uplinkFramesAreSecuredLearnedAndForwarded_5 :
    (let d := rx0 (wr 2 (60481 + 8) ++ [0] ++ zeros 8 ++ [5] ++ zeros 7 ++ [5] ++ wr 4 9 ++ [1, 2, 3, 4, 5])
    let u := schNode (upRun [] [d])
    let k : Key := { keyOf 8 0x10 1 1 with attr := 1 }
    let n := { schEnt with key := 8 + 2 ^ 24 }
    let s := { u with fe := { u.fe with nodes := [(4 * bucketOf u 5, n)] }, sec := { u.sec with vault := 1, keys := [k] } }
    frmCfg s 4 = 0 ∧ findNode s 5 = some (4 * bucketOf u 5, n) ∧ liveKey s n.handle = some k ∧ k.attr = 1 ∧ n.rxCtr < 9 ∧ n.locValid = true ∧
    n.groupOpen = false ∧ limFree 81 0 nsSec s = true ∧ limFree 82 0 nsSec s = true ∧
    (parseMhr d.frame).any (fun m => decide (m.srcMode = 3 ∧ m.seqSupp = false ∧ 5 ≤ m.level ∧ m.kim = 0 ∧ m.ctrSupp = false ∧ m.ctr = 9 ∧
      euiOfFrame m.src = 5)) = true) := by decide +kernel

theorem test_witness_uplinkFramesAreSecuredLearnedAndForwarded_6 :
    (let d := rx0 (wr 2 60481 ++ [0] ++ zeros 8 ++ [5] ++ zeros 7 ++ [0x7A, 0x33, 59])
    let u := schNode (upRun [(fkey 0x0801 3, 1), (fkey 0x0A01 0x10, 0)] [d])
    let s := { u with fe := { u.fe with routes := [⟨0, 0, 0, 4, 23⟩] } }
    frmCfg s 3 = 1 ∧ upMode s (upEntry s d) = 0 ∧ (findNode s 5).any (fun e => decide (e.2.secReq = false ∧ e.2.locValid = true ∧ e.2.groupOpen = false)) = true ∧
    (parseMhr d.frame).any (fun m => decide (m.srcMode = 3 ∧ m.seqSupp = false ∧ m.level = 0 ∧ euiOfFrame m.src = 5) &&
      ((openPacket s m (some 5) (d.frame.drop m.len)).any fun p =>
        decide ((routeFind s (upTable s (upEntry s d)) (netNat (ipDst p))).map (fun x => x.2.action) = some 4))) = true) := by decide +kernel

theorem test_witness_uplinkFramesAreSecuredLearnedAndForwarded_7 :
    (let d := rx0 (wr 2 60482 ++ [0] ++ zeros 8 ++ [5] ++ zeros 7)
    let s := upRun [(fkey 0x0801 3, 1), (fkey 0x0A01 0x10, 0)] [d]
    findNode s 5 = none ∧ nodeCfg s 2 = 1 ∧ freeWays s (bucketOf s 5) ≠ [] ∧
    (parseMhr d.frame).any (fun m => decide (m.srcMode = 3 ∧ m.seqSupp = false ∧ m.level = 0 ∧ euiOfFrame m.src = 5 ∧ m.typ ≠ 1)) = true) := by decide +kernel

theorem test_witness_downlinkFramesAndBeaconsAreBuilt_1 :
    (let p : Pkt := ⟨.data, 0, 0, 0, w32 (3 + 16 * 7 + 256 * 40) :: wordsOf (zeros 40), 0, 0⟩
    let s : Chip := { up with dq := up.dq.set 88 { up.dq.get 88 with hand := [p] } }
    let u := (pull 88 s).2
    let h := (firstWord p.words).toNat
    let pkt := (bytesOf (p.words.drop 1)).take (h / 256)
    (pull 88 s).1 = some p ∧ pdOn s 7 = true ∧ u.pair.visiting = false ∧ fld h 0 4 = 3 ∧ fld h 4 4 = 7 ∧ pkt = zeros 40 ∧
    pathTo u (euiOfIid ((ipDst pkt).drop 8)) = none) := by decide +kernel

theorem test_witness_downlinkFramesAndBeaconsAreBuilt_2 :
    (let n : NodeEnt := { schEnt with rplValid := true, depth := 1, key := 8, pathExp := 9 }
    let pkt := zeros 32 ++ iidOf 5
    let p : Pkt := ⟨.data, 0, 0, 0, w32 (256 * 40) :: wordsOf pkt, 0, 0⟩
    let s : Chip := { up with dq := up.dq.set 88 { up.dq.get 88 with hand := [p] }, fe := { up.fe with nodes := [(4 * bucketOf up 5, n)] }
                              sec := { up.sec with vault := 1, keys := [{ keyOf 9 0x10 0 1 with attr := 0 }] } }
    let u := (pull 88 s).2
    (pull 88 s).1 = some p ∧ (bytesOf (p.words.drop 1)).take ((firstWord p.words).toNat / 256) = pkt ∧ euiOfIid ((ipDst pkt).drop 8) = 5 ∧
    pathTo u 5 = some [n] ∧ findNode u 5 = some (4 * bucketOf u 5, n) ∧ (encKey u n.handle).isSome = true ∧ n.txCtr < 0xFFFFFFF0) := by decide +kernel

theorem test_witness_downlinkFramesAndBeaconsAreBuilt_3 :
    (let q : Pkt := ⟨.data, 7, 0, 0, [0x201], 0, 4⟩
    let u : Chip := { up with dq := up.dq.set 32 { up.dq.get 32 with drain := [q] } }
    u.fe.injDone = [] ∧ (u.dq.get 32).drain = [q] ∧ 4 ≤ q.no ∧ q.no < 5) := by decide

theorem test_witness_downlinkFramesAndBeaconsAreBuilt_4 :
    (let p : Pkt := ⟨.abort, 7, 0, 0, [0x201], 9, 4⟩
    let s : Chip := { up with dq := up.dq.set 32 { up.dq.get 32 with hand := [p] } }
    (nextItem 32 s).map Prod.fst = some p ∧ p.kind = .abort) := by decide

theorem test_witness_downlinkFramesAndBeaconsAreBuilt_5 :
    (let p : Pkt := ⟨.data, 7, 0, 0, [0x201, 5 * 2 ^ 24, 0, 9, 1], 9, 0⟩
    let s : Chip := { up with dq := up.dq.set 32 { up.dq.get 32 with hand := [p] } }
    (nextItem 32 s).map Prod.fst = some p ∧ pdOn s 7 = true ∧ s.pwr.state < 2 ∧ notOwner s = false ∧ 16 ≤ (bytesOf p.words).length ∧
    rd (bytesOf p.words) 0 1 ≤ 1 ∧ rd (bytesOf p.words) 1 1 = 2 ∧ pathTo s (euiAt (bytesOf p.words) 4) = none) := by decide +kernel

theorem test_witness_downlinkFramesAndBeaconsAreBuilt_6 :
    (let p : Pkt := ⟨.data, 7, 0, 0, [0x201, 0, 5 * 2 ^ 24, 9, 1], 9, 0⟩
    let n : NodeEnt := { schEnt with rplValid := true, depth := 1, key := 8, pathExp := 9 }
    let u : Chip := { up with dq := up.dq.set 32 { up.dq.get 32 with hand := [p] }, fe := { up.fe with nodes := [(4 * bucketOf up 5, n)] } }
    let b := bytesOf p.words
    let q := qSel u (128 * n.band + 8 * n.cls + 7)
    (nextItem 32 u).map Prod.fst = some p ∧ euiAt b 4 = 5 ∧ pathTo u 5 = some [n] ∧ findNode u 5 = some (4 * bucketOf up 5, n) ∧
    bitOf (rd b 2 2) 0 = false ∧ qEn u q = true ∧ queueFull u q (b.length - 16 + 16) = false) := by decide +kernel

theorem test_witness_downlinkFramesAndBeaconsAreBuilt_7 :
    (let p := zeros 4 ++ [0, 0] ++ wr 2 (ofS 16 (-100)) ++ wr 4 0 ++ wr 2 0 ++ wr 6 5 ++ wr 2 8680 ++ wr 2 14 ++ wr 4 0x836 ++ zeros 4 ++ [7, 1] ++ wr 2 2 ++
      wr 4 3600000 ++ zeros 16
    let m := tcmd 0x0207 p
    let s := trun 0x0207 p txUp
    runnable c0 0x0207 s = some m ∧ rd p 32 1 = 7 ∧ (∀ x ∈ beaconChecks p s, x.2 = true) ∧ rd p 33 1 = 1) := by decide +kernel

theorem test_witness_downlinkFramesAndBeaconsAreBuilt_8 :
    (let m := tcmd 0x0207 (zeros 22 ++ wr 2 14 ++ zeros 8 ++ [7, 0, 2, 0])
    let s := trun 0x0207 m.params up
    runnable c0 0x0207 s = some m ∧ rd m.params 33 1 = 0 ∧ rd m.params 32 1 = 7 ∧ (∀ x ∈ offChecks m.params, x.2 = true) ∧ (∀ e ∈ launches s, e.2.src ≠ .beacon)) := by decide +kernel

theorem test_witness_downlinkFramesAndBeaconsAreBuilt_9 :
    (let b := beacon0
    let s : Chip := { up with time := { up.time with beacons := (up.time.beacons).set 7 b } }
    s.boot.service = true ∧ pdOn s 11 = true ∧ pdOn s 7 = true ∧ b.period ≠ 0 ∧ notOwner s = false ∧
    b.tAt b.k ≤ (tdGet s 0).ns + (leadMin s + nsMs) ∧ (tdGet s 0).ns + (leadMin s + nsMs) ≤ b.tAt (b.k + 1) ∧ (tdGet s 0).st ≠ 1) := by decide

theorem test_witness_downlinkFramesAndBeaconsAreBuilt_10 :
    (let b := beacon0
    let s : Chip := { txUp with time := { up.time with beacons := (up.time.beacons).set 7 b, td0 := { up.time.td0 with st := 1 } } }
    let t16 := ns16 (b.tAt b.k) + rd b.desc 12 2
    let l0 := { descLaunch .beacon (b.desc ++ b.psdu) with id := 0xFFFFFF00 + 7, t := t16 }
    let psdu := l0.psdu.take b.offset ++ meshTime (t16 + refDelay16 l0) (tdGet s 0).epoch ++ l0.psdu.drop (b.offset + 12)
    let l := { l0 with psdu := psdu, len := psdu.length, airNs := airOf l0.fsk l0.phy psdu.length }
    (tdGet s 0).st = 1 ∧ ((parseMhr psdu).map Mhr.sec).getD false = false ∧ tradeLenOk s l = true ∧ l.asap = false ∧ l.held = false ∧ s.pair.st ≠ 3 ∧
    Accepts l 0 s) := by
    unfold Accepts; decide +kernel

theorem test_witness_spiReadsReturnPacketsInOrder_1 :
    (pdOn up 1 = true ∧ up.ubfen.spiOut = []) := by decide

theorem test_witness_spiReadsReturnPacketsInOrder_2 :
    (let s : Chip := { up with ubfen := { up.ubfen with spiOut := [(nopPkt, none, 0), (nopPkt ++ [0, 0, 0, 0], none, 0)] } }
    pdOn s 1 = true ∧ (s.ubfen.spiOut.map fun e => e.1.length) = [20, 24]) := by decide

theorem test_witness_spiStatusShowsAndClears_1 :
    (pdOn up 1 = true ∧ (zeros 15).length < 16 ∧ { up.ubfen with ready := false }.ready = false ∧ (zeros 16).length = 16) := by decide

theorem test_witness_spiStatusShowsAndClears_2 :
    (16384 < (zeros 16385).length) := by
    simp only [zeros, List.length_replicate]; decide

theorem test_witness_everyStepKeepsMemoryForm :
    (DramWf (st { up with dram := [(4294967295, 7)] })) := by
    unfold DramWf; decide

theorem test_witness_everyStepKeepsForwardingOrder :
    (FeWf (st { (schNode up) with fe := { (schNode up).fe with routes := [⟨3, 128, 1, 2, 5⟩, ⟨3, 0, 0, 1, 0⟩] } })) := by
    unfold FeWf NodesRising; decide +kernel

end Sys2Proof.Tests
end

section
/-! SUPPORT. A write to an RWL field (R9): what a refusal notes in SYS_LOCK_VIOL, and the executive's write to
APC_PERF_UEN (Table 18.2). -/

namespace Sys2Proof.Machine

/-! ## The event ring -/

/-- A payload of 64 bits that was just raised waits for the executive. -/
theorem raised_raise {src payload : Nat} (h : payload < 2 ^ 64) (s : Chip) : Raised src payload (raise src payload s) :=
  ⟨_, List.mem_append_right _ (List.mem_singleton_self _), rfl, Nat.mod_eq_of_lt h⟩

/-! ## A refused write (R9, R509) -/

/-- The rate limit of R509 lets EV_LOCK_VIOL be raised: none was, or the last one a second or more ago. -/
def LockViolFree (s : Chip) : Prop := ∀ k, s.sys.lockAt = some k → k + nsSec ≤ s.now

theorem lockViolFree_of_none {s : Chip} (hl : s.sys.lockAt = none) : LockViolFree s :=
  fun _ hj => nomatch hl.symm.trans hj

theorem lockViolFree_of_some {s : Chip} {k : Nat} (hl : s.sys.lockAt = some k) (h : k + nsSec ≤ s.now) :
    LockViolFree s :=
  fun _ hj => Option.some.inj (hl.symm.trans hj) ▸ h

/-- SYS_LOCK_VIOL counts one more refusal, at the address; EV_LOCK_VIOL was last raised at `last`. -/
def countRefusal (addr : Nat) (last : Option Nat) : Chip → Chip :=
  sysUpd fun y => { y with lockCount := satAdd 255 y.lockCount 1, lockAddr := addr % 2 ^ 24, lockAt := last }

theorem lockViol_of_free {s : Chip} (h : LockViolFree s) (addr : Nat) :
    lockViol addr s = raise 4 (addr % 2 ^ 24) (countRefusal addr (some s.now) s) := by
  unfold lockViol
  cases hl : s.sys.lockAt with
  | none => simp only [hl]; rfl
  | some k => simp only [hl, if_pos (h k hl)]; rfl

theorem lockViol_of_recent {s : Chip} {k : Nat} (hl : s.sys.lockAt = some k) (h : s.now < k + nsSec) (addr : Nat) :
    lockViol addr s = countRefusal addr (some k) s := by
  unfold lockViol
  simp only [hl, if_neg (Nat.not_le.mpr h)]
  rw [← hl]
  rfl

/-- All that a refusal can do: count it, and raise EV_LOCK_VIOL where the limit allows it. -/
theorem lockViol_cases (addr : Nat) (s : Chip) : ∃ last, lockViol addr s = countRefusal addr last s ∨
    lockViol addr s = raise 4 (addr % 2 ^ 24) (countRefusal addr last s) := by
  cases hl : s.sys.lockAt with
  | none => exact ⟨_, .inr (lockViol_of_free (lockViolFree_of_none hl) addr)⟩
  | some k =>
    obtain h | h := Nat.lt_or_ge s.now (k + nsSec)
    · exact ⟨_, .inl (lockViol_of_recent hl h addr)⟩
    · exact ⟨_, .inr (lockViol_of_free (lockViolFree_of_some hl h) addr)⟩

@[simp] theorem lockViol_lockCount (addr : Nat) (s : Chip) :
    (lockViol addr s).sys.lockCount = min 255 (s.sys.lockCount + 1) := by
  obtain ⟨last, h | h⟩ := lockViol_cases addr s <;> rw [h] <;> rfl

@[simp] theorem lockViol_lockAddr (addr : Nat) (s : Chip) : (lockViol addr s).sys.lockAddr = addr % 2 ^ 24 := by
  obtain ⟨last, h | h⟩ := lockViol_cases addr s <;> rw [h] <;> rfl

/-- A refusal changes only SYS_LOCK_VIOL and the event unit. -/
theorem lockViol_frame (addr : Nat) (s : Chip) : OnlyChanges [.sys, .ev] s (lockViol addr s) := by
  obtain ⟨last, h | h⟩ := lockViol_cases addr s <;> rw [h]
  · exact (sysUpd_frame s _).mono (by simp)
  · exact (sysUpd_frame s _).trans (raise_frame _ _ _)

theorem lockViol_raised {s : Chip} (h : LockViolFree s) (addr : Nat) : Raised 4 (addr % 2 ^ 24) (lockViol addr s) := by
  rw [lockViol_of_free h]
  exact raised_raise (by omega) _

/-! ## Register writes of the executive -/

theorem rwlWrite_open (a cur new : Nat) (set : Chip → Chip) (s : Chip) :
    rwlWrite true a cur new set s = (set s, false) := rfl

theorem rwlWrite_same {cur new : Nat} (h : new = cur) (a : Nat) (set : Chip → Chip) (s : Chip) :
    rwlWrite false a cur new set s = (s, false) := by simp [rwlWrite, h]

theorem rwlWrite_refused {cur new : Nat} (h : new ≠ cur) (a : Nat) (set : Chip → Chip) (s : Chip) :
    rwlWrite false a cur new set s = (lockViol a s, true) := by simp [rwlWrite, h]

/-- The executive's write to a register address in a domain that is on takes the effect of `regWrite`. -/
theorem does_executiveWrite {addr : BitVec 24} {v : Word} {s : State} {t : Chip} {refused : Bool} {P : Chip → Prop}
    (ha : regAddrOk addr.toNat = true) (hoff : regOff s.toChip addr.toNat = false)
    (hw : regWrite .executive addr.toNat v.toNat s.toChip = some (t, refused)) (hP : P t) :
    Does (.registerWrite .executive addr v) s P := by
  have hexec : execRegisterWrite .executive addr v s = .next { s with toChip := t } := by
    unfold execRegisterWrite
    exact on_next (by simp [ha, hoff, hw])
  exact ⟨t, hexec, hP⟩

/-- APC_PERF_UEN is field 6 of APC's record, 11 bits that are RWL to the executive (R423). -/
theorem regWrite_perfUen (v : Nat) (s : Chip) : regWrite .executive 0x0F0004 v s =
    some (rwlWrite (!s.boot.committed) 0x0F0004 (apcCfg s 6) (v % 2 ^ 11) (cfgSet 0x0F01 6 (v % 2 ^ 11)) s) := by
  simp [regWrite, within]

theorem regWrite_perfUen_open {s : Chip} (hc : s.boot.committed = false) (v : Nat) :
    regWrite .executive 0x0F0004 v s = some (cfgSet 0x0F01 6 (v % 2 ^ 11) s, false) := by
  rw [regWrite_perfUen, hc, Bool.not_false, rwlWrite_open]

theorem regWrite_perfUen_same {v : Nat} {s : Chip} (hc : s.boot.committed = true) (h : v % 2 ^ 11 = apcCfg s 6) :
    regWrite .executive 0x0F0004 v s = some (s, false) := by
  rw [regWrite_perfUen, hc, Bool.not_true, rwlWrite_same h]

theorem regWrite_perfUen_refused {v : Nat} {s : Chip} (hc : s.boot.committed = true) (h : v % 2 ^ 11 ≠ apcCfg s 6) :
    regWrite .executive 0x0F0004 v s = some (lockViol 0x0F0004 s, true) := by
  rw [regWrite_perfUen, hc, Bool.not_true, rwlWrite_refused h]

/-! ## The obligation -/

/-- Settles O15: before the commit the write is open; after it, the same value is no refusal, and another value is
`lockViol`. -/
theorem committedFieldsRefuseWrites : Obligations.CommittedFieldsRefuseWrites := by
  intro v s hoff
  have haddr : regAddrOk 0x0F0004 = true := by decide
  refine ⟨fun hc => ?beforeCommit, fun hc hsame => ?sameValue, fun hc hnew => ?refused⟩
  case beforeCommit => exact does_executiveWrite haddr hoff (regWrite_perfUen_open hc _) rfl
  case sameValue => exact does_executiveWrite haddr hoff (regWrite_perfUen_same hc hsame) rfl
  case refused =>
    refine does_executiveWrite haddr hoff (regWrite_perfUen_refused hc hnew)
      ⟨lockViol_lockCount .., lockViol_lockAddr .., lockViol_frame _ _ .cfg (by decide), lockViol_frame _ _,
        fun hnone => lockViol_raised (lockViolFree_of_none hnone) 0x0F0004,
        fun k hl hk => lockViol_raised (lockViolFree_of_some hl hk) 0x0F0004, fun k hl hk => ?_⟩
    rw [lockViol_of_recent hl hk]
    rfl

end Sys2Proof.Machine
end

section
/-! SUPPORT. Commands whose operands no sender can form (01 R38, 05 R155, 04 Table 4.8, 13 R389, 16 R473, 16 R474; the
fault is the model's choice, assumption 6). -/

namespace Sys2Proof.Machine

/-- What a meaning answers where its effect is a fault. -/
theorem on_fault {s : State} {f : Chip → Eff} {r : Fault} (h : f s.toChip = .fault r) : s.on f = .fault r := by
  simp [State.on, h]

theorem execDqWordWrite_illFormed {n : QId} (h : 32 ≤ n.val ∧ n.val < 64) (clk : Bool) (w : Word) (pri : BitVec 3)
    (str : Byte) (last : Bool) (s : State) : execDqWordWrite n clk w pri str last s = .fault .illFormed :=
  on_fault (if_pos h)

theorem execDqPacketRead_illFormed {n : QId} (h : n.val < 32) (s : State) : execDqPacketRead n s = .fault .illFormed :=
  on_fault (if_pos h)

theorem execChannelBlockOut_illFormed {samples : List (BitVec 10 × BitVec 10)} (h : samples.length ≠ 32) (ch : Fin 128)
    (s : State) : execChannelBlockOut ch samples s = .fault .illFormed :=
  on_fault (if_pos h)

theorem execCalibrationDone_illFormed {b : Band} {failed : Option (Fin 6)}
    (h : failed = some 0 ∨ (b = .bandB ∧ (failed = some 2 ∨ failed = some 4))) (results : List Bytes) (s : State) :
    execCalibrationDone b failed results s = .fault .illFormed :=
  on_fault (if_pos (h.imp_right fun ⟨hb, hf⟩ => ⟨by rw [hb]; rfl, hf⟩))

theorem execThermalSample_illFormed {readings : List Int} (h : readings.length ≠ 8) (s : State) :
    execThermalSample readings s = .fault .illFormed := by
  cases readings with
  | nil => exact on_fault rfl
  | cons r rs => exact on_fault (if_pos fun hrs => h (by simp [hrs]))

theorem execRailSample_illFormed {mv : List Nat} (h : mv.length ≠ 8) (s : State) :
    execRailSample mv s = .fault .illFormed :=
  on_fault (if_pos h)

theorem execTamperArm_illFormed {loopA loopB : List Nat} (h : loopA.length ≠ 64 ∨ loopB.length ≠ 64) (c : CmdRef)
    (s : State) : execTamperArm c loopA loopB s = .fault .illFormed :=
  if_pos h

/-- Settles O5: seven constructors have an ill-formed operand, and the meaning of each tests it first. -/
theorem illFormedOperandsFault : Obligations.IllFormedOperandsFault := by
  intro i s h
  cases i
  case dqWordWrite n clk w pri str last =>
    have hn : ¬ (n.val < 32 ∨ 64 ≤ n.val) := of_decide_eq_false h
    exact execDqWordWrite_illFormed (by omega) ..
  case dqPacketRead n => exact execDqPacketRead_illFormed (Nat.not_le.mp (of_decide_eq_false h)) s
  case channelBlockOut ch samples => exact execChannelBlockOut_illFormed (of_decide_eq_false h) ch s
  case calibrationDone b failed results =>
    have hstep : ¬ (failed ≠ some 0 ∧ (b = .bandB → failed ≠ some 2 ∧ failed ≠ some 4)) := of_decide_eq_false h
    have hfail : failed = some 0 ∨ (b = .bandB ∧ (failed = some 2 ∨ failed = some 4)) :=
      Classical.byContradiction fun hno => hstep ⟨fun h0 => hno (.inl h0), fun hb =>
        ⟨fun h2 => hno (.inr ⟨hb, .inl h2⟩), fun h4 => hno (.inr ⟨hb, .inr h4⟩)⟩⟩
    exact execCalibrationDone_illFormed hfail results s
  case thermalSample readings => exact execThermalSample_illFormed (of_decide_eq_false h) s
  case railSample mv => exact execRailSample_illFormed (of_decide_eq_false h) s
  case tamperArm c loopA loopB =>
    exact execTamperArm_illFormed (Decidable.not_and_iff_not_or_not.mp (of_decide_eq_false h)) c s
  all_goals exact nomatch h

end Sys2Proof.Machine
end

section
/-! SUPPORT. Draught queues (R22 to R41, R532): what a producer's word does to its queue, what a change of the banks lets
in, and what a block consumer takes. -/

namespace Sys2Proof.Machine

/-! ## One queue among the others -/

theorem insertIn_insertIn_self {α : Type} (l : List (Nat × α)) (i : Nat) (v w : α) :
    insertIn (insertIn l i v) i w = insertIn l i w := by
  induction l with
  | nil => simp [insertIn]
  | cons e l ih =>
    obtain ⟨k, x⟩ := e
    by_cases hlt : i < k
    · simp [insertIn, hlt]
    · by_cases heq : i = k <;> simp [insertIn, hlt, heq, ih]

@[simp] theorem Tab.set_set_self {α : Type} (t : Tab α) (i : Nat) (v w : α) : (t.set i v).set i w = t.set i w := by
  simp [Tab.set, insertIn_insertIn_self]

/-- An update puts the changed queue in place. -/
theorem dqUpd_eq_putQueue (n : Nat) (f : Dq → Dq) (s : Chip) : dqUpd n f s = putQueue n (f (s.dq.get n)) s := rfl

@[simp] theorem putQueue_get_self (n : Nat) (q : Dq) (s : Chip) : (putQueue n q s).dq.get n = q := by simp [putQueue]

theorem putQueue_get_other {n k : Nat} (h : k ≠ n) (q : Dq) (s : Chip) : (putQueue n q s).dq.get k = s.dq.get k :=
  Tab.get_set_other _ _ h.symm

theorem putQueue_frame (n : Nat) (q : Dq) (s : Chip) : OnlyChanges [.dq] s (putQueue n q s) :=
  dqUpd_frame s n fun _ => q

@[simp] theorem putQueue_putQueue (n : Nat) (q r : Dq) (s : Chip) : putQueue n r (putQueue n q s) = putQueue n r s := by
  simp [putQueue]

/-- A change of the queue that was just put in place. -/
theorem dqUpd_putQueue (n : Nat) (f : Dq → Dq) (q : Dq) (s : Chip) : dqUpd n f (putQueue n q s) = putQueue n (f q) s := by
  simp [dqUpd_eq_putQueue]

/-! ## The producer's words (R26, R27, R31) -/

/-- With no word waiting, credit lets none in. -/
theorem pumpGo_of_wait_nil {q : Dq} (h : q.wait = []) (k : Nat) : pumpGo k q = q := by
  cases k <;> simp [pumpGo, h]

theorem Dq.pump_of_wait_nil {q : Dq} (h : q.wait = []) : q.pump = q := pumpGo_of_wait_nil h _

/-- R27 gives a MARK item only where words were lost, no packet is open, and there is credit. -/
theorem dqMark_eq_self {n : Nat} {s : Chip}
    (h : (s.dq.get n).lost = 0 ∨ (s.dq.get n).opn ≠ none ∨ (s.dq.get n).credit = 0) : dqMark n s = s := by
  obtain h | h | h := h <;> simp [dqMark, h]

/-- A queue that changes and has no lost word to mark and none waiting: its change is all that happens. -/
theorem dqUpd_refill {n : Nat} {f : Dq → Dq} {s : Chip}
    (hmark : (f (s.dq.get n)).lost = 0 ∨ (f (s.dq.get n)).opn ≠ none)
    (hwait : (f (s.dq.get n)).wait = []) :
    dqUpd n Dq.pump (dqMark n (dqUpd n f s)) = putQueue n (f (s.dq.get n)) s := by
  have hno : dqMark n (dqUpd n f s) = dqUpd n f s :=
    dqMark_eq_self (hmark.imp (by simp) fun h => .inl (by simpa using h))
  rw [hno, dqUpd_eq_putQueue n f, dqUpd_putQueue, Dq.pump_of_wait_nil hwait]

/-- The last word of a packet of its own. -/
theorem Dq.accept_last_of_none {q : Dq} (h : q.opn = none) (w : Word) (pri : BitVec 3) (str : Byte) :
    q.accept w pri str true =
      { q with opn := none, fill := q.fill ++ [⟨.data, pri, str, 0, [w], 0, q.nextNo⟩], fresh := q.fresh + 1
               nextNo := q.nextNo + 1 } := by
  simp [Dq.accept, h]

/-- The last word of an open packet, which keeps the PRI and STREAM of its first. -/
theorem Dq.accept_last_of_some {q : Dq} {p : OpenPkt} (h : q.opn = some p) (w : Word) (pri : BitVec 3) (str : Byte) :
    q.accept w pri str true =
      { q with opn := none, fill := q.fill ++ [⟨.data, p.pri, p.stream, 0, p.words ++ [w], 0, q.nextNo⟩]
               fresh := q.fresh + 1, nextNo := q.nextNo + 1 } := by
  simp [Dq.accept, h]

/-- A lone word that is lost, the first since the last MARK item. -/
theorem Dq.lose_lone {q : Dq} (hopn : q.opn = none) (hrest : q.loseRest = false) (hlost : q.lost = 0) (pri : BitVec 3)
    (str : Byte) : q.lose pri str true = { q with lost := 1, lostPri := pri, lostStream := str } := by
  simp [Dq.lose, hopn, hlost, hrest.symm]

theorem Dq.lose_credit {q : Dq} (hopn : q.opn = none) (pri : BitVec 3) (str : Byte) (last : Bool) :
    (q.lose pri str last).credit = q.credit := by
  simp [Dq.lose, hopn, Dq.credit, Dq.depth, Dq.used]

/-- A word that meets credit. -/
theorem dqWrite_of_credit {n : Nat} {s : Chip} (hskip : (s.dq.get n).skip = false) (hrest : (s.dq.get n).loseRest = false)
    (hc : (s.dq.get n).credit ≠ 0) (clk : Bool) (w : Word) (pri : BitVec 3) (str : Byte) (last : Bool) :
    dqWrite n clk w pri str last s = putQueue n ((s.dq.get n).accept w pri str last) s := by
  simp [dqWrite, hskip, hrest, hc, putQueue]

/-- A clocked producer's word that meets no credit and belongs to no packet that is open. -/
theorem dqWrite_of_no_credit {n : Nat} {s : Chip} (hskip : (s.dq.get n).skip = false)
    (hrest : (s.dq.get n).loseRest = false) (hc : (s.dq.get n).credit = 0) (hopn : (s.dq.get n).opn = none) (w : Word)
    (pri : BitVec 3) (str : Byte) (last : Bool) :
    dqWrite n true w pri str last s = putQueue n ((s.dq.get n).lose pri str last) s := by
  have hno : dqMark n (putQueue n ((s.dq.get n).lose pri str last) s) = putQueue n ((s.dq.get n).lose pri str last) s :=
    dqMark_eq_self (.inr (.inr (by rw [putQueue_get_self, Dq.lose_credit hopn, hc])))
  rw [dqWrite, if_neg (by simp [hskip]), if_neg (by simp [hrest]), if_pos hc, if_pos rfl]
  exact hno

/-- A block producer's word is written, unless a self-timed producer withholds it. -/
theorem does_dqWordWrite {n : QId} {clk : Bool} {w : Word} {pri : BitVec 3} {str : Byte} {last : Bool} {s : State}
    {P : Chip → Prop} (hn : n.val < 32 ∨ 64 ≤ n.val) (h : (s.dq.get n.val).credit ≠ 0 ∨ clk = true)
    (hP : P (dqWrite n.val clk w pri str last s.toChip)) : Does (.dqWordWrite n clk w pri str last) s P := by
  have hblock : ¬ (32 ≤ n.val ∧ n.val < 64) := by omega
  have hwrites : ¬ ((s.dq.get n.val).credit = 0 ∧ !clk ∧ !(s.dq.get n.val).skip) := fun ⟨hc, hclk, _⟩ =>
    h.elim (· hc) fun ht => by simp [ht] at hclk
  have hexec : execDqWordWrite n clk w pri str last s =
      .next { s with toChip := dqWrite n.val clk w pri str last s.toChip } :=
    on_next ((if_neg hblock).trans (if_neg hwrites))
  exact ⟨_, hexec, hP⟩

/-- A self-timed producer without credit withholds its word (R26). -/
theorem does_dqWordWrite_withheld {n : QId} {w : Word} {pri : BitVec 3} {str : Byte} {last : Bool} {s : State}
    (hn : n.val < 32 ∨ 64 ≤ n.val) (hskip : (s.dq.get n.val).skip = false) (hc : (s.dq.get n.val).credit = 0) :
    Does (.dqWordWrite n false w pri str last) s fun t => t = s.toChip := by
  have hblock : ¬ (32 ≤ n.val ∧ n.val < 64) := by omega
  have hexec : execDqWordWrite n false w pri str last s = .next s :=
    on_next ((if_neg hblock).trans (if_pos ⟨hc, rfl, by simp [hskip]⟩))
  exact ⟨_, hexec, rfl⟩

/-! ## Swap and carry-over (R28, R532) -/

theorem swapBanks_of_canSwap {n : Nat} {s : Chip} (hswap : (s.dq.get n).canSwap = true) (hlost : (s.dq.get n).lost = 0)
    (hwait : (s.dq.get n).wait = []) : swapBanks n s = putQueue n (s.dq.get n).swap s :=
  (if_pos hswap).trans (dqUpd_refill (f := Dq.swap) (.inl hlost) hwait)

theorem does_dqBankSwap {n : QId} {s : State} {P : Chip → Prop} (hP : P (swapBanks n.val s.toChip)) :
    Does (.dqBankSwap n) s P := ⟨swapBanks n.val s.toChip, rfl, hP⟩

/-- A carry-over leaves the packet open, so that no MARK item comes between its words. -/
theorem does_dqCarryOver {n : QId} {p : OpenPkt} {s : State} {P : Chip → Prop}
    (hcarry : (s.dq.get n.val).canCarry = true) (hopn : (s.dq.get n.val).opn = some p)
    (hwait : (s.dq.get n.val).wait = []) (hP : P (putQueue n.val (s.dq.get n.val).carry s.toChip)) :
    Does (.dqCarryOver n) s P := by
  have hstill : (s.dq.get n.val).carry.opn ≠ none := by simp [Dq.carry, hopn]
  have hexec : execDqCarryOver n s = .next { s with toChip := putQueue n.val (s.dq.get n.val).carry s.toChip } :=
    on_next (congrArg _ ((if_pos hcarry).trans (dqUpd_refill (f := Dq.carry) (.inr hstill) hwait)))
  exact ⟨_, hexec, hP⟩

/-! ## A block consumer's read (R29, R35, R43) -/

/-- The packet that the reading order selects leaves its queue for the consumer. -/
theorem does_dqPacketRead {n : QId} {p : Pkt} {s : State} {P : Chip → Prop} (hn : 32 ≤ n.val)
    (hflush : (s.dq.get n.val).flushing = false) (hsel : selectPkt (s.dq.get n.val).drain = some p)
    (hP : P (consume n.val p
      (putQueue n.val { s.dq.get n.val with drain := (s.dq.get n.val).drain.erase p } s.toChip))) :
    Does (.dqPacketRead n) s P := by
  have hexec : execDqPacketRead n s = .next { s with
      toChip := consume n.val p
        (putQueue n.val { s.dq.get n.val with drain := (s.dq.get n.val).drain.erase p } s.toChip) } :=
    on_next (by simp [Nat.not_lt.mpr hn, Dq.popPacket, hflush, hsel, putQueue])
  exact ⟨_, hexec, hP⟩

/-- A MARK item, and a packet of any queue but the descriptors', waits at hand. -/
theorem consume_to_hand {n : Nat} {p : Pkt} (h : p.kind = .mark ∨ (p.kind = .data ∧ n ≠ 87)) (s : Chip) :
    consume n p s = dqUpd n (fun q => { q with hand := q.hand ++ [p] }) s := by
  obtain h | ⟨h, hn⟩ := h
  · simp [consume, h]
  · simp [consume, h, hn]

theorem consume_descriptor {p : Pkt} (h : p.kind = .data) (s : Chip) : consume 87 p s = takeDesc p s := by
  simp [consume, h]

/-- An ABORT item of a queue without a completion item of its own (assumption 83). -/
theorem consume_abort_noted {n : Nat} {p : Pkt} (h : p.kind = .abort) (hn : n ≠ 32) (hq : complQueue n = none)
    (s : Chip) :
    consume n p s = dqUpd n (fun q => { q with aborts := q.aborts ++ [(firstWord p.words, causeStatus p.cause)] }) s := by
  simp [consume, h, abortCompletion, hn, hq]

@[simp] theorem takeDesc_dq (p : Pkt) (s : Chip) : (takeDesc p s).dq = s.dq := rfl

@[simp] theorem takeDesc_held (p : Pkt) (s : Chip) : (takeDesc p s).fe.held = s.fe.held ++ [descOf s p] := rfl

theorem takeDesc_frame (p : Pkt) (s : Chip) : OnlyChanges [.fe] s (takeDesc p s) :=
  feUpd_frame s fun f =>
    { f with srcs := f.srcs.filter fun e => e.1 ≠ (descOf s p).words.getD 7 0, held := f.held ++ [descOf s p] }

/-- Settles O8: a word that meets credit is accepted and one that meets none is withheld or lost; a swap or a carry-over
lets no word in where none waits; and each kind of item goes where `consume` sends it. -/
theorem draughtWordsAndBanks : Obligations.DraughtWordsAndBanks := by
  refine ⟨fun n clk w pri str s hn hskip hrest => ⟨fun hc hopn => ?opens, fun p hc hopn => ?ends, fun hc => ?withheld,
    fun hc hopn hlost => ?lost⟩, fun n s hdrain hunder hfill hopn hflush hlost hwait => ?swap,
    fun n p s hopn hfirst hfull hdrain hunder hflush hwait => ?carry,
    fun n p s hn hflush hsel => ⟨fun hkind => ?hand, fun hkind h87 => ?descriptor, fun hkind h32 hq => ?abort⟩⟩
  case opens =>
    exact does_dqWordWrite hn (.inl hc)
      ((dqWrite_of_credit hskip hrest hc ..).trans (congrArg (putQueue _ · _) (Dq.accept_last_of_none hopn ..)))
  case ends =>
    exact does_dqWordWrite hn (.inl hc)
      ((dqWrite_of_credit hskip hrest hc ..).trans (congrArg (putQueue _ · _) (Dq.accept_last_of_some hopn ..)))
  case withheld => exact does_dqWordWrite_withheld hn hskip hc
  case lost =>
    exact does_dqWordWrite hn (.inr rfl)
      ((dqWrite_of_no_credit hskip hrest hc hopn ..).trans (congrArg (putQueue _ · _) (Dq.lose_lone hopn hrest hlost ..)))
  case swap =>
    have hswap : (s.dq.get n.val).canSwap = true := by simp [Dq.canSwap, hdrain, hunder, hfill, hopn, hflush]
    refine does_dqBankSwap ?_
    rw [swapBanks_of_canSwap hswap hlost hwait]
    exact ⟨putQueue_get_self .., fun k hk => putQueue_get_other hk .., putQueue_frame _ _ _⟩
  case carry =>
    have hcarry : (s.dq.get n.val).canCarry = true := by
      simp [Dq.canCarry, hopn, hfirst, hfull, hdrain, hunder, hflush]
    refine does_dqCarryOver hcarry hopn hwait ⟨?_, fun k hk => putQueue_get_other hk .., putQueue_frame _ _ _⟩
    rw [putQueue_get_self, Dq.carry, hopn, Option.map_some]
  case hand =>
    exact does_dqPacketRead hn hflush hsel ((consume_to_hand hkind _).trans (dqUpd_putQueue ..))
  case descriptor =>
    refine does_dqPacketRead hn hflush hsel ?_
    rw [h87, consume_descriptor hkind]
    exact ⟨rfl, (putQueue_frame _ _ _).trans (takeDesc_frame _ _), _, takeDesc_held .., rfl⟩
  case abort =>
    exact does_dqPacketRead hn hflush hsel ((consume_abort_noted hkind h32 hq _).trans (dqUpd_putQueue ..))

end Sys2Proof.Machine
end

section
/-! SUPPORT. Software on a Draught queue: what its reads, writes, flushes, disables and enables do (R30 to R40). -/

namespace Sys2Proof.Machine

/-! ## Software's reads and writes (R30, R38, R40) -/

@[simp] theorem setLoad_loads (who : Requester) (v : Word) (s : Chip) :
    (setLoad who v s).ubfen.loads.get (reqIdx who) = v := by simp [setLoad]

theorem setLoad_frame (who : Requester) (v : Word) (s : Chip) : OnlyChanges [.ubfen] s (setLoad who v s) := by
  intro x hx
  cases x
  case ubfen => exact absurd (List.mem_singleton_self _) hx
  all_goals rfl

/-- A read gives its requester the head word of a consumer queue and removes it. -/
theorem does_sysDqDataRead_consumer {n : Fin 64} {who : Requester} {s : State} {P : Chip → Prop}
    (hr : reaches who n.val s.toChip = true) (hn : n.val < 32)
    (hP : P (putQueue n.val (s.dq.get n.val).pop (setLoad who (s.dq.get n.val).head.data s.toChip))) :
    Does (.sysDqDataRead n who) s P := by
  have hexec : execSysDqDataRead n who s = .next { s with
      toChip := putQueue n.val (s.dq.get n.val).pop (setLoad who (s.dq.get n.val).head.data s.toChip) } :=
    on_next (by simp [hr, swConsumer, dqData, hn, putQueue])
  exact ⟨_, hexec, hP⟩

/-- A read of a producer queue gives the IDLE word and removes nothing. -/
theorem does_sysDqDataRead_producer {n : Fin 64} {who : Requester} {s : State} {P : Chip → Prop}
    (hr : reaches who n.val s.toChip = true) (hn : 32 ≤ n.val) (hP : P (setLoad who 0x000003FF s.toChip)) :
    Does (.sysDqDataRead n who) s P := by
  have hexec : execSysDqDataRead n who s = .next { s with toChip := setLoad who 0x000003FF s.toChip } :=
    on_next (by simp [hr, swConsumer, dqData, Nat.not_lt.mpr hn])
  exact ⟨_, hexec, hP⟩

theorem does_sysDqDataWrite_consumer {n : Fin 64} (who : Requester) (w : Word) {s : State} (hn : n.val < 32) :
    Does (.sysDqDataWrite n who w) s fun t => t = s.toChip := by
  have hexec : execSysDqDataWrite n who w s = .next s := on_next (by simp [swConsumer, hn])
  exact ⟨_, hexec, rfl⟩

/-- A write to a producer queue appends the word with the sideband that software holds there. -/
theorem does_sysDqDataWrite_producer {n : Fin 64} {who : Requester} {w : Word} {s : State} {P : Chip → Prop}
    (hr : reaches who n.val s.toChip = true) (hn : 32 ≤ n.val) (hP : P (swAppend n.val w s.toChip)) :
    Does (.sysDqDataWrite n who w) s P := by
  have hexec : execSysDqDataWrite n who w s = .next { s with toChip := swAppend n.val w s.toChip } :=
    on_next (by simp [hr, swConsumer, Nat.not_lt.mpr hn])
  exact ⟨_, hexec, hP⟩

/-- Software's word, which ends its packet, meets credit. -/
theorem swAppend_last_of_credit {n : Nat} {s : Chip} (hskip : (s.dq.get n).skip = false)
    (hrest : (s.dq.get n).loseRest = false) (hc : (s.dq.get n).credit ≠ 0) (hend : (s.dq.get n).sideEnd = true) (w : Word) :
    swAppend n w s = putQueue n ((s.dq.get n).accept w (s.dq.get n).sidePri (s.dq.get n).sideStream true) s :=
  (dqWrite_of_credit hskip hrest hc ..).trans (by rw [hend])

/-! ## Flush, disable, enable (R32 to R34, R36, R37) -/

/-- A flush that begins: each item turns into its ABORT item, that of the open packet behind them all. -/
theorem Dq.flush_of_not_flushing {q : Dq} (h : q.flushing = false) (c : BitVec 2) :
    q.flush c =
      { q with flushing := true, opn := none, skip := q.skip || q.opn.isSome
               under := q.under.map (fun u => ⟨u.pkt.aborted c, (u.pkt.aborted c).words⟩)
               drain := q.drain.map (Pkt.aborted c)
               fill := q.fill.map (Pkt.aborted c) ++
                 (match q.opn with
                  | some p => [⟨.abort, p.pri, p.stream, c, [firstWord p.words], p.words.getD 3 0, q.nextNo⟩]
                  | none => [])
               nextNo := q.nextNo + b2n q.opn.isSome } :=
  if_neg (by simp [h])

/-- A re-enabled queue holds one MARK item that counts what was unread. -/
theorem Dq.enable_of_disabled {q : Dq} (h : q.en = false) :
    q.enable =
      { q with en := true, under := none, opn := none, fill := []
               drain := if q.drain.length + q.fill.length + b2n q.under.isSome = 0 then []
                 else [⟨.mark, 0, 0, 0, [w32 (q.drain.length + q.fill.length + b2n q.under.isSome)], 0, q.nextNo⟩]
               nextNo := q.nextNo + 1 } :=
  if_neg (by simp [h])

theorem Dq.enable_lost (q : Dq) : q.enable.lost = q.lost := by unfold Dq.enable; split <;> rfl

theorem Dq.enable_wait (q : Dq) : q.enable.wait = q.wait := by unfold Dq.enable; split <;> rfl

theorem dqPutPacket_get_other {n k : Nat} (h : k ≠ n) (pri : BitVec 3) (str : Byte) (ws : List Word) (s : Chip) :
    (dqPutPacket n pri str ws s).dq.get k = s.dq.get k := by
  unfold dqPutPacket
  split
  · rfl
  · exact Tab.get_upd_other _ _ h.symm

theorem dqPutPacket_frame (n : Nat) (pri : BitVec 3) (str : Byte) (ws : List Word) (s : Chip) :
    OnlyChanges [.dq] s (dqPutPacket n pri str ws s) := by
  unfold dqPutPacket
  split
  · exact OnlyChanges.refl _ _
  · exact dqUpd_frame _ _ _

/-- One completion leaves on queue 3, and those behind it follow; or none does. -/
theorem injectOut_succ (k : Nat) (s : Chip) : injectOut (k + 1) s = s ∨ ∃ d, injectOut (k + 1) s =
    injectOut k (dqPutPacket 3 0 0 [d.2.1, w32 d.2.2] (feUpd (fun f => { f with injDone := f.injDone.erase d }) s)) := by
  simp only [injectOut]
  split
  · exact .inr ⟨_, rfl⟩
  · exact .inl rfl

/-- The completions of injected frames leave on queue 3 and on no other (R297). -/
theorem injectOut_get_other {j : Nat} (h : j ≠ 3) (k : Nat) (s : Chip) : (injectOut k s).dq.get j = s.dq.get j := by
  induction k generalizing s with
  | zero => rfl
  | succ k ih =>
    obtain hk | ⟨d, hk⟩ := injectOut_succ k s
    · rw [hk]
    · rw [hk, ih, dqPutPacket_get_other h, feUpd_dq]

theorem injectOut_frame (k : Nat) (s : Chip) : OnlyChanges [.dq, .fe] s (injectOut k s) := by
  induction k generalizing s with
  | zero => exact OnlyChanges.refl _ _
  | succ k ih =>
    obtain hk | ⟨d, hk⟩ := injectOut_succ k s
    · rw [hk]
      exact OnlyChanges.refl _ _
    · rw [hk]
      exact (((feUpd_frame _ _).trans (dqPutPacket_frame _ _ _ _ _)).trans (ih _)).mono (by simp)

theorem does_dqDisable {n : Fin 64} {who : Requester} {s : State} {P : Chip → Prop}
    (hr : reaches who n.val s.toChip = true) (hen : (s.dq.get n.val).en = true)
    (hP : P (putQueue n.val { (s.dq.get n.val).flush 0b01 with en := false } s.toChip)) :
    Does (.dqDisable n who) s P := by
  have hexec : execDqDisable n who s =
      .next { s with toChip := putQueue n.val { (s.dq.get n.val).flush 0b01 with en := false } s.toChip } :=
    on_next (by simp [hr, dqUpd_eq_putQueue, Dq.disable, hen])
  exact ⟨_, hexec, hP⟩

theorem does_dqFlush {n : Fin 64} {who : Requester} {s : State} {P : Chip → Prop}
    (hr : reaches who n.val s.toChip = true) (hP : P (putQueue n.val ((s.dq.get n.val).flush 0b00) s.toChip)) :
    Does (.dqFlush n who) s P := by
  have hexec : execDqFlush n who s =
      .next { s with toChip := putQueue n.val ((s.dq.get n.val).flush 0b00) s.toChip } :=
    on_next (by simp [hr, dqUpd_eq_putQueue])
  exact ⟨_, hexec, hP⟩

/-- What an enable leaves of the device where queue `n` becomes `q`: behind queue 32 the completions held back leave. -/
def enabledChip (n : Nat) (q : Dq) (s : Chip) : Chip :=
  if n = 32 then injectOut s.fe.injDone.length (putQueue n q s) else putQueue n q s

theorem enabledChip_get_self (n : Nat) (q : Dq) (s : Chip) : (enabledChip n q s).dq.get n = q := by
  unfold enabledChip
  split
  · next h => rw [injectOut_get_other (by omega), putQueue_get_self]
  · exact putQueue_get_self ..

theorem enabledChip_get_other {n j : Nat} (hj : j ≠ n) (h3 : ¬ (n = 32 ∧ j = 3)) (q : Dq) (s : Chip) :
    (enabledChip n q s).dq.get j = s.dq.get j := by
  unfold enabledChip
  split
  · next h => rw [injectOut_get_other fun hj3 => h3 ⟨h, hj3⟩, putQueue_get_other hj]
  · exact putQueue_get_other hj ..

theorem enabledChip_frame (n : Nat) (q : Dq) (s : Chip) :
    OnlyChanges (if n = 32 then [.dq, .fe] else [.dq]) s (enabledChip n q s) := by
  unfold enabledChip
  split
  · exact ((putQueue_frame n q s).trans (injectOut_frame _ _)).mono (by simp)
  · exact putQueue_frame n q s

theorem does_dqEnable {n : Fin 64} {who : Requester} {s : State} {P : Chip → Prop}
    (hr : reaches who n.val s.toChip = true) (hlost : (s.dq.get n.val).lost = 0) (hwait : (s.dq.get n.val).wait = [])
    (hP : P (enabledChip n.val (s.dq.get n.val).enable s.toChip)) : Does (.dqEnable n who) s P := by
  have hin := dqUpd_refill (s := s.toChip) (.inl ((Dq.enable_lost _).trans hlost)) ((Dq.enable_wait _).trans hwait)
  have hexec : execDqEnable n who s =
      .next { s with toChip := enabledChip n.val (s.dq.get n.val).enable s.toChip } :=
    on_next (by simp only [hr, if_true, hin]; rfl)
  exact ⟨_, hexec, hP⟩

theorem does_dqFlushDone {n : QId} {s : State} {P : Chip → Prop} (hflush : (s.dq.get n.val).flushing = true)
    (hlost : (s.dq.get n.val).lost = 0) (hwait : (s.dq.get n.val).wait = [])
    (hP : P (putQueue n.val { s.dq.get n.val with flushing := false } s.toChip)) : Does (.dqFlushDone n) s P := by
  have hexec : execDqFlushDone n s =
      .next { s with toChip := putQueue n.val { s.dq.get n.val with flushing := false } s.toChip } :=
    on_next (congrArg _ ((if_pos hflush).trans
      (dqUpd_refill (f := fun q => { q with flushing := false }) (.inl hlost) hwait)))
  exact ⟨_, hexec, hP⟩

/-- Settles O9: a read or a write goes by the side that software stands on; a flush, a disable and an enable are the
model's own changes of the queue, written out; and completions that an enable releases touch queue 3 alone. -/
theorem draughtSoftwareSide : Obligations.DraughtSoftwareSide := by
  refine ⟨fun n who s hr => ⟨fun hn => ?readConsumer, fun hn => ?readProducer,
    fun w hn => does_sysDqDataWrite_consumer who w hn, fun w hn hskip hrest hc hopn hend => ?write,
    fun hen hflush => ?disable, fun hflush => ?flush, fun hen hlost hwait => ?enable⟩,
    fun n s hflush hlost hwait => ?flushDone⟩
  case readConsumer =>
    exact does_sysDqDataRead_consumer hr hn
      ⟨setLoad_loads .., rfl, ((setLoad_frame _ _ _).trans (putQueue_frame _ _ _)).mono (by simp)⟩
  case readProducer => exact does_sysDqDataRead_producer hr hn ⟨setLoad_loads .., setLoad_frame _ _ _⟩
  case write =>
    exact does_sysDqDataWrite_producer hr hn
      ((swAppend_last_of_credit hskip hrest hc hend w).trans
        (congrArg (putQueue _ · _) (Dq.accept_last_of_none hopn ..)))
  case disable =>
    exact does_dqDisable hr hen (congrArg (fun q : Dq => putQueue n.val { q with en := false } s.toChip)
      (Dq.flush_of_not_flushing hflush _))
  case flush => exact does_dqFlush hr (congrArg (putQueue _ · _) (Dq.flush_of_not_flushing hflush _))
  case enable =>
    exact does_dqEnable hr hlost hwait ⟨(enabledChip_get_self ..).trans (Dq.enable_of_disabled hen),
      fun j hj h3 => enabledChip_get_other hj h3 .., enabledChip_frame _ _ _⟩
  case flushDone =>
    exact does_dqFlushDone hflush hlost hwait
      ⟨putQueue_get_self .., fun j hj => putQueue_get_other hj .., putQueue_frame _ _ _⟩

end Sys2Proof.Machine
end

section
/-! SUPPORT. The SPI transport (R50 to R54): what READ_PACKET and READ_STATUS return, and which transactions are
discarded. -/

namespace Sys2Proof.Machine

/-! ## Effects and frames -/

/-- A meaning `e` that answers a next state in every case. -/
theorem does_next {i : Instr} {s : State} {f : Chip → Chip} {t : Chip} {P : Chip → Prop} (e : Out) (hi : exec i s = e)
    (he : e = s.on fun x => .next (f x)) (hf : f s.toChip = t) (hP : P t) : Does i s P :=
  does_on (hi.trans he) (congrArg _ hf) hP

theorem Does.imp {i : Instr} {s : State} {P Q : Chip → Prop} (h : Does i s P) (hPQ : ∀ t, P t → Q t) : Does i s Q := by
  obtain ⟨t, ht, hP⟩ := h
  exact ⟨t, ht, hPQ t hP⟩

theorem setUbfen_frame (s : Chip) (u : Ubfen) : OnlyChanges [.ubfen] s { s with ubfen := u } := by
  intro x hx
  cases x
  case ubfen => exact absurd (List.mem_singleton_self _) hx
  all_goals rfl

/-! ## Fields of byte strings (R5) -/

theorem leNat_lt (bs : Bytes) : leNat bs < 256 ^ bs.length := by
  induction bs with
  | nil => exact Nat.one_pos
  | cons b bs ih =>
    have hb : b.toNat < 256 := b.isLt
    rw [leNat, List.length_cons, Nat.pow_succ]
    omega

/-- A field holds no more than its bytes can. -/
theorem rd_lt (bs : Bytes) (off n : Nat) : rd bs off n < 256 ^ n :=
  Nat.lt_of_lt_of_le (leNat_lt _) (Nat.pow_le_pow_right (by decide) (List.length_take_le ..))

/-- A field within the first of two byte strings. -/
theorem rd_append_left {bs : Bytes} {off n : Nat} (h : off + n ≤ bs.length) (cs : Bytes) :
    rd (bs ++ cs) off n = rd bs off n := by
  rw [rd, rd, List.drop_append_of_le_length (by omega), List.take_append_of_le_length (by rw [List.length_drop]; omega)]

theorem take_wr {n k : Nat} (h : n ≤ k) (v : Nat) : (wr k v).take n = wr n v := by
  induction n generalizing k v with
  | zero => rfl
  | succ n ih =>
    obtain ⟨k, rfl⟩ : ∃ j, k = j + 1 := ⟨k - 1, by omega⟩
    rw [wr, wr, List.take_succ_cons, ih (by omega)]

/-- A field of a number that was written. -/
theorem rd_wr {k off n : Nat} (h : off + n ≤ k) (v : Nat) : rd (wr k v) off n = v / 256 ^ off % 256 ^ n := by
  induction off generalizing k v with
  | zero => rw [rd, List.drop_zero, take_wr (by omega), leNat_wr, Nat.pow_zero, Nat.div_one]
  | succ off ih =>
    obtain ⟨k, rfl⟩ : ∃ j, k = j + 1 := ⟨k - 1, by omega⟩
    have hin : off + n ≤ k := by omega
    rw [Nat.pow_succ', ← Nat.div_div_eq_div_mul, ← ih hin]
    rfl

theorem b2n_le_one (b : Bool) : b2n b ≤ 1 := by cases b <;> decide

/-- The flag that one bit of a number holds. -/
theorem bitOf_of_div {v i : Nat} {b : Bool} (h : v / 2 ^ i % 2 = b2n b) : bitOf v i = b := by
  rw [bitOf, Nat.testBit_eq_decide_div_mod_eq, h]
  cases b <;> rfl

/-! ## READ_PACKET (R50, R54) -/

/-- What `k` bytes clocked out show of a packet: its first bytes, and 0x00 after the last. -/
def clockedOut (p : Bytes) (k : Nat) : Bytes := (p ++ zeros (k - p.length)).take k

@[simp] theorem clockedOut_length (p : Bytes) (k : Nat) : (clockedOut p k).length = k := by
  simp [clockedOut]
  omega

theorem zeros_getD (n i : Nat) : (zeros n).getD i 0 = 0 := by
  rw [zeros, List.getD_eq_getElem?_getD, List.getElem?_replicate]
  split <;> rfl

theorem clockedOut_getD (p : Bytes) (k i : Nat) : (clockedOut p k).getD i 0 = if i < k then p.getD i 0 else 0 := by
  by_cases hi : i < k
  · rw [if_pos hi, clockedOut, List.getD_eq_getElem?_getD, List.getElem?_take_of_lt hi, List.getD_eq_getElem?_getD]
    by_cases hp : i < p.length
    · rw [List.getElem?_append_left hp]
    · have hle : p.length ≤ i := Nat.not_lt.mp hp
      rw [List.getElem?_append_right hle, ← List.getD_eq_getElem?_getD, zeros_getD, List.getElem?_eq_none hle]
      rfl
  · rw [if_neg hi, List.getD_eq_getElem?_getD, List.getElem?_eq_none (by rw [clockedOut_length]; omega)]
    rfl

theorem clockedOut_of_le {p : Bytes} {k : Nat} (h : p.length ≤ k) : clockedOut p k = p ++ zeros (k - p.length) :=
  List.take_of_length_le (by simp; omega)

theorem emptyPacket_getD (i : Nat) : emptyPacket.getD i 0 = if i = 0 then 0xFF else if i = 1 then 0x03 else 0 := by
  match i with
  | 0 => rfl
  | 1 => rfl
  | i + 2 => exact zeros_getD 18 i

theorem clockedOut_emptyPacket_getD (k i : Nat) : (clockedOut emptyPacket k).getD i 0 =
    if i = 0 ∧ 0 < k then 0xFF else if i = 1 ∧ 1 < k then 0x03 else 0 := by
  rw [clockedOut_getD, emptyPacket_getD]
  match i with
  | 0 => simp
  | 1 => simp
  | i + 2 => simp

/-- The fields at the start of the empty packet, of which every byte was clocked out. -/
theorem rd_clockedOut_emptyPacket {k n : Nat} (hk : 20 ≤ k) (hn : n ≤ 20) :
    rd (clockedOut emptyPacket k) 0 n = rd emptyPacket 0 n := by
  rw [clockedOut_of_le (show emptyPacket.length ≤ k from hk), rd_append_left]
  rw [Nat.zero_add]
  exact hn

theorem does_spiReadPacket_empty {k : Nat} {s : State} {P : Chip → Prop} (hpd : pdOn s.toChip 1 = true)
    (hout : s.ubfen.spiOut = [])
    (hP : P { s.toChip with ubfen := { s.ubfen with spiRead := clockedOut emptyPacket k } }) :
    Does (.spiReadPacket k) s P := by
  refine does_next (execSpiReadPacket k s) rfl rfl ?_ hP
  simp only [hpd, hout]
  rfl

section
variable {k : Nat} {s : State} {p : Bytes} {x : Option Nat × Nat} {rest : List (Bytes × Option Nat × Nat)}
  {P : Chip → Prop} (hpd : pdOn s.toChip 1 = true) (hout : s.ubfen.spiOut = (p, x) :: rest)
include hpd hout

/-- A packet whose last byte was clocked out leaves. -/
theorem does_spiReadPacket_whole (hk : p.length ≤ k)
    (hP : P { s.toChip with ubfen := { s.ubfen with spiRead := clockedOut p k, spiOut := rest } }) :
    Does (.spiReadPacket k) s P := by
  refine does_next (execSpiReadPacket k s) rfl rfl ?_ hP
  simp only [hpd, hout, if_pos hk]
  rfl

/-- A packet that was clocked out in part stays in front. -/
theorem does_spiReadPacket_part (hk : k < p.length)
    (hP : P { s.toChip with ubfen := { s.ubfen with spiRead := clockedOut p k } }) : Does (.spiReadPacket k) s P := by
  refine does_next (execSpiReadPacket k s) rfl rfl ?_ hP
  simp only [hpd, hout, if_neg (Nat.not_le.mpr hk)]
  rfl

end

/-- `k` bytes were clocked out, and they are the packet's as far as it goes. -/
def ShowsPacket (p : Bytes) (k : Nat) (t : Chip) : Prop :=
  t.ubfen.spiRead.length = k ∧ ∀ i, i < k → t.ubfen.spiRead.getD i 0 = p.getD i 0

theorem showsPacket_of_clockedOut {p : Bytes} {k : Nat} {t : Chip} (h : t.ubfen.spiRead = clockedOut p k) :
    ShowsPacket p k t := by
  refine ⟨by rw [h, clockedOut_length], fun i hi => ?_⟩
  rw [h, clockedOut_getD, if_pos hi]

/-- The packet in front is shown, whether it leaves or stays. -/
theorem does_spiReadPacket_shows {k : Nat} {s : State} {p : Bytes} {x : Option Nat × Nat}
    {rest : List (Bytes × Option Nat × Nat)} (hpd : pdOn s.toChip 1 = true)
    (hout : s.ubfen.spiOut = (p, x) :: rest) : Does (.spiReadPacket k) s (ShowsPacket p k) := by
  obtain hk | hk := Nat.lt_or_ge k p.length
  · exact does_spiReadPacket_part hpd hout hk (showsPacket_of_clockedOut rfl)
  · exact does_spiReadPacket_whole hpd hout hk (showsPacket_of_clockedOut rfl)

/-- Settles O57: the bytes clocked out are `clockedOut` of the packet in front, or of the empty packet, and the packet
that is in front afterwards is shown by the read that follows. -/
theorem spiReadsReturnPacketsInOrder : Obligations.SpiReadsReturnPacketsInOrder := by
  intro k s hpd
  refine ⟨fun hout => ?none, fun p x rest hout => ?waiting⟩
  case none =>
    exact does_spiReadPacket_empty hpd hout ⟨rfl, clockedOut_length .., clockedOut_emptyPacket_getD k,
      fun hk => ⟨rd_clockedOut_emptyPacket hk (by decide), rd_clockedOut_emptyPacket hk (by decide)⟩,
      setUbfen_frame _ _⟩
  case waiting =>
    obtain hk | hk := Nat.lt_or_ge k p.length
    · exact does_spiReadPacket_part hpd hout hk ⟨showsPacket_of_clockedOut rfl, setUbfen_frame _ _,
        fun hle => absurd hk (Nat.not_lt.mpr hle), fun _ => ⟨rfl, fun n => does_spiReadPacket_shows hpd hout⟩⟩
    · exact does_spiReadPacket_whole hpd hout hk ⟨showsPacket_of_clockedOut rfl, setUbfen_frame _ _,
        fun _ => ⟨rfl, fun n q y r hr => does_spiReadPacket_shows hpd hr⟩, fun hlt => absurd hlt (Nat.not_lt.mpr hk)⟩

/-! ## READ_STATUS (R52, Table 2.5) -/

theorem evFill_pos_iff (s : Chip) : 0 < evFill s ↔ ∃ e ∈ s.ev.ring, e.unread = true := by
  simp [evFill, List.length_pos_iff_exists_mem]

/-- The status word as a sum of its fields. -/
theorem spiStatus_eq (s : Chip) : spiStatus s = b2n s.ubfen.ready + 2 * b2n s.boot.tamperHold +
    4 * b2n (decide (0 < evFill s)) + 8 * b2n s.ubfen.spiOverrun + 16 * b2n s.ubfen.spiShort +
    256 * min 255 s.ubfen.spiOut.length + 65536 * 16384 := by
  have hflag : ∀ b, b2n b % 2 = b2n b := fun b => Nat.mod_eq_of_lt (Nat.lt_succ_of_le (b2n_le_one b))
  simp only [spiStatus, pack, spiInputSize, Nat.reducePow, hflag]
  omega

/-- The fields of Table 2.5, read back from the status word. -/
theorem spiStatus_fields (s : Chip) : bitOf (rd (wr 4 (spiStatus s)) 0 1) 0 = s.ubfen.ready ∧
    bitOf (rd (wr 4 (spiStatus s)) 0 1) 1 = s.boot.tamperHold ∧
    bitOf (rd (wr 4 (spiStatus s)) 0 1) 2 = decide (0 < evFill s) ∧
    bitOf (rd (wr 4 (spiStatus s)) 0 1) 3 = s.ubfen.spiOverrun ∧
    bitOf (rd (wr 4 (spiStatus s)) 0 1) 4 = s.ubfen.spiShort ∧ rd (wr 4 (spiStatus s)) 0 1 / 32 = 0 ∧
    rd (wr 4 (spiStatus s)) 1 1 = min 255 s.ubfen.spiOut.length ∧ rd (wr 4 (spiStatus s)) 2 2 = 16384 := by
  have hready := b2n_le_one s.ubfen.ready
  have hhold := b2n_le_one s.boot.tamperHold
  have hevents := b2n_le_one (decide (0 < evFill s))
  have hoverrun := b2n_le_one s.ubfen.spiOverrun
  have hshort := b2n_le_one s.ubfen.spiShort
  rw [rd_wr (by decide), rd_wr (by decide), rd_wr (by decide), spiStatus_eq]
  refine ⟨bitOf_of_div ?_, bitOf_of_div ?_, bitOf_of_div ?_, bitOf_of_div ?_, bitOf_of_div ?_, ?_, ?_, ?_⟩ <;> omega

theorem does_spiReadStatus {s : State} {P : Chip → Prop} (hpd : pdOn s.toChip 1 = true)
    (hP : P { s.toChip with ubfen := { s.ubfen with
      spiRead := wr 4 (spiStatus s.toChip), spiOverrun := false, spiShort := false } }) : Does .spiReadStatus s P := by
  refine does_next (execSpiReadStatus s) rfl rfl ?_ hP
  simp only [hpd]
  rfl

/-! ## WRITE_PACKET (R53) -/

theorem does_spiWritePacket_short {d : Bytes} {s : State} (hpd : pdOn s.toChip 1 = true) (hd : d.length < 16) :
    Does (.spiWritePacket d) s fun t => t = { s.toChip with ubfen := { s.ubfen with spiShort := true } } := by
  refine does_next (execSpiWritePacket d s) rfl rfl ?_ rfl
  simp [hpd, hd]

theorem does_spiWritePacket_overrun {d : Bytes} {s : State} (hpd : pdOn s.toChip 1 = true) (hd : 16384 < d.length) :
    Does (.spiWritePacket d) s fun t => t = { s.toChip with ubfen := { s.ubfen with spiOverrun := true } } := by
  have h16 : ¬ d.length < 16 := by omega
  refine does_next (execSpiWritePacket d s) rfl rfl ?_ rfl
  simp [hpd, h16, spiInputSize, hd]

section
variable {d : Bytes} {s : State} (hpd : pdOn s.toChip 1 = true) (h16 : 16 ≤ d.length) (hd : d.length ≤ 16384)
include hpd h16 hd

theorem does_spiWritePacket_notReady (hready : s.ubfen.ready = false) :
    Does (.spiWritePacket d) s fun t => t = s.toChip := by
  refine does_next (execSpiWritePacket d s) rfl rfl ?_ rfl
  simp [hpd, Nat.not_lt.mpr h16, spiInputSize, Nat.not_lt.mpr hd, hready]

/-- A transaction of a legal length meets the admission checks while READY is 1. -/
theorem does_spiWritePacket_ready {P : Chip → Prop} (hready : s.ubfen.ready = true)
    (hP : P (admitPacket 0 [] d s.toChip)) : Does (.spiWritePacket d) s P := by
  refine does_next (execSpiWritePacket d s) rfl rfl ?_ hP
  simp [hpd, Nat.not_lt.mpr h16, spiInputSize, Nat.not_lt.mpr hd, hready]

end

/-- Settles O58: the status word read is the sum of its fields, each where Table 2.5 puts it; and a write transaction
of each length goes its own way. -/
theorem spiStatusShowsAndClears : Obligations.SpiStatusShowsAndClears := by
  intro s hpd
  refine ⟨does_spiReadStatus hpd ?word, fun d => ⟨fun hd => does_spiWritePacket_short hpd hd,
    fun hd => does_spiWritePacket_overrun hpd hd, fun hready h16 hd => does_spiWritePacket_notReady hpd h16 hd hready⟩⟩
  case word =>
    obtain ⟨hready, hhold, hevents, hoverrun, hshort, hpad, hpackets, hspace⟩ := spiStatus_fields s.toChip
    exact ⟨wr_length .., hready, hhold, by rw [hevents, decide_eq_true_iff, evFill_pos_iff], hoverrun, hshort, hpad,
      hpackets, hspace, rfl, setUbfen_frame _ _⟩

end Sys2Proof.Machine
end

section
/-! SUPPORT. Admission (R60, R62, R63): a packet that passes every check of Table 2.8 takes its place in its stream,
over SPI, in a management frame or from a mailbox (R53, R55, R57). -/

namespace Sys2Proof.Machine

/-! ## The checks (Table 2.8) -/

/-- A SEQUENCE of no kept reply and of no command in hand repeats nothing (R63). -/
theorem duplicate_eq_no {tr cls : Nat} {seq : Word} {s : Chip}
    (hkept : ∀ k ∈ (s.ubfen.streams.get (streamKey tr cls)).kept, k.1 ≠ seq)
    (hhand : ∀ m ∈ s.ubfen.cmds, m.tr = tr → m.cls = cls → m.seq ≠ seq) : duplicate tr cls seq s = .no := by
  have hfind : ((s.ubfen.streams.get (streamKey tr cls)).kept.find? fun k => k.1 = seq) = none :=
    List.find?_eq_none.mpr fun k hk => by simpa using hkept k hk
  have hany : (s.ubfen.cmds.any fun m => m.tr = tr && m.cls = cls && m.seq = seq) = false :=
    List.any_eq_false.mpr fun m hm => by simpa using fun h => hhand m hm h
  simp only [duplicate, hfind, hany]
  rfl

theorem admitPacket_eq_takeIn {tr : Nat} {pkt : Bytes} {s : Chip} (h : Admissible tr pkt s) (back : Bytes) :
    admitPacket tr back pkt s = takeIn tr back pkt s := by
  obtain ⟨hen, hlen, halign, hmax, hver, hcrc, hkind, hcls, hkept, hhand, hseq, htag, hcredit, hreset, hnoReset⟩ := h
  have hlength : ¬ (pkt.length ≠ 20 + rd pkt 6 2 ∨ rd pkt 6 2 % 4 ≠ 0 ∨ 8192 < rd pkt 6 2) := by omega
  have hcrcOk : crcOk pkt = true := decide_eq_true hcrc.symm
  have hdup := duplicate_eq_no hkept hhand
  have hinSeq : ¬ ((s.ubfen.streams.get (streamKey tr (rd pkt 5 1))).expect.isSome = true ∧
      (s.ubfen.streams.get (streamKey tr (rd pkt 5 1))).expect ≠ some (w32 (rd pkt 8 4))) := by
    rintro ⟨hsome, hne⟩
    obtain hnone | heq := hseq
    · simp [hnone] at hsome
    · exact hne heq
  have htagFree : (s.ubfen.cmds.any fun m => m.tr = tr && m.tag.toNat = rd pkt 4 1 && m.done.isNone) = false :=
    List.any_eq_false.mpr fun m hm => by simpa using fun htr ht hd => htag m hm htr hd ht
  have hidle : (s.ubfen.resetWait.isSome || s.ubfen.cmds.any fun m => m.opcode = 0x0006 && m.done.isNone) = false := by
    simp only [hreset, Option.isSome_none, Bool.false_or, List.any_eq_false]
    exact fun m hm => by simpa using fun hop hd => hnoReset m hm hd hop
  simp only [admitPacket, hen, hver, hcrcOk, hkind, hdup, if_neg hlength, if_neg (Nat.not_lt.mpr hcls), if_neg hinSeq,
    htagFree, if_neg (Nat.not_le.mpr hcredit), hidle]
  rfl

/-! ## The place in the stream -/

theorem takeIn_admitted (tr : Nat) (back pkt : Bytes) (s : Chip) : Admitted tr back pkt s (takeIn tr back pkt s) := by
  have htag : (byte (rd pkt 4 1)).toNat = rd pkt 4 1 := Nat.mod_eq_of_lt (rd_lt pkt 4 1)
  have hflags : (byte (rd pkt 1 1)).toNat = rd pkt 1 1 := Nat.mod_eq_of_lt (rd_lt pkt 1 1)
  have hseq : (w32 (rd pkt 8 4)).toNat = rd pkt 8 4 := Nat.mod_eq_of_lt (rd_lt pkt 8 4)
  exact ⟨⟨_, rfl, rfl, rfl, htag, rfl, hseq, hflags, rfl, rfl, rfl, rfl, rfl, rfl, rfl⟩, by simp [takeIn]⟩

theorem takeIn_frame (tr : Nat) (back pkt : Bytes) (s : Chip) : OnlyChanges [.ubfen] s (takeIn tr back pkt s) :=
  setUbfen_frame _ _

/-- An admissible packet is admitted, and nothing else happens. -/
theorem admitPacket_admits {tr : Nat} {pkt : Bytes} {s : Chip} (h : Admissible tr pkt s) (back : Bytes) :
    Admitted tr back pkt s (admitPacket tr back pkt s) ∧ OnlyChanges [.ubfen] s (admitPacket tr back pkt s) := by
  rw [admitPacket_eq_takeIn h]
  exact ⟨takeIn_admitted .., takeIn_frame _ _ _ _⟩

/-! ## SPI (R53) -/

/-- A packet that passes the length check is no short transaction. -/
theorem Admissible.sixteen_le {tr : Nat} {pkt : Bytes} {s : Chip} (h : Admissible tr pkt s) : 16 ≤ pkt.length := by
  obtain ⟨_, hlen, _⟩ := h
  omega

/-! ## Management frames (R55, Table 2.6) -/

/-- A frame of EtherType 0x88B5, whose 802.1Q tag may be empty. -/
def frame88B5 (dst src tag body : Bytes) : Bytes := dst ++ (src ++ (tag ++ 0x88 :: 0xB5 :: body))

section
variable {dst src tag : Bytes} (hdst : dst.length = 6) (hsrc : src.length = 6) (body : Bytes)
include hdst

theorem take_frame88B5_dst : (frame88B5 dst src tag body).take 6 = dst := List.take_left' hdst

include hsrc

theorem take_frame88B5_src : ((frame88B5 dst src tag body).drop 6).take 6 = src := by
  rw [frame88B5, List.drop_left' hdst, List.take_left' hsrc]

theorem drop_frame88B5 (n : Nat) :
    (frame88B5 dst src tag body).drop (12 + n) = (tag ++ 0x88 :: 0xB5 :: body).drop n := by
  rw [frame88B5, ← List.append_assoc, ← List.drop_drop, List.drop_left' (by rw [List.length_append, hdst, hsrc])]

/-- A tag is found where there is one, and the EtherType is none. -/
theorem vlanTag_frame88B5 (htag : tag = [] ∨ ∃ a b, tag = [0x81, 0x00, a, b]) :
    vlanTag (frame88B5 dst src tag body) = tag := by
  have hdrop := drop_frame88B5 (tag := tag) hdst hsrc body 0
  rw [Nat.add_zero, List.drop_zero] at hdrop
  rw [vlanTag, hdrop]
  obtain rfl | ⟨a, b, rfl⟩ := htag <;> rfl

theorem drop_frame88B5_body : (frame88B5 dst src tag body).drop (14 + tag.length) = body := by
  rw [show 14 + tag.length = 12 + (tag.length + 2) by omega, drop_frame88B5 hdst hsrc, ← List.drop_drop, List.drop_left]
  rfl

theorem be16_frame88B5 : be16 (frame88B5 dst src tag body) (12 + tag.length) = 0x88B5 := by
  have hbyte (i : Nat) :
      (frame88B5 dst src tag body).getD (12 + tag.length + i) 0 = ((0x88 : Byte) :: 0xB5 :: body).getD i 0 := by
    rw [List.getD_eq_getElem?_getD, ← List.getElem?_drop, drop_frame88B5 hdst hsrc, List.drop_left,
      List.getD_eq_getElem?_getD]
  have hhigh := hbyte 0
  rw [Nat.add_zero] at hhigh
  simp only [be16, hbyte 1, hhigh]
  simp

end

/-- Behind the EtherType: the identifier of Table 2.6, the packet, and padding. -/
def mgmtBody (pkt pad : Bytes) : Bytes := 0x55 :: 0x42 :: 0x01 :: 0x00 :: (pkt ++ pad)

/-- The port's management hands the packet on without the padding (R60, assumption 101). -/
theorem mgmtReceive_eq {p : Nat} {dst src tag pkt pad : Bytes} {s : Chip} (hready : s.ubfen.ready = true)
    (hdst : dst.length = 6) (hsrc : src.length = 6) (htag : tag = [] ∨ ∃ a b, tag = [0x81, 0x00, a, b])
    (hport : dst = portMac p s) (hhost : permittedHost p src s = true)
    (hvlan : onMgmtVlan p (frame88B5 dst src tag (mgmtBody pkt pad)) s = true) (h : Admissible (1 + p) pkt s) :
    mgmtReceive p (frame88B5 dst src tag (mgmtBody pkt pad)) s = admitPacket (1 + p) (src ++ tag) pkt s := by
  have h16 : 16 ≤ (pkt ++ pad).length := by
    rw [List.length_append]
    exact Nat.le_add_right_of_le h.sixteen_le
  obtain ⟨hen, hlen, _⟩ := h
  have hfield : rd (pkt ++ pad) 6 2 = rd pkt 6 2 := rd_append_left (by omega) pad
  have hpkt : (pkt ++ pad).take (20 + rd (pkt ++ pad) 6 2) = pkt := by rw [hfield, List.take_left' hlen]
  simp only [mgmtReceive, vlanTag_frame88B5 hdst hsrc _ htag, drop_frame88B5_body hdst hsrc, take_frame88B5_dst hdst,
    take_frame88B5_src hdst hsrc]
  rw [if_pos ⟨hready, hport, hen, hvlan, hhost, rfl, h16⟩]
  exact congrArg (admitPacket _ _ · s) hpkt

/-! ## Mailboxes (R57) -/

/-- The item that the consumer has already read. -/
theorem nextItem_of_hand {n : Nat} {p : Pkt} {rest : List Pkt} {s : Chip} (h : (s.dq.get n).hand = p :: rest) :
    nextItem n s = some (p, putQueue n { s.dq.get n with hand := (s.dq.get n).hand.tail } s) := by
  simp only [nextItem, h]
  rfl

/-! ## The obligation -/

/-- Settles O11: each transport hands the packet whole to the admission checks, which an admissible packet passes. -/
theorem transportsAdmitCommands : Obligations.TransportsAdmitCommands := by
  refine ⟨fun pkt s hpd hready hmax h => ?spi, ?mgmt, ?mailbox⟩
  case spi => exact does_spiWritePacket_ready hpd h.sixteen_le hmax hready (admitPacket_admits h [])
  case mgmt =>
    intro p dst src tag pkt pad s hpd9 hpd1 hready frame hdst hsrc htag hport hhost hvlan h
    have hframe : frame = frame88B5 dst src tag (mgmtBody pkt pad) := by simp [frame, frame88B5, mgmtBody]
    rw [hframe] at hvlan ⊢
    refine does_next (execMgmtFrameCommand p _ s) rfl rfl ?_ (admitPacket_admits h (src ++ tag))
    simp only [hpd9, hpd1, vlanTag_frame88B5 hdst hsrc _ htag, be16_frame88B5 hdst hsrc,
      mgmtReceive_eq hready hdst hsrc htag hport hhost hvlan h]
    rfl
  case mailbox =>
    rintro n pk s hready q ⟨rest, hhand⟩ hkind hwords h
    obtain ⟨hadmitted, hframe⟩ :=
      admitPacket_admits (s := putQueue (56 + n.val) { q with hand := q.hand.tail } s.toChip) h []
    refine does_next (execMailboxCommand n s) rfl rfl ?_
      ⟨hadmitted, hframe .dq (by decide), ((putQueue_frame _ _ _).trans hframe).mono (by simp)⟩
    have hnext := nextItem_of_hand hhand
    simp only [hready, hnext, hkind, if_neg (Nat.not_lt.mpr hwords)]
    rfl

end Sys2Proof.Machine
end

section
/-! SUPPORT. The event ring (R70 to R73, R270): what a raise, an overflow record and a push do to it; and what the
packets that the device sends change. -/

namespace Sys2Proof.Machine

/-! ## Frames -/

theorem setEv_frame (s : Chip) (e : Ev) : OnlyChanges [.ev] s { s with ev := e } := by
  intro x hx
  cases x
  case ev => exact absurd (List.mem_singleton_self _) hx
  all_goals rfl

/-- Frames over the same parts join. -/
theorem OnlyChanges.join {ps : List Part} {s t u : Chip} (h : OnlyChanges ps s t) (k : OnlyChanges ps t u) :
    OnlyChanges ps s u := (h.trans k).mono (by simp)

/-- A step for each element of a list changes no more than each of them does. -/
theorem forEach_frame {α : Type} {ps : List Part} {f : α → Chip → Chip} (hf : ∀ x s, OnlyChanges ps s (f x s))
    (l : List α) (s : Chip) : OnlyChanges ps s (forEach l f s) := by
  induction l generalizing s with
  | nil => exact OnlyChanges.refl _ _
  | cons x l ih => exact (hf x s).join (ih (f x s))

/-! ## The ring (R71) -/

theorem ringPut_of_room {s : Chip} (h : s.ev.ring.length < 1024) (r : EvRec) :
    (ringPut r s).ev.ring = s.ev.ring ++ [{ r with seq := s.ev.seq }] := by
  simp [ringPut, ringSize, h]

/-- A record is written, or dropped and counted. -/
theorem ringWrite_cases (r : EvRec) (s : Chip) : ringWrite r s = ringPut r s ∨ ringWrite r s = ringDrop s := by
  unfold ringWrite
  split
  · split
    · exact .inr rfl
    · exact .inl rfl
  · split
    · exact .inr rfl
    · exact .inl rfl

/-- R71: a slot is free for a record of this level, and no drop that was not reported stands before it. -/
def SlotFor (level : Nat) (s : Chip) : Prop :=
  (level = 3 ∧ evFree s ≠ 0) ∨ (level ≠ 3 ∧ s.ev.overflow = false ∧ 16 < evFree s)

theorem ringWrite_of_slot {r : EvRec} {s : Chip} (h : SlotFor r.level s) : ringWrite r s = ringPut r s := by
  obtain ⟨hr, hfree⟩ | ⟨hr, hov, hfree⟩ := h
  · rw [ringWrite, if_pos hr, if_neg hfree]
  · have hput : ¬ (s.ev.overflow || decide (evFree s ≤ 16)) = true := by
      rw [hov, Bool.false_or, decide_eq_true_eq]
      exact Nat.not_le.mpr hfree
    rw [ringWrite, if_neg hr, if_neg hput]

theorem ringWrite_dropped {r : EvRec} {s : Chip} (hr : r.level ≠ 3) (h : s.ev.overflow = true ∨ evFree s ≤ 16) :
    ringWrite r s = ringDrop s := by
  have hdrop : (s.ev.overflow || decide (evFree s ≤ 16)) = true := by
    rw [Bool.or_eq_true, decide_eq_true_eq]
    exact h
  rw [ringWrite, if_neg hr, if_pos hdrop]

theorem ringWrite_frame (r : EvRec) (s : Chip) : OnlyChanges [.ev] s (ringWrite r s) := by
  obtain h | h := ringWrite_cases r s <;> rw [h] <;> exact setEv_frame _ _

theorem ringWrite_pend (r : EvRec) (s : Chip) : (ringWrite r s).ev.pend = s.ev.pend := by
  obtain h | h := ringWrite_cases r s <;> rw [h] <;> rfl

theorem ringWrite_raised (r : EvRec) (s : Chip) : (ringWrite r s).ev.raised = s.ev.raised := by
  obtain h | h := ringWrite_cases r s <;> rw [h] <;> rfl

/-! ## A raise reaches the executive (R70, R72) -/

/-- The source's PENDING bit is set. -/
def setPending (src : Nat) (s : Chip) : Chip := { s with ev := { s.ev with pend := s.ev.pend ||| srcBit src } }

/-- The record that a raise puts. -/
def recordOf (r : Raise) (s : Chip) : EvRec := evRecord r.src (evLevel r.src) r.unlocked false r.stamp r.payload s

theorem recordRaise_enabled {r : Raise} {s : Chip} (h : s.ev.ringEn.getLsbD (r.src % 128) = true) :
    recordRaise r s = ringWrite (recordOf r s) (setPending r.src s) := if_pos h

theorem recordRaise_disabled {r : Raise} {s : Chip} (h : s.ev.ringEn.getLsbD (r.src % 128) = false) :
    recordRaise r s = setPending r.src s := if_neg (by simpa [setPending] using h)

theorem recordRaise_frame (r : Raise) (s : Chip) : OnlyChanges [.ev] s (recordRaise r s) := by
  cases h : s.ev.ringEn.getLsbD (r.src % 128)
  case false => rw [recordRaise_disabled h]; exact setEv_frame _ _
  case true => rw [recordRaise_enabled h]; exact (setEv_frame _ _).join (ringWrite_frame _ _)

theorem recordRaise_pend (r : Raise) (s : Chip) : (recordRaise r s).ev.pend = s.ev.pend ||| srcBit r.src := by
  cases h : s.ev.ringEn.getLsbD (r.src % 128)
  case false => rw [recordRaise_disabled h]; rfl
  case true => rw [recordRaise_enabled h, ringWrite_pend]; rfl

theorem recordRaise_raised (r : Raise) (s : Chip) : (recordRaise r s).ev.raised = s.ev.raised := by
  cases h : s.ev.ringEn.getLsbD (r.src % 128)
  case false => rw [recordRaise_disabled h]; rfl
  case true => rw [recordRaise_enabled h, ringWrite_raised]; rfl

/-- With RING_EN at 1 and a slot for it, the record is the ring's newest. -/
theorem recordRaise_ring {r : Raise} {s : Chip} (hen : s.ev.ringEn.getLsbD (r.src % 128) = true)
    (hslot : SlotFor (evLevel r.src) s) (hroom : s.ev.ring.length < 1024) :
    (recordRaise r s).ev.ring = s.ev.ring ++ [recordOf r s] := by
  have hslot' : SlotFor (recordOf r s).level (setPending r.src s) := hslot
  rw [recordRaise_enabled hen, ringWrite_of_slot hslot']
  exact ringPut_of_room (s := setPending r.src s) hroom _

theorem recordRaise_dropped {r : Raise} {s : Chip} (hen : s.ev.ringEn.getLsbD (r.src % 128) = true)
    (hr : evLevel r.src ≠ 3) (h : s.ev.overflow = true ∨ evFree s ≤ 16) :
    recordRaise r s = ringDrop (setPending r.src s) := by
  rw [recordRaise_enabled hen]
  exact ringWrite_dropped hr h

theorem takeRaise_some {src : Nat} {l rest : List Raise} {r : Raise} (h : takeRaise src l = some (r, rest)) :
    r ∈ l ∧ r.src = src := by
  induction l generalizing rest with
  | nil => simp [takeRaise] at h
  | cons x l ih =>
    by_cases hx : x.src = src
    · simp only [takeRaise, if_pos hx, Option.some.injEq, Prod.mk.injEq] at h
      obtain ⟨rfl, _⟩ := h
      exact ⟨List.mem_cons_self, hx⟩
    · simp only [takeRaise, if_neg hx, Option.map_eq_some_iff, Prod.mk.injEq] at h
      obtain ⟨y, hy, rfl, _⟩ := h
      exact (ih hy).imp_left (List.mem_cons_of_mem _)

/-- While no EV_TIME_WRAP waits, none stands before a raise (R270). -/
theorem inWrapOrder_of_no_wrap {src : Nat} {l : List Raise} (hsrc : src ≠ 16) (h : ∀ r ∈ l, r.src ≠ 16) :
    inWrapOrder src l = true := by
  rw [inWrapOrder, if_neg hsrc, List.all_eq_true]
  exact fun r hr => decide_eq_true (h r (List.takeWhile_sublist _ |>.subset hr))

/-- The raises that wait for the executive. -/
def setRaised (l : List Raise) (s : Chip) : Chip := { s with ev := { s.ev with raised := l } }

/-- EVENT_RECORD_WRITE of a raise whose turn it is. -/
theorem does_eventRecordWrite {src : Fin 128} {r : Raise} {rest : List Raise} {s : State} {P : Chip → Prop}
    (hready : s.ubfen.ready = true) (htake : takeRaise src.val s.ev.raised = some (r, rest))
    (horder : inWrapOrder src.val s.ev.raised = true) (hP : P (recordRaise r (setRaised rest s.toChip))) :
    Does (.eventRecordWrite src) s P :=
  does_next (execEventRecordWrite src s) rfl rfl (by simp [hready, horder, htake, setRaised]) hP

/-- EVENT_RECORD_WRITE of a raise that an EV_TIME_WRAP holds back, or that holds one back. -/
theorem does_eventRecordWrite_held {src : Fin 128} {s : State} (horder : inWrapOrder src.val s.ev.raised = false) :
    Does (.eventRecordWrite src) s fun t => t = s.toChip :=
  does_next (execEventRecordWrite src s) rfl rfl (by simp [horder]) rfl

/-! ## The overflow record (R71) -/

/-- EV_RING_OVERFLOW with the number of drops. -/
def overflowRecord (s : Chip) : EvRec :=
  evRecord 2 (evLevel 2) (unlockedAt s s.time.stampDom) false (nsWord s) s.ev.lost s

/-- The drops are reported, and counted no longer. -/
def noteReported (s : Chip) : Chip :=
  { s with ev := { s.ev with lost := 0, overflow := false, pend := s.ev.pend ||| srcBit 2 } }

theorem does_ringOverflowRecord {s : State} {P : Chip → Prop} (hov : s.ev.overflow = true)
    (hfree : 16 < evFree s.toChip) (hwrap : ∀ r ∈ s.ev.raised, r.src ≠ 16)
    (hP : P (noteReported (ringPut (overflowRecord s.toChip) s.toChip))) : Does .ringOverflowRecord s P := by
  have hall : (s.ev.raised.all fun r => decide (r.src ≠ 16)) = true :=
    List.all_eq_true.mpr fun r hr => decide_eq_true (hwrap r hr)
  refine does_next (execRingOverflowRecord s) rfl rfl ?_ hP
  simp only [hov, hfree, hall]
  rfl

/-! ## Packets that are sent (R54, R56, R57, R342, R343) -/

theorem ethCompl_frame (e : Option FrameEnd) (st : Nat) (s : Chip) : OnlyChanges [.dq] s (ethCompl e st s) := by
  unfold ethCompl
  split
  · exact dqPutPacket_frame _ _ _ _ _
  · exact OnlyChanges.refl _ _

theorem oversize_frame (p : Nat) (e : Option FrameEnd) (s : Chip) : OnlyChanges [.dq, .cnt] s (oversize p e s) := by
  unfold oversize
  split
  · exact (ethCompl_frame _ _ _).mono (by simp)
  · exact (bump_frame _ _ _).mono (by simp)

theorem ethQueue_frame (p pcp : Nat) (f : Bytes) (e : Option FrameEnd) (s : Chip) :
    OnlyChanges [.dq, .eth, .cnt] s (ethQueue p pcp f e s) := by
  unfold ethQueue
  split
  · exact (oversize_frame _ _ _).mono (by simp)
  · split
    · exact ((bump_frame _ _ _).trans (ethCompl_frame _ _ _)).mono (by simp)
    · exact (ethUpd_frame _ _ _).mono (by simp)

/-- A packet sent leaves the protocol's part as it is, but that it waits in the reply queue on SPI. -/
theorem sendPacket_frame (tr : Nat) (back pkt : Bytes) (no : Option Nat) (s : Chip) :
    OnlyChanges [.ubfen, .dq, .eth, .cnt] s (sendPacket tr back pkt no s) := by
  unfold sendPacket
  split
  · exact (setUbfen_frame _ _).mono (by simp)
  · split
    · exact (ethQueue_frame _ _ _ _ _).mono (by simp)
    · split
      · exact (dqPutPacket_frame _ _ _ _ _).mono (by simp)
      · exact OnlyChanges.refl _ _

theorem sendPush_frame (tr pcp : Nat) (pkt : Bytes) (s : Chip) :
    OnlyChanges [.ubfen, .dq, .eth, .cnt] s (sendPush tr pcp pkt s) := by
  unfold sendPush
  split
  · exact forEach_frame (fun _ => sendPacket_frame _ _ _ _) _ _
  · exact sendPacket_frame _ _ _ _ _

/-! ## Pushes (R73) -/

/-- The records of a push are marked, and the next push is numbered. -/
def notePush (s : Chip) : Chip :=
  { s with ev := { s.ev with ring := markPushed s.ev.pushLevel s.ev.pushCount s.ev.ring
                             pushSeq := (s.ev.pushSeq + 1) % 2 ^ 32, pushLost := 0 } }

/-- The packet of a push that is due. -/
def duePush (s : Chip) : Bytes := pushPacket ((s.ev.ring.filter (unsent s)).take s.ev.pushCount) s

theorem does_eventPushSend {s : State} {P : Chip → Prop} (hdue : pushDue s.toChip = true)
    (hP : P (sendPush s.ev.pushTr 7 (duePush s.toChip) (notePush s.toChip))) : Does .eventPushSend s P :=
  does_next (execEventPushSend s) rfl rfl (if_pos hdue) hP

/-- Settles O13: a raise in its turn is `recordRaise`, which writes its record where there is a slot for it and counts a
drop where there is none; the overflow record reports the drops; and a push marks what it sends. -/
theorem eventRingRules : Obligations.EventRingRules := by
  refine ⟨fun src r rest s hready htake => ?raise, fun s hov hfree hroom hwrap => ?overflow, fun k s => ?pin,
    fun s hdue => ?push⟩
  case raise =>
    obtain ⟨hmem, hsrc⟩ := takeRaise_some htake
    have hmod : r.src % 128 = src.val := by rw [hsrc]; exact Nat.mod_eq_of_lt src.isLt
    refine ⟨does_eventRecordWrite_held, fun hno => inWrapOrder_of_no_wrap (hsrc ▸ hno r hmem) hno, fun horder => ?taken⟩
    refine does_eventRecordWrite hready htake horder ⟨by rw [recordRaise_pend, hsrc]; rfl, recordRaise_raised ..,
      (setEv_frame _ _).join (recordRaise_frame _ _), fun hen => ?disabled, fun hen => ?enabled⟩
    case disabled =>
      rw [recordRaise_disabled (s := setRaised rest s.toChip) (hmod ▸ hen)]
      exact ⟨rfl, rfl⟩
    case enabled =>
      have hon : (setRaised rest s.toChip).ev.ringEn.getLsbD (r.src % 128) = true := hmod ▸ hen
      refine ⟨fun hl hfree => recordRaise_ring hon (.inl ⟨hl, hfree⟩),
        fun hl hov hfree => recordRaise_ring hon (.inr ⟨hl, hov, hfree⟩), fun hl hfull => ?_⟩
      rw [recordRaise_dropped hon hl hfull]
      exact ⟨rfl, rfl, rfl⟩
  case overflow =>
    exact does_ringOverflowRecord hov hfree hwrap ⟨rfl, rfl, (setEv_frame _ _).join (setEv_frame _ _), _,
      ringPut_of_room hroom _, rfl, rfl, rfl⟩
  case pin => exact decide_eq_true_iff
  case push =>
    have hframe := sendPush_frame s.ev.pushTr 7 (duePush s.toChip) (notePush s.toChip)
    have hev : (sendPush s.ev.pushTr 7 (duePush s.toChip) (notePush s.toChip)).ev = (notePush s.toChip).ev :=
      hframe .ev (by decide)
    refine does_eventPushSend hdue ⟨by rw [hev]; rfl, by rw [hev]; rfl, by rw [hev]; rfl,
      (setEv_frame _ _).trans hframe, fun htr => ?_⟩
    rw [htr]
    rfl

end Sys2Proof.Machine
end

section
/-! SUPPORT. The event commands (Table 2.14, R71 to R73, R81): each passes its checks and completes in the state that
its effect gives. -/

namespace Sys2Proof.Machine

/-! ## Commands that run -/

/-- A command `e` of the protocol that runs: the state `t` that its effect gives. -/
theorem does_command {i : Instr} {s : State} {c : CmdRef} {op : Nat} {m : Cmd} {f : Chip → Cmd → Chip → Chip} {t : Chip}
    {P : Chip → Prop} (e : Out) (h : runnable c op s.toChip = some m) (hi : exec i s = e)
    (he : e = s.on fun x => runCmd c op x (f x)) (hf : f s.toChip m s.toChip = t) (hP : P t) : Does i s P :=
  does_run h (hi.trans he) (hf ▸ hP)

/-- A command `e` that runs and completes in the state `u`, which holds the same commands. -/
theorem does_justCompletes {i : Instr} {s : State} {c : CmdRef} {op : Nat} {m : Cmd} {f : Chip → Cmd → Chip → Chip}
    {st : Nat} {res : Bytes} {u : Chip} (e : Out) (h : runnable c op s.toChip = some m) (hi : exec i s = e)
    (he : e = s.on fun x => runCmd c op x (f x)) (hf : f s.toChip m s.toChip = complete c st res u)
    (hu : u.ubfen.cmds = s.ubfen.cmds) : Does i s (JustCompletes c st res u) :=
  does_complete h (hi.trans he) hf hu

/-- Bits of a byte that lie within the mask pass their check. -/
theorem maskAt_ok {p : Bytes} {off mask : Nat} (h : rd p off 1 &&& mask = rd p off 1) :
    ∀ x ∈ maskAt p off mask, x.2 = true := by
  simpa [maskAt, ck] using h

/-! ## EVENT_INJECT (R81, R270) -/

theorem settleWraps_frame (s : Chip) : OnlyChanges [.ev] s (settleWraps s) :=
  (setEv_frame _ _).join (forEach_frame recordRaise_frame _ _)

/-- Nothing is settled while no EV_TIME_WRAP waits. -/
theorem settleWraps_of_no_wrap {s : Chip} (h : ∀ r ∈ s.ev.raised, r.src ≠ 16) : settleWraps s = s := by
  have hall : (s.ev.raised.reverse.takeWhile fun r => decide (r.src ≠ 16)) = s.ev.raised.reverse := by
    have happ := List.takeWhile_append_of_pos (l₂ := []) fun r hr => decide_eq_true (h r (List.mem_reverse.mp hr))
    rwa [List.takeWhile_nil, List.append_nil] at happ
  have hnone : s.ev.raised.length - (s.ev.raised.reverse.takeWhile fun r => decide (r.src ≠ 16)).length = 0 := by
    rw [hall, List.length_reverse, Nat.sub_self]
  simp only [settleWraps, hnone]
  rfl

/-! ## EVENT_READ (R71) -/

/-- The records are read: they count as unread no more. -/
def markRead (l : List EvRec) (s : Chip) : Chip :=
  { s with ev := { s.ev with
      ring := s.ev.ring.map fun r => if l.any (fun x => x.seq = r.seq) then { r with unread := false } else r } }

/-- EVENT_READ of the oldest unread records completes in the state `u`, which is as before under PEEK. -/
theorem does_eventRead {c : CmdRef} {m : Cmd} {s : State} {u : Chip} (h : runnable c 0x0010 s.toChip = some m)
    (hn : 1 ≤ rd m.params 0 2 ∧ rd m.params 0 2 ≤ 511) (h3 : ZeroBytes m.params 3 1) (h6 : ZeroBytes m.params 6 2)
    (hpeek : (rd m.params 2 1 = 0 ∧ u = markRead ((s.ev.ring.filter EvRec.unread).take (rd m.params 0 2)) s.toChip) ∨
      (rd m.params 2 1 = 1 ∧ u = s.toChip)) :
    let l := (s.ev.ring.filter EvRec.unread).take (rd m.params 0 2)
    Does (.eventRead c) s (JustCompletes c stOk
      (wr 2 l.length ++ wr 2 (evFill u) ++ wr 2 s.ev.lost ++ zeros 2 ++ l.flatMap recBytes) u) := by
  intro l
  have hchecks : ∀ x ∈ [(0, within 1 511 (rd m.params 0 2))] ++ maskAt m.params 2 3 ++ zeroAt m.params 3 1 ++
      zeroAt m.params 6 2, x.2 = true := by
    simp only [List.forall_mem_append, List.forall_mem_singleton]
    refine ⟨⟨⟨decide_eq_true hn, maskAt_ok ?_⟩, zeroAt_ok h3⟩, zeroAt_ok h6⟩
    obtain ⟨h2, _⟩ | ⟨h2, _⟩ := hpeek <;> rw [h2] <;> rfl
  obtain ⟨h2, rfl⟩ | ⟨h2, rfl⟩ := hpeek
  all_goals
    refine does_justCompletes (execEventRead c s) h rfl rfl ((checked_ok hchecks _ _).trans ?_) rfl
    simp only [h2]
    rfl

/-- Settles O7: legal parameters pass their checks, and each command completes in the state that the statement names. -/
theorem eventCommandsComplete : Obligations.EventCommandsComplete := by
  refine ⟨?read, ?config, ?ack, ?pushSet, ?inject⟩
  case read =>
    rintro c m s _ h rfl h1 h511 h3 h6 l s' h01
    refine does_eventRead h ⟨h1, h511⟩ h3 h6 (h01.imp (fun h2 => ⟨h2, ?_⟩) fun h2 => ⟨h2, if_pos h2⟩)
    exact if_neg (by omega)
  case config =>
    rintro c m s _ _ _ _ h rfl rfl rfl rfl hab hb hst hcl hdisj
    refine does_justCompletes (execEventConfig c s) h rfl rfl (checked_ok ?_ _ _) rfl
    simp only [List.forall_mem_append, List.forall_mem_cons]
    exact ⟨⟨⟨⟨decide_eq_true hab, decide_eq_true hb, nofun⟩, maskAt_ok hst⟩, maskAt_ok hcl⟩, decide_eq_true hdisj,
      nofun⟩
  case ack =>
    intro c m s h
    exact does_justCompletes (execEventAck c s) h rfl rfl rfl rfl
  case pushSet =>
    rintro c m s _ _ _ _ h rfl rfl rfl rfl htr h1 h64 hlvl h5
    refine does_justCompletes (execEventPushSet c s) h rfl rfl (checked_ok ?_ _ _) rfl
    simp only [List.forall_mem_append, List.forall_mem_cons]
    exact ⟨⟨decide_eq_true htr, decide_eq_true ⟨h1, h64⟩, decide_eq_true hlvl, nofun⟩, zeroAt_ok h5⟩
  case inject =>
    rintro c m s _ _ h rfl rfl hsrc hres hlvl h2
    have hchecks : ∀ x ∈ [(0, decide (rd m.params 0 1 ≤ 127) && !evReserved (rd m.params 0 1)),
        ck 1 (rd m.params 1 1 ≤ 3)] ++ zeroAt m.params 2 6, x.2 = true := by
      simp only [List.forall_mem_append, List.forall_mem_cons]
      exact ⟨⟨by simp [hsrc, hres], decide_eq_true hlvl, nofun⟩, zeroAt_ok h2⟩
    refine ⟨fun hlc => ?deployed, fun hlc => ⟨?notDeployed, settleWraps_of_no_wrap⟩⟩
    case deployed =>
      exact does_justCompletes (execEventInject c s) h rfl rfl ((checked_ok hchecks _ _).trans (if_pos hlc)) rfl
    case notDeployed =>
      refine does_justCompletes (execEventInject c s) h rfl rfl ((checked_ok hchecks _ _).trans (if_neg hlc)) ?_
      exact congrArg Ubfen.cmds ((settleWraps_frame s.toChip).join (ringWrite_frame _ _) .ubfen (by decide))

end Sys2Proof.Machine
end

section
/-! SUPPORT. From the start of a command to its reply (R61 to R66): COMMAND_START, the reply that is kept at completion,
and REPLY_RELEASE. -/

namespace Sys2Proof.Machine

/-! ## COMMAND_START (R61, R64) -/

section
variable {c : CmdRef} {m : Cmd} {s : State} {P : Chip → Prop} (hready : s.ubfen.ready = true)
  (hfind : findCmd c s.toChip = some m) (hnext : startsNext m s.toChip = true)
include hready hfind hnext

theorem does_commandStart_starts (hno : startRefusal m s.toChip = none)
    (hP : P (updCmd c (fun m => { m with startedAt := some s.now }) s.toChip)) : Does (.commandStart c) s P :=
  does_next (execCommandStart c s) rfl rfl (by simp [hready, hfind, hnext, hno]) hP

/-- A command that a check refuses completes with the check's answer. -/
theorem does_commandStart_refused {st : Nat} {res : Bytes} (hst : startRefusal m s.toChip = some (st, res)) :
    Does (.commandStart c) s (JustCompletes c st res s.toChip) :=
  does_next (execCommandStart c s) rfl rfl (by simp [hready, hfind, hnext, hst]) (complete_just hfind st res)

end

section
variable {m : Cmd} {s : Chip}

theorem startRefusal_unknown (hop : knownOpcode m.opcode = false) : startRefusal m s = some (stBadOpcode, []) := by
  simp [startRefusal, hop]

theorem startRefusal_denied (hop : knownOpcode m.opcode = true)
    (hg : bitOf (trGroups s m.tr) (m.opcode / 256) = false) : startRefusal m s = some (stDenied, []) := by
  simp [startRefusal, hop, hg]

theorem startRefusal_tamperHold (hop : knownOpcode m.opcode = true)
    (hg : bitOf (trGroups s m.tr) (m.opcode / 256) = true) (hhold : s.boot.tamperHold = true)
    (hset : holdSet m.opcode = false) : startRefusal m s = some (stTamperHold, []) := by
  simp [startRefusal, hop, hg, hhold, hset]

end

/-! ## The kept reply (R63) -/

theorem keepReply_kept (m : Cmd) (st : Nat) (res : Bytes) (s : Chip) :
    ((keepReply m st res s).ubfen.streams.get (streamKey m.tr m.cls)).kept =
      ((m.seq, replyPacket m st res (keepReply m st res s)) ::
        (s.ubfen.streams.get (streamKey m.tr m.cls)).kept).take 16 := by
  simp only [keepReply, Tab.get_upd_self]
  rfl

/-- A completion ends by keeping the reply, and kept none before. -/
theorem complete_eq_keepReply {c : CmdRef} {m : Cmd} {s : Chip} (h : findCmd c s = some m) (st : Nat) (res : Bytes) :
    ∃ u, complete c st res s = keepReply m st (pad4 res) u ∧
      (u.ubfen.streams.get (streamKey m.tr m.cls)).kept = (s.ubfen.streams.get (streamKey m.tr m.cls)).kept := by
  simp only [complete, h]
  refine ⟨_, rfl, ?_⟩
  split
  · rfl
  · simp [updCmd, noteAccept]

/-! ## REPLY_RELEASE (R65, R66) -/

/-- The reply of a command leaves: it is in hand no more, and the reply kept for its duplicates is the one sent. -/
def dismiss (m : Cmd) (pkt : Bytes) (s : Chip) : Chip :=
  { s with ubfen := { s.ubfen with
      cmds := s.ubfen.cmds.filter fun e => e.no ≠ m.no
      streams := s.ubfen.streams.upd (streamKey m.tr m.cls) fun r =>
        { r with kept := r.kept.map fun k => if k.1 = m.seq then (k.1, pkt) else k } } }

theorem does_replyRelease {tr : Fin 11} {cls : Fin 16} {m : Cmd} {st mark : Nat} {res : Bytes} {s : State}
    {P : Chip → Prop} (hhead : streamHead tr.val cls.val s.toChip = some m) (hdone : m.done = some (st, res, mark))
    (hwritten : ∀ r ∈ s.ev.raised, mark ≤ r.no)
    (hP : P (sendPacket m.tr m.back (replyPacket m st res s.toChip) (some m.no)
      (dismiss m (replyPacket m st res s.toChip) s.toChip))) : Does (.replyRelease tr cls) s P := by
  have hall : replyReady m s.toChip = true := by simpa [replyReady, hdone] using hwritten
  refine does_next (execReplyRelease tr cls s) rfl rfl ?_ hP
  simp only [hhead, hdone, hall]
  rfl

theorem dismiss_frame (m : Cmd) (pkt : Bytes) (s : Chip) : OnlyChanges [.ubfen] s (dismiss m pkt s) :=
  setUbfen_frame _ _

theorem sendPacket_spi {tr : Nat} (htr : tr = 0) (back pkt : Bytes) (no : Option Nat) (s : Chip) :
    sendPacket tr back pkt no s = { s with ubfen := { s.ubfen with spiOut := s.ubfen.spiOut ++ [(pkt, no, s.now)] } } :=
  if_pos htr

theorem mgmtFrame_length_ge (dst src tag pkt : Bytes) : 60 ≤ (mgmtFrame dst src tag pkt).length := by
  simp only [mgmtFrame, List.length_append, zeros_length]
  omega

/-- A frame that is short enough joins its egress queue at a port that is up. -/
theorem ethQueue_up {p pcp : Nat} {f : Bytes} {s : Chip} (hpd : pdOn s 9 = true) (hlink : (s.eth.get p).link = true)
    (hmax : f.length + 4 ≤ ethCfg s p 4) (hmin : 60 ≤ f.length) (e : Option FrameEnd) :
    ethQueue p pcp f e s = ethUpd p (fun x => { x with egress := x.egress.upd pcp fun l => l ++ [(f, e)] }) s := by
  have hpad : f ++ zeros (60 - f.length) = f := by simp [Nat.sub_eq_zero_of_le hmin, zeros]
  simp [ethQueue, Nat.not_lt.mpr hmax, hpd, hlink, hpad]

/-- Transports 1 and 2 are the Ethernet ports 0 and 1: the management frame of a reply joins PCP 7 there. -/
theorem sendPacket_ethernet {tr p : Nat} {back pkt : Bytes} {s : Chip} (htr : tr = p + 1) (hp : p < 2)
    (hpd : pdOn s 9 = true) (hlink : (s.eth.get p).link = true)
    (hmax : (mgmtFrame (back.take 6) (portMac p s) (back.drop 6) pkt).length + 4 ≤ cfgGet s 0x0C01 (0x104 + 0x20 * p))
    (no : Option Nat) : sendPacket tr back pkt no s = ethUpd p (fun x => { x with egress := x.egress.upd 7 fun l =>
      l ++ [(mgmtFrame (back.take 6) (portMac p s) (back.drop 6) pkt, no.map .reply)] }) s := by
  have hlimit : 0x104 + 0x20 * p = ethId p 4 := Nat.add_right_comm 0x100 4 (0x20 * p)
  rw [hlimit] at hmax
  subst htr
  rw [sendPacket, if_neg (Nat.succ_ne_zero p), if_pos (Nat.succ_le_of_lt hp)]
  exact ethQueue_up hpd hlink hmax (mgmtFrame_length_ge ..) _

/-- Of the protocol's part a packet sent changes the reply queue of SPI alone. -/
theorem sendPacket_ubfen (tr : Nat) (back pkt : Bytes) (no : Option Nat) (s : Chip) :
    ∃ out, (sendPacket tr back pkt no s).ubfen = { s.ubfen with spiOut := out } := by
  unfold sendPacket
  split
  · exact ⟨_, rfl⟩
  · split
    · exact ⟨s.ubfen.spiOut, ethQueue_frame _ _ _ _ _ .ubfen (by decide)⟩
    · split
      · exact ⟨s.ubfen.spiOut, dqPutPacket_frame _ _ _ _ _ .ubfen (by decide)⟩
      · exact ⟨s.ubfen.spiOut, rfl⟩

theorem streamHead_some {tr cls : Nat} {s : Chip} {m : Cmd} (h : streamHead tr cls s = some m) :
    m.tr = tr ∧ m.cls = cls := by
  simpa using List.find?_some h

/-- Settles O12: a start goes by what `startRefusal` answers; a completion keeps the reply; and a release dismisses the
command and sends the reply, which each transport takes in its own way. -/
theorem commandsStartAndRepliesLeave : Obligations.CommandsStartAndRepliesLeave := by
  refine ⟨fun c m s hready hfind hnext => ?start, fun tr cls m st res mark s hhead hdone hwritten => ?release,
    fun c m st res s hfind => ?kept⟩
  case start =>
    exact ⟨fun hno => does_commandStart_starts hready hfind hnext hno rfl,
      fun st res => does_commandStart_refused hready hfind hnext, startRefusal_unknown, startRefusal_denied,
      startRefusal_tamperHold⟩
  case release =>
    obtain ⟨htr, -⟩ := streamHead_some hhead
    let pkt := replyPacket m st res s.toChip
    obtain ⟨out, hubfen⟩ := sendPacket_ubfen m.tr m.back pkt (some m.no) (dismiss m pkt s.toChip)
    refine does_replyRelease hhead hdone hwritten ⟨by rw [hubfen]; rfl, ?copy, fun h0 => ?spi, ?ethernet,
      ((dismiss_frame m pkt _).trans (sendPacket_frame _ _ _ _ _)).mono (by simp)⟩
    case copy => rw [hubfen]; exact congrArg Stream.kept (Tab.get_upd_self _ _ _)
    case spi =>
      rw [sendPacket_spi (by rw [htr, h0]; rfl)]
      exact ⟨rfl, setUbfen_frame _ _⟩
    case ethernet =>
      intro h1 h2 hpd hlink f hmax
      have hsend := sendPacket_ethernet (pkt := pkt) (s := dismiss m pkt s.toChip) (show m.tr = tr.val - 1 + 1 by omega)
        (by omega) hpd hlink hmax (some m.no)
      rw [hsend]
      exact ⟨by rw [ethUpd_eth, Tab.get_upd_self, Tab.get_upd_self]; rfl,
        ((dismiss_frame m pkt _).trans (ethUpd_frame _ _ _)).mono (by simp)⟩
  case kept =>
    obtain ⟨u, hu, hkept⟩ := complete_eq_keepReply hfind st res
    intro t
    rw [← hkept, show t = _ from hu]
    exact keepReply_kept ..
end Sys2Proof.Machine
end

section
/-! SUPPORT. The register commands (R77, R78, R500 to R506): reads without an effect, a poll's first and later reads,
and writes to registers of SYS. -/

namespace Sys2Proof.Machine

/-! ## Reads (R501, R503) -/

/-- The register's read does nothing but give its value: it is no SYS_DQ_DATAn and no APC_MTIMECMPn. -/
def PlainRead (a : Nat) : Prop := dqAt 0x0C a = none ∧ mtimeAt a = none

theorem regRead_plain {a : Nat} (h : PlainRead a) (s : Chip) : regRead a s = (regView s a, s) := by
  obtain ⟨hdq, hmtime⟩ := h
  simp [regRead, hdq, hmtime]

theorem regReads_plain {n a : Nat} (h : ∀ i, i < n → PlainRead (a + 4 * i)) (s : Chip) :
    regReads n a s = ((List.range n).flatMap fun i => wr 4 (regView s (a + 4 * i)), s) := by
  induction n generalizing a with
  | zero => rfl
  | succ n ih =>
    have hnext (i : Nat) : a + 4 * (i + 1) = a + 4 + 4 * i := by omega
    have hrest : ∀ i, i < n → PlainRead (a + 4 + 4 * i) := fun i hi => hnext i ▸ h (i + 1) (Nat.succ_lt_succ hi)
    have hfirst : PlainRead a := h 0 n.succ_pos
    simp only [regReads, regRead_plain hfirst, ih hrest, List.range_succ_eq_map, List.flatMap_cons, List.flatMap_map,
      hnext]
    rfl

theorem does_regRead {c : CmdRef} {m : Cmd} {a n : Nat} {s : State} (h : runnable c 0x0003 s.toChip = some m)
    (ha : rd m.params 0 4 = a) (hn : rd m.params 4 2 = n) (hzero : ZeroBytes m.params 6 2) (haddr : regAddrOk a = true)
    (hcount : 1 ≤ n ∧ n ≤ 256) (hblock : a % 0x10000 + 4 * n ≤ 0x10000)
    (hon : ∀ i, i < n → regOff s.toChip (a + 4 * i) = false) (hplain : ∀ i, i < n → PlainRead (a + 4 * i)) :
    Does (.regRead c) s (JustCompletes c stOk
      ((List.range n).flatMap fun i => wr 4 (regView s.toChip (a + 4 * i))) s.toChip) := by
  subst ha hn
  have hoff : ((List.range (rd m.params 4 2)).any fun i => regOff s.toChip (rd m.params 0 4 + 4 * i)) = false :=
    List.any_eq_false.mpr fun i hi => by simp [hon i (List.mem_range.mp hi)]
  refine does_justCompletes (execRegRead c s) h rfl rfl ((checked_ok ?_ _ _).trans ?_) rfl
  · simp only [List.forall_mem_append, List.forall_mem_cons]
    exact ⟨⟨haddr, by simp [within, hcount, hblock], nofun⟩, zeroAt_ok hzero⟩
  · simp only [hoff, regReads_plain hplain]
    rfl

/-! ## Polls (R77) -/

/-- A poll waits, and notes the value that it read last, and when. -/
def pollWaits (c : CmdRef) (v : Nat) (s : Chip) : Chip := updCmd c (fun m => { m with work := pollNote v s.now }) s

section
variable {c : CmdRef} {m : Cmd} {s : State} {v : Nat} {P : Chip → Prop} (h : runnable c 0x0005 s.toChip = some m)
  (hplain : PlainRead (rd m.params 0 4)) (hon : regOff s.toChip (rd m.params 0 4) = false)
  (hv : regView s.toChip (rd m.params 0 4) = v)
include h hplain hon hv

/-- The first read of a poll ends it or leaves it waiting. -/
theorem does_regPoll_first (haddr : regAddrOk (rd m.params 0 4) = true)
    (htime : 1 ≤ rd m.params 12 4 ∧ rd m.params 12 4 ≤ 10000000) (hwork : m.work = 0)
    (hP : P (if v &&& rd m.params 4 4 = rd m.params 8 4 then complete c stOk (wr 4 v) s.toChip
      else pollWaits c v s.toChip)) : Does (.regPoll c) s P := by
  refine does_command (execRegPoll c s) h rfl rfl ((checked_ok ?_ _ _).trans ?_) hP
  · obtain ⟨hdq, _⟩ := hplain
    simp only [List.forall_mem_cons]
    exact ⟨by simp [haddr, hdq], decide_eq_true htime, nofun⟩
  · simp [hwork, hon, regRead_plain hplain, hv, pollMatch, pollWaits]

/-- A later read of a poll, once 10 µs have passed, ends it on a match or at its timeout. -/
theorem does_regPollSample_due (hwork : m.work ≠ 0) (hdue : m.work / 2 ^ 32 - 1 + 10 * nsUs ≤ s.now)
    (hP : P (if v &&& rd m.params 4 4 = rd m.params 8 4 then complete c stOk (wr 4 v) s.toChip
      else if m.startedAt.any fun t => decide (t + rd m.params 12 4 * nsUs ≤ s.now) then
        complete c stTimeout (wr 4 v) s.toChip
      else pollWaits c v s.toChip)) : Does (.regPollSample c) s P := by
  refine does_command (execRegPollSample c s) h rfl rfl ?_ hP
  simp only [if_neg hwork, hon, if_pos hdue, regRead_plain hplain, hv, pollMatch, decide_eq_true_eq]
  rfl

end

/-! ## Writes to SYS (R504, R506, Table 18.2) -/

theorem regWrite_scratch (n : Fin 4) (v : Nat) (s : Chip) : regWrite .executive (0x30 + 4 * n.val) v s =
    some ({ s with sys := { s.sys with scratch := s.sys.scratch.set n.val (w32 v) } }, false) := by
  match n with
  | 0 => rfl
  | 1 => rfl
  | 2 => rfl
  | 3 => rfl

theorem regWrite_ringEn (n : Fin 4) (v : Nat) (s : Chip) : regWrite .executive (0x200 + 4 * n.val) v s =
    some ({ s with ev := { s.ev with ringEn := putWord s.ev.ringEn n.val v } }, false) := by
  match n with
  | 0 => rfl
  | 1 => rfl
  | 2 => rfl
  | 3 => rfl

theorem regWrite_pend (n : Fin 4) (v : Nat) (s : Chip) : regWrite .executive (0x230 + 4 * n.val) v s =
    some ({ s with ev := { s.ev with pend := s.ev.pend &&& ~~~ (putWord 0 n.val v) } }, false) := by
  match n with
  | 0 => rfl
  | 1 => rfl
  | 2 => rfl
  | 3 => rfl

/-- SYS lies in PD1. -/
theorem regOff_sys {a : Nat} {s : Chip} (ha : a < 0x10000) (hpd : pdOn s 1 = true) : regOff s a = false := by
  simp [regOff, regPd, Nat.div_eq_of_lt ha, hpd]

section
variable {a : Nat} {s : State} (halign : a % 4 = 0) (ha : a < 0x10000)
include halign ha

theorem regAddrOk_sys : regAddrOk a = true := decide_eq_true ⟨halign, by omega⟩

theorem does_sysWrite {v : Word} {t : Chip} (hpd : pdOn s.toChip 1 = true)
    (hw : regWrite .executive a v.toNat s.toChip = some (t, false)) :
    Does (.registerWrite .executive (BitVec.ofNat 24 a) v) s fun u => u = t := by
  have haddr : (BitVec.ofNat 24 a).toNat = a := Nat.mod_eq_of_lt (by omega)
  rw [← haddr] at hw
  refine does_executiveWrite ?_ ?_ hw rfl <;> rw [haddr]
  · exact regAddrOk_sys halign ha
  · exact regOff_sys ha hpd

end

/-- A core's window shows of SYS its own queues alone (R423). -/
theorem does_coreWrite_outside {k : Fin 8} {a : Nat} {v : Word} {s : State} (ha : a < 0x800) :
    Does (.registerWrite (.core k) (BitVec.ofNat 24 a) v) s fun t => t = s.toChip := by
  have haddr : (BitVec.ofNat 24 a).toNat = a := Nat.mod_eq_of_lt (by omega)
  have hwin : coreWindow k.val a s.toChip = false := by
    simp [coreWindow, within, Nat.div_eq_of_lt (show a < 0x10000 by omega), Nat.not_le.mpr ha]
  refine does_next (execRegisterWrite (.core k) (BitVec.ofNat 24 a) v s) rfl rfl ?_ rfl
  simp [haddr, hwin]

/-! ## REG_WRITE (R78) -/

/-- One unmasked entry is applied. -/
theorem regWrites_one {a v : Nat} {s t : Chip} {refused : Bool} (haddr : regAddrOk a = true) (hon : regOff s a = false)
    (hw : regWrite .executive a v s = some (t, refused)) :
    regWrites [(a, 0xFFFFFFFF, v)] ⟨s, 0, 0, stOk, 0⟩ = ⟨t, 1, b2n refused, stOk, 0⟩ := by
  simp [regWrites, masked, haddr, hon, hw]

theorem JustCompletes.completed {c : CmdRef} {st : Nat} {res : Bytes} {s t : Chip} (h : JustCompletes c st res s t) :
    Completed c st res t := h.1

theorem JustCompletes.frame {c : CmdRef} {st : Nat} {res : Bytes} {s t : Chip} (h : JustCompletes c st res s t) :
    OnlyChanges [.ubfen] s t := by
  obtain ⟨_, _, _, ht⟩ := h
  rw [ht]
  exact setUbfen_frame _ _

/-- REG_WRITE of one unmasked entry that is not refused. -/
theorem does_regWrite_one {c : CmdRef} {m : Cmd} {a v : Nat} {s : State} {t : Chip}
    (h : runnable c 0x0004 s.toChip = some m) (hn : rd m.params 0 4 = 1) (hlen : m.params.length = 16)
    (ha : rd m.params 4 4 = a) (hmask : rd m.params 8 4 = 0xFFFFFFFF) (hv : rd m.params 12 4 = v)
    (haddr : regAddrOk a = true) (hon : regOff s.toChip a = false)
    (hw : regWrite .executive a v s.toChip = some (t, false))
    (hcmds : t.ubfen.cmds = s.ubfen.cmds) :
    Does (.regWrite c) s (JustCompletes c stOk (wr 4 1 ++ wr 4 0 ++ wr 2 0 ++ zeros 2) t) := by
  refine does_justCompletes (execRegWrite c s) h rfl rfl ?_ hcmds
  have hentry : (List.range 1).map (fun i => (rd m.params (4 + 12 * i) 4, rd m.params (8 + 12 * i) 4,
      rd m.params (12 + 12 * i) 4)) = [(a, 0xFFFFFFFF, v)] := by simp [ha, hmask, hv]
  simp only [hn, hlen, hentry, regWrites_one haddr hon hw]
  rfl

/-- Settles O14: plain reads give what the registers hold, a poll ends or waits by the value that it reads, and the
writes are those of Table 18.2. -/
theorem registerCommandsComplete : Obligations.RegisterCommandsComplete := by
  refine ⟨?read, ?poll, ?write, fun n v s hpd => ⟨?scratch, ?ringEn, ?pend, fun k => does_coreWrite_outside (by omega)⟩⟩
  case read =>
    intro c m a n s h ha hn hzero halign hlt h1 h256 hblock hregs
    exact does_regRead h ha hn hzero (decide_eq_true ⟨halign, hlt⟩) ⟨h1, h256⟩ hblock (fun i hi => (hregs i hi).1)
      fun i hi => (hregs i hi).2
  case poll =>
    rintro c m _ s h rfl halign hlt hdq hmtime h1 hmax hon
    have haddr : regAddrOk (rd m.params 0 4) = true := decide_eq_true ⟨halign, hlt⟩
    have hplain : PlainRead (rd m.params 0 4) := ⟨hdq, hmtime⟩
    refine ⟨fun hwork hmatch => ?firstMatch, fun hwork hmatch => ?firstWaits, fun last hwork hlate => ?sample⟩
    case firstMatch =>
      refine does_regPoll_first h hplain hon rfl haddr ⟨h1, hmax⟩ hwork ?_
      rw [if_pos hmatch]
      exact complete_at h rfl _ _
    case firstWaits =>
      refine does_regPoll_first h hplain hon rfl haddr ⟨h1, hmax⟩ hwork ?_
      rw [if_neg hmatch]
      rfl
    case sample =>
      have hne : m.work ≠ 0 := by omega
      have hdue : m.work / 2 ^ 32 - 1 + 10 * nsUs ≤ s.now := by rw [nsUs]; omega
      refine ⟨fun hmatch => ?_, fun hmatch => ⟨fun t0 hstart htimeout => ?_, fun t0 hstart hearly => ?_⟩⟩ <;>
        refine does_regPollSample_due h hplain hon rfl hne hdue ?_
      · rw [if_pos hmatch]
        exact complete_at h rfl _ _
      · rw [if_neg hmatch, if_pos (by simpa [hstart] using htimeout)]
        exact complete_at h rfl _ _
      · rw [if_neg hmatch, if_neg (by simpa [hstart] using hearly)]
        rfl
  case write =>
    intro c m n v s h hn hlen ha hmask hv hpd
    have hlt : 0x30 + 4 * n.val < 0x10000 := by omega
    have haddr : regAddrOk (0x30 + 4 * n.val) = true := regAddrOk_sys (by omega) hlt
    refine (does_regWrite_one h hn hlen ha hmask hv haddr (regOff_sys hlt hpd) (regWrite_scratch n v _) rfl).imp
      fun t ht => ⟨ht.completed, ht.frame .sys (by decide), ?_⟩
    have hset := sysUpd_frame s.toChip fun y => { y with scratch := y.scratch.set n.val (w32 v) }
    exact (hset.trans ht.frame).mono (by simp)
  case scratch =>
    have hword : w32 v.toNat = v := by simp [w32]
    refine does_sysWrite (by omega) (by omega) hpd ?_
    rw [regWrite_scratch, hword]
  case ringEn => exact does_sysWrite (by omega) (by omega) hpd (regWrite_ringEn n _ _)
  case pend => exact does_sysWrite (by omega) (by omega) hpd (regWrite_pend n _ _)

end Sys2Proof.Machine
end
